-- ==== Sys2Proof/Word.lean ====
section
/-!
DEFINITION. The word types and the plain containers of the model.
-/

namespace Sys2Proof

/-- A byte: the unit of memory (00 R5). -/
abbrev Byte := BitVec 8

/-- A register word of 32 bits (03 R59). -/
abbrev Word := BitVec 32

/-- A 64-bit word: a register pair, an address, an instruction word (04 R83). -/
abbrev DWord := BitVec 64

/-- Data by key: a list of key and value pairs, keys strictly rising, no entry equal to the
value an unlisted key reads as.  Machine/Sparse.lean reads and writes it. -/
abbrev Sparse (α : Type) := List (Nat × α)

/-- A set of lanes: ascending, without repeats.  The 32 mask words and the summary word of 01 R10
are computed views of it. -/
abbrev Mask := List Nat

end Sys2Proof
end

