-- ==== Sys2Proof/Config.lean ====
section
/-!
DEFINITION. What an implementation fixes, and the values the spec leaves open.
No constant here has a value that a proof could see.
-/

namespace Sys2Proof.Config

/-- A byte the spec calls unspecified (09 R210, 12 R285, 19 R338), one for each value of the
counter `fresh` of the state (log 7). -/
opaque freeByte : Nat → Byte

/-- A 32-bit value the spec calls unspecified (09 R202), for each value of `fresh` (log 7). -/
opaque freeWord : Nat → Word

/-- The fixed result a special function returns for an input where the spec gives only a bound
(07 R153): `special fn narrow x` for function number fn, destination type code and input pattern.
Machine/Special.lean keeps it inside the bound (log 8). -/
opaque special : Nat → Nat → Nat → Int

/-- Which of the stacks that are left goes to the n-th place of the base dies, two places for each die after stack 0 (00 R1; the spec
gives no map; log 37). -/
opaque stackPick : Nat → Nat

/-- The 1588 configuration of the fabric block, which the spec names and does not lay out (22 R381, log 9). -/
opaque ptpConfig : List Byte

/-- The digest function SHAKE256 of 64 bytes output, which the spec names and does not define
(22 R381, log 9). -/
opaque shake256 : List Byte → List Byte

/-- The 8-byte version of a firmware image, whose place in the image the spec does not give (22 R382, log 9). -/
opaque fwVersion : List Byte → DWord

/-- ML-DSA-65 verification of a signature over a digest against the vendor's key (22 R381, log 9). -/
opaque mldsaVerify : List Byte → List Byte → Bool

/-- ML-DSA-65 signature with the device identity key (22 R382, log 9): 3,309 bytes are taken. -/
opaque mldsaSign : List Byte → Byte × List Byte

/-- The device serial number and identity public key, byte by byte (22 R382, log 9). -/
opaque identity : Nat → Byte

/-- What so many spilled paths and spilled token-stack entries of a team take beyond a byte each (01 R25, R26, 19 R336, log 25). -/
opaque spillBytes : Nat → Nat → Nat

end Sys2Proof.Config
end

