-- ==== Sys2Proof/Machine/Bits.lean ====
section
/-!
DEFINITION. Bit fields, extension, wrapping, saturation, and bytes of a word, lowest byte first (00 R5, 02 R58).
-/

namespace Sys2Proof

/-- Bits lo to lo + n - 1 of x. -/
def fld (x lo n : Nat) : Nat := x / 2 ^ lo % 2 ^ n

/-- Bit i of x. -/
def tbit (x i : Nat) : Bool := x / 2 ^ i % 2 == 1

/-- The low w bits of x read as two's complement. -/
def sext (x w : Nat) : Int :=
  let y := x % 2 ^ w
  if y < 2 ^ (w - 1) then (y : Int) else (y : Int) - (2 ^ w : Nat)

/-- An exact integer wrapped to w bits. -/
def wrapN (w : Nat) (i : Int) : Nat := (i % ((2 ^ w : Nat) : Int)).toNat

def wrap32 (i : Int) : Word := BitVec.ofNat 32 (wrapN 32 i)
def wrap64 (i : Int) : DWord := BitVec.ofNat 64 (wrapN 64 i)

/-- The nearest value in lo to hi. -/
def clampI (lo hi i : Int) : Int := if i < lo then lo else if hi < i then hi else i

/-- The n bytes of x, lowest first. -/
def bytesOf (n x : Nat) : List Byte := (List.range n).map fun i => BitVec.ofNat 8 (x / 2 ^ (8 * i))

/-- The number whose bytes, lowest first, are given. -/
def ofBytes : List Byte → Nat
  | [] => 0
  | b :: l => b.toNat + 256 * ofBytes l

/-- The number of 1 bits of the low w bits. -/
def popCount (x w : Nat) : Nat := (List.range w).foldl (fun n i => n + x / 2 ^ i % 2) 0

/-- Leading zeros of a 32-bit value. -/
def clz32 (x : Nat) : Nat := if x % 2 ^ 32 = 0 then 32 else 31 - Nat.log2 (x % 2 ^ 32)

def ceilDiv (a b : Nat) : Nat := (a + b - 1) / b

end Sys2Proof
end

