-- ==== Sys2Proof/Syntax.lean ====
section
/-!
DEFINITION. The instructions and events of the NB-2700: one constructor of `Instr` for each row of the
opcode table.  Operands are numbers already taken out of the words (04 R85, 06 R115); Decode.lean does that.
-/

namespace Sys2Proof

/-- Type codes 0x0 to 0xF in order (04 R88). -/
inductive Ty where
  | b32 | i8 | i16 | i32 | i64 | n8 | n16 | n32 | n64 | f32 | f16 | bf16 | e4m3 | e5m2 | e2m1 | q4n
deriving DecidableEq, Repr

/-- The conditions with codes 0 to 9 (04 R100). -/
inductive Cond where
  | eq | ne | lt | le | gt | ge | un | ord | any | none
deriving DecidableEq, Repr

/-- Reduction operations of vred and vscan, codes 0 to 5 (05 R110). -/
inductive RedOp where
  | add | min | max | and | or | xor
deriving DecidableEq, Repr

/-- Atomic operations, codes 0 to 7 (05 R111). -/
inductive AtomOp where
  | add | min | max | and | or | xor | exch | cas
deriving DecidableEq, Repr

/-- Orders, codes 0 to 3 (04 R89). -/
inductive Order where
  | rlx | acq | rel | ar
deriving DecidableEq, Repr

/-- Pooling modes, codes 0 to 2 (05 R110). -/
inductive PoolMode where
  | sum | mean | max
deriving DecidableEq, Repr

/-- Reductions of an all-reduce, codes 0 to 2 (05 R110). -/
inductive CollRed where
  | add | min | max
deriving DecidableEq, Repr

/-- Forecast modes, codes 0 to 2 (05 R110). -/
inductive FcMode where
  | hold | linear | damped
deriving DecidableEq, Repr

/-- The source a literal replaces: codes 0 to 2 of LSEL (04 R92). -/
inductive LSel where
  | a | b | c
deriving DecidableEq, Repr

/-- A guard: sense and select (04 R86). -/
structure Guard where
  neg : Bool
  sel : Nat
deriving DecidableEq, Repr

/-- A literal and the source it replaces (04 R92). -/
structure Lit where
  sel : LSel
  val : Word
deriving DecidableEq, Repr

/-- The fields of an S instruction, or of a W-literal instruction when `lit` is present (04 R85, R92):
GUARD, DST, SRCA, SRCB, SRCC, TYPE, MOD and bits 63:60. -/
structure Args where
  guard : Guard
  d : Nat
  a : Nat
  b : Nat
  c : Nat
  ty : Ty
  md : Nat
  ext : Nat
  lit : Option Lit
deriving DecidableEq, Repr

/-- The fields of a control instruction (06 R115). `tgt` is the raw 20-bit target field. -/
structure Ctl where
  guard : Guard
  opnd : Nat
  tgt : Nat
  token : Nat
  aux : Nat
deriving DecidableEq, Repr

/-- A test of a prism (04 R99): `tty` is one of the four test types, `bkind` 0 to 3. -/
structure PTest where
  bkind : Nat
  b : Nat
  a : Nat
  tty : Ty
  cond : Cond
deriving DecidableEq, Repr

/-- Arc operations with codes 0x00 to 0x1B (04 R102). -/
inductive ArcOp where
  | mov | addI | subI | mulI | and | or | xor | not | shl | shr | sra | minI | maxI | minN | maxN | negI
  | absI | addF | subF | mulF | minF | maxF | negF | absF | pset | pclr | cvtFI | cvtIF
deriving DecidableEq, Repr

/-- An arc of a prism (04 R101). -/
structure PArc where
  b : Nat
  a : Nat
  dst : Nat
  lf : Bool
  op : ArcOp
  edge : Nat
deriving DecidableEq, Repr

/-- A prism (04 R97): seven tests, six arcs, eight leaf codes, two raw 20-bit targets, the literal. -/
structure Prism where
  guard : Guard
  present : Nat
  token : Nat
  arcn : Nat
  tests : List PTest
  arcs : List PArc
  leaf : List Nat
  tgtA : Nat
  tgtB : Nat
  lit : Word
deriving DecidableEq, Repr

/-- Pair operations with codes 0x01 to 0x13 (04 R94). -/
inductive PairOp where
  | add | sub | mul | mad | min | max | neg | abs | and | or | xor | not | andn | shl | shr | sra | mov | cmp | cvt
deriving DecidableEq, Repr

/-- A sub-operation of a W-pair (04 R93). `cond` is the raw condition code, 0 to 15. -/
structure SubOp where
  op : PairOp
  ty : Ty
  ty2 : Ty
  cond : Nat
  kc : Bool
  kb : Bool
  ka : Bool
  d : Nat
  a : Nat
  b : Nat
  c : Nat
deriving DecidableEq, Repr

/-- The counters that any write clears (18 R325, 20 R350, 22 R373, R377, R378). -/
inductive CounterReg where
  | slip (cluster : Nat) | trdrop (die : Nat) | hdrop (die : Nat) | mxgates (core : Nat) | drpcnt (quad : Nat)
  | eccce (die n : Nat) | eccue (die n : Nat) | mxrerun (die : Nat) | mxmchk (die : Nat)
deriving DecidableEq, Repr

/-- The firmware and host registers whose write only stores (18 R306, R324, 19 R331, 20 R350, 21 R358, R362, R364,
22 R373, R375, R382), and the tables that firmware programs. -/
inductive FwReg where
  | parate (cluster : Nat) | pacap (cluster : Nat) | parsv (cluster c : Nat)
  | fqhead (die : Nat) | brhead (die : Nat) | sthead (die : Nat) | trhead (die : Nat)
  | smpctl (core : Nat) | dbgen (core : Nat) | bp (core n : Nat) | wp (core n : Nat) | wpctl (core n : Nat)
  | trctl (die : Nat) | hctl (die : Nat) | hdst (die : Nat)
  | pwrlim | mxidle (core : Nat) | drpthr (quad : Nat) | tlim (n : Nat)
  | ptroot (vi : Nat) | errbase (vi : Nat) | errhead (vi : Nat) | flipbase (vi : Nat) | fabgrp (vi : Nat)
  | pool (vi n : Nat)
  | attnonce (n : Nat) | attdst
  | route (dest : Nat) | logicalCluster (vi m : Nat) | communicator (vi n member : Nat)
deriving DecidableEq, Repr

/-- A storage error and its place (19 R337, 22 R377): uncorrectable ones, a corrected one of structure `n`, and a parity error of a line of
an instruction cache.  The bytes of a tile from 16,384 on are its scale store. -/
inductive SoftErr where
  | vreg (core slot reg lane : Nat) | sreg (core slot reg : Nat) | tile (core w tile byte : Nat)
  | acc (core w acc cell : Nat) | mem (addr : Nat) | dirtyLine (core line : Nat) | penumbra (core idx : Nat)
  | corrected (die n : Nat) | icache (cluster line : Nat)
deriving DecidableEq, Repr

/-- What a machine check concerns (19 R338): the team and path, SRC and KIND of its record, and the copy context ECTX (19 R330). -/
structure MPlace where
  core : Nat
  slot : Nat
  path : Nat
  src : Nat
  kind : Nat
  ectx : Nat
deriving DecidableEq, Repr

/-- Data on their way to a team: the path, and which of its destinations that are not written yet (11 R253). -/
structure DataRef where
  path : Nat
  idx : Nat
deriving DecidableEq, Repr

/-- An access that arrives from a peer device (21 R363, 12 R280): performed in this device's HBM4. -/
inductive PeerAcc where
  | load (addr len : Nat) | store (addr : Nat) (bytes : List Byte)
  | ratom (op : AtomOp) (ty : Ty) (addr : Nat) (data expect : DWord)
deriving DecidableEq, Repr

/-- One constructor for each row of the opcode table. -/
inductive Instr where
  /-- BRA (R119). -/
  | bra (x : Ctl)
  /-- BRC (R120). -/
  | brc (x : Ctl)
  /-- BRV (R121). -/
  | brv (x : Ctl)
  /-- BRX (R122). -/
  | brx (x : Ctl)
  /-- CALL (R124). -/
  | call (x : Ctl)
  /-- RET (R125). -/
  | ret (x : Ctl)
  /-- PRISM (R126). -/
  | prism (x : Prism)
  /-- JOIN (R127). -/
  | join (x : Ctl)
  /-- JOIN_MERGE (R22). -/
  | joinMerge (core slot tok inst : Nat)
  /-- EXIT (R128). -/
  | exit (x : Ctl)
  /-- LOOP (R123). -/
  | loop (x : Ctl)
  /-- NOP (R129). -/
  | nop (x : Ctl)
  /-- IPREF (R130). -/
  | ipref (x : Ctl)
  /-- YIELD (R131). -/
  | yield (x : Ctl)
  /-- SADD (R133). -/
  | sadd (x : Args)
  /-- SSUB (R133). -/
  | ssub (x : Args)
  /-- SMUL (R133). -/
  | smul (x : Args)
  /-- SMULH (R133). -/
  | smulh (x : Args)
  /-- SMAD (R133). -/
  | smad (x : Args)
  /-- SAND (R133). -/
  | sand (x : Args)
  /-- SOR (R133). -/
  | sor (x : Args)
  /-- SXOR (R133). -/
  | sxor (x : Args)
  /-- SNOT (R133). -/
  | snot (x : Args)
  /-- SSHL (R133). -/
  | sshl (x : Args)
  /-- SSHR (R133). -/
  | sshr (x : Args)
  /-- SSRA (R133). -/
  | ssra (x : Args)
  /-- SMIN (R133). -/
  | smin (x : Args)
  /-- SMAX (R133). -/
  | smax (x : Args)
  /-- SPOP (R133). -/
  | spop (x : Args)
  /-- SCLZ (R133). -/
  | sclz (x : Args)
  /-- SCMP (R134). -/
  | scmp (c : Cond) (x : Args)
  /-- SSEL (R133). -/
  | ssel (x : Args)
  /-- SMOV (R133). -/
  | smov (x : Args)
  /-- SLI (R133). -/
  | sli (x : Args)
  /-- DADD (R133). -/
  | dadd (x : Args)
  /-- DSUB (R133). -/
  | dsub (x : Args)
  /-- DMOV (R133). -/
  | dmov (x : Args)
  /-- SLEA (R135). -/
  | slea (x : Args)
  /-- SGET (R136). -/
  | sget (x : Args)
  /-- SSET (R137). -/
  | sset (x : Args)
  /-- SXLAT (R139). -/
  | sxlat (x : Args)
  /-- VADD (R146). -/
  | vadd (x : Args)
  /-- VSUB (R146). -/
  | vsub (x : Args)
  /-- VMUL (R146). -/
  | vmul (x : Args)
  /-- VMULH (R146). -/
  | vmulh (x : Args)
  /-- VMAD (R146). -/
  | vmad (x : Args)
  /-- VNEG (R146). -/
  | vneg (x : Args)
  /-- VABS (R146). -/
  | vabs (x : Args)
  /-- VMIN (R147). -/
  | vmin (x : Args)
  /-- VMAX (R147). -/
  | vmax (x : Args)
  /-- VAND (R146). -/
  | vand (x : Args)
  /-- VOR (R146). -/
  | vor (x : Args)
  /-- VXOR (R146). -/
  | vxor (x : Args)
  /-- VNOT (R146). -/
  | vnot (x : Args)
  /-- VANDN (R146). -/
  | vandn (x : Args)
  /-- VSHL (R146). -/
  | vshl (x : Args)
  /-- VSHR (R146). -/
  | vshr (x : Args)
  /-- VSRA (R146). -/
  | vsra (x : Args)
  /-- VROT (R146). -/
  | vrot (x : Args)
  /-- VPOP (R146). -/
  | vpop (x : Args)
  /-- VCLZ (R146). -/
  | vclz (x : Args)
  /-- VBFE (R148). -/
  | vbfe (x : Args)
  /-- VBFI (R148). -/
  | vbfi (x : Args)
  /-- VCMP (R149). -/
  | vcmp (c : Cond) (x : Args)
  /-- VSEL (R146). -/
  | vsel (x : Args)
  /-- VMOV (R146). -/
  | vmov (x : Args)
  /-- VDOT4 (R150). -/
  | vdot4 (x : Args)
  /-- VSAD (R150). -/
  | vsad (x : Args)
  /-- VCLASS (R151). -/
  | vclass (x : Args)
  /-- VROUND (R152). -/
  | vround (x : Args)
  /-- W_PAIR (R96). -/
  | wPair (x y : SubOp)
  /-- VRCP (R153). -/
  | vrcp (x : Args)
  /-- VRSQ (R153). -/
  | vrsq (x : Args)
  /-- VSQRT (R153). -/
  | vsqrt (x : Args)
  /-- VEXP2 (R153). -/
  | vexp2 (x : Args)
  /-- VLOG2 (R153). -/
  | vlog2 (x : Args)
  /-- VSIN (R153). -/
  | vsin (x : Args)
  /-- VCOS (R153). -/
  | vcos (x : Args)
  /-- VTANH (R153). -/
  | vtanh (x : Args)
  /-- VSIGM (R153). -/
  | vsigm (x : Args)
  /-- VCVT (R154). -/
  | vcvt (x : Args)
  /-- VPACK (R155). -/
  | vpack (x : Args)
  /-- VUNPACK (R156). -/
  | vunpack (x : Args)
  /-- VQSCALE (R157). -/
  | vqscale (x : Args)
  /-- VQENC (R158). -/
  | vqenc (x : Args)
  /-- VQDEC (R159). -/
  | vqdec (x : Args)
  /-- AMAXRD (R160). -/
  | amaxrd (x : Args)
  /-- VDROP (R161). -/
  | vdrop (x : Args)
  /-- VPERM (R163). -/
  | vperm (x : Args)
  /-- VSHFL (R164). -/
  | vshfl (x : Args)
  /-- VPUSH (R165). -/
  | vpush (x : Args)
  /-- VBCAST (R162). -/
  | vbcast (x : Args)
  /-- VRED (R166). -/
  | vred (team : Bool) (op : RedOp) (x : Args)
  /-- VSCAN (R166). -/
  | vscan (team : Bool) (op : RedOp) (x : Args)
  /-- VBALLOT (R167). -/
  | vballot (x : Args)
  /-- VBALLOT_TEAM (R167). -/
  | vballotTeam (x : Args)
  /-- VID (R162). -/
  | vid (x : Args)
  /-- LD (R174). -/
  | ld (x : Args)
  /-- ST (R174). -/
  | st (x : Args)
  /-- LDS (R174). -/
  | lds (x : Args)
  /-- STS (R174). -/
  | sts (x : Args)
  /-- PREF (R176). -/
  | pref (x : Args)
  /-- ATOM (R178). -/
  | atom (op : AtomOp) (o : Order) (x : Args)
  /-- ATOMS (R178). -/
  | atoms (op : AtomOp) (o : Order) (x : Args)
  /-- RATOM (R178). -/
  | ratom (op : AtomOp) (o : Order) (x : Args)
  /-- FENCE (R179). -/
  | fence (o : Order) (x : Args)
  /-- EBIND (R180). -/
  | ebind (x : Args)
  /-- EUNBIND (R180). -/
  | eunbind (x : Args)
  /-- EACQ (R181). -/
  | eacq (x : Args)
  /-- EREL (R182). -/
  | erel (x : Args)
  /-- NBARR (R184). -/
  | nbarr (x : Args)
  /-- NBWAIT (R184). -/
  | nbwait (x : Args)
  /-- NBSYNC (R184). -/
  | nbsync (x : Args)
  /-- TBAR (R186). -/
  | tbar (x : Args)
  /-- TREE_BARRIER_COMPLETE (R323). -/
  | treeBarrierComplete (core w level : Nat)
  /-- BARRIER_TIMEOUT (R185). -/
  | barrierTimeout (core slot path : Nat)
  /-- TLWAIT (R187). -/
  | tlwait (x : Args)
  /-- TLREAD (R187). -/
  | tlread (x : Args)
  /-- RPUT (R188). -/
  | rput (x : Args)
  /-- RING_SLOT_PUBLISH (R188). -/
  | ringSlotPublish (cluster ring slot : Nat)
  /-- RTAKE (R189). -/
  | rtake (x : Args)
  /-- RDONE (R189). -/
  | rdone (x : Args)
  /-- QPUT (R190). -/
  | qput (x : Args)
  /-- QTAKE (R190). -/
  | qtake (x : Args)
  /-- FBOPEN (R192). -/
  | fbopen (x : Args)
  /-- FBNEXT (R192). -/
  | fbnext (x : Args)
  /-- FBEND (R192). -/
  | fbend (x : Args)
  /-- FBGET (R192). -/
  | fbget (x : Args)
  /-- FBCLOSE (R192). -/
  | fbclose (x : Args)
  /-- TLD (R198). -/
  | tld (x : Args)
  /-- TILE_LOAD_WHOLE (R198). -/
  | tileLoadWhole (core w tile : Nat)
  /-- TST (R199). -/
  | tst (x : Args)
  /-- TZERO (R200). -/
  | tzero (x : Args)
  /-- TZF (R200). -/
  | tzf (x : Args)
  /-- MMA (R203). -/
  | mma (x : Args)
  /-- MMAA (R203). -/
  | mmaa (x : Args)
  /-- MATRIX_STEP_START (R201). -/
  | matrixStepStart (core : Nat)
  /-- MATRIX_STEP_END (R201). -/
  | matrixStepEnd (core mismatches : Nat)
  /-- MCOMMIT (R204). -/
  | mcommit (x : Args)
  /-- MWAIT (R205). -/
  | mwait (x : Args)
  /-- AREAD (R207). -/
  | aread (x : Args)
  /-- AWRITE (R207). -/
  | awrite (x : Args)
  /-- AZERO (R207). -/
  | azero (x : Args)
  /-- AQ (R208). -/
  | aq (x : Args)
  /-- CPY_TO_SCRATCHPAD (R209). -/
  | cpyToScratchpad (x : Args)
  /-- CPY_TO_MEMORY (R209). -/
  | cpyToMemory (x : Args)
  /-- CPYM (R211). -/
  | cpym (x : Args)
  /-- COPY_FAULT (R210). -/
  | copyFault (core op : Nat)
  /-- COPY_COMPLETE (R210). -/
  | copyComplete (core op : Nat)
  /-- GATH (R213). -/
  | gath (x : Args)
  /-- GPOOL (R214). -/
  | gpool (m : PoolMode) (x : Args)
  /-- SCAT (R213). -/
  | scat (x : Args)
  /-- GATHER_COMPLETE (R212). -/
  | gatherComplete (core op : Nat)
  /-- COLL_ALLREDUCE (R215). -/
  | collAllreduce (r : CollRed) (x : Args)
  /-- COLL_ALLGATHER (R215). -/
  | collAllgather (x : Args)
  /-- COLL_ALLTOALL (R215). -/
  | collAlltoall (x : Args)
  /-- COLLECTIVE_COMPLETE (R215). -/
  | collectiveComplete (core op : Nat)
  /-- ESTAT (R216). -/
  | estat (x : Args)
  /-- LAINIT (R221). -/
  | lainit (x : Args)
  /-- LAADD (R222). -/
  | laadd (x : Args)
  /-- LACHK (R222). -/
  | lachk (x : Args)
  /-- LAEST (R223). -/
  | laest (x : Args)
  /-- LASTAG (R227). -/
  | lastag (x : Args)
  /-- LASTAG_DIVG (R227). -/
  | lastagDivg (x : Args)
  /-- LAFLAG (R227). -/
  | laflag (x : Args)
  /-- LACLR (R222). -/
  | laclr (x : Args)
  /-- FCBIND (R229). -/
  | fcbind (x : Args)
  /-- FCREC (R230). -/
  | fcrec (x : Args)
  /-- FCTAKE (R231). -/
  | fctake (m : FcMode) (x : Args)
  /-- SPRES (R235). -/
  | spres (x : Args)
  /-- TOLERANCE_COMPARE_DONE (R235). -/
  | toleranceCompareDone (core fs : Nat)
  /-- DEFERRED_OP_PERFORM (R234). -/
  | deferredOpPerform (core slot : Nat)
  /-- HELD_OP_RELEASE (R233). -/
  | heldOpRelease (core slot path : Nat)
  /-- SPJOIN (R236). -/
  | spjoin (x : Args)
  /-- SPABORT (R237). -/
  | spabort (x : Args)
  /-- SPSTAT (R237). -/
  | spstat (x : Args)
  /-- TRAP (R244). -/
  | trap (x : Args)
  /-- TRET (R245). -/
  | tret (x : Args)
  /-- BRK (R244). -/
  | brk (x : Args)
  /-- TSREAD (R246). -/
  | tsread (x : Args)
  /-- WAKE (R247). -/
  | wake (x : Args)
  /-- PMREAD (R248). -/
  | pmread (x : Args)
  /-- MARK (R249). -/
  | mark (x : Args)
  /-- TRAP_DELIVERY (R240). -/
  | trapDelivery (core slot path : Nat)
  /-- STOP_RECORD (R354). -/
  | stopRecord (die : Nat)
  /-- LOAD_DATA_RETURN (R252). -/
  | loadDataReturn (core slot : Nat) (d : DataRef)
  /-- STORE_ACKNOWLEDGE (R175). -/
  | storeAcknowledge (core idx : Nat)
  /-- FAULT_RECORD (R330). -/
  | faultRecord (die : Nat)
  /-- PATH_UNSPILL (R26). -/
  | pathUnspill (core slot : Nat)
  /-- ISSUE_CYCLE (R254). -/
  | issueCycle (core : Nat)
  /-- STARVATION_OVERRIDE (R259). -/
  | starvationOverride (core slot path : Nat)
  /-- MATRIX_ENGINE_GATE (R257). -/
  | matrixEngineGate (core : Nat)
  /-- MATRIX_WAKE_DONE (R257). -/
  | matrixWakeDone (core : Nat)
  /-- TEAM_RETIRE (R39). -/
  | teamRetire (core slot : Nat)
  /-- DISPATCH_ACTION (R318). -/
  | dispatchAction (die : Nat)
  /-- READY_RECORD_STARVE (R318). -/
  | readyRecordStarve (die idx : Nat)
  /-- TEAM_START (R322). -/
  | teamStart (core slot : Nat)
  /-- GRAPH_REGISTER (R307). -/
  | graphRegister (vi n : Nat) (v : DWord)
  /-- GRAPH_UNREGISTER (R307). -/
  | graphUnregister (vi n : Nat)
  /-- KICK (R309). -/
  | kick (vi : Nat) (v : DWord)
  /-- NODE_COMPLETE (R313). -/
  | nodeComplete (vi replay node : Nat)
  /-- ERR_CLEAR (R311). -/
  | errClear (vi : Nat) (v : DWord)
  /-- MCSET (R320). -/
  | mcset (vi : Nat) (v : DWord)
  /-- MULTICAST_CHANGE_DONE (R320). -/
  | multicastChangeDone (vi entry : Nat)
  /-- VI_ENABLE (R359). -/
  | viEnable (vi : Nat) (v : DWord)
  /-- VI_DISABLE (R359). -/
  | viDisable (vi : Nat) (v : DWord)
  /-- FLIPREQ (R360). -/
  | flipreq (vi : Nat) (v : DWord)
  /-- FLIP_TO_DEVICE (R334). -/
  | flipToDevice (vi page frame host : Nat)
  /-- FLIP_TO_HOST (R334). -/
  | flipToHost (vi page host : Nat)
  /-- FLIP_DONE (R360). -/
  | flipDone (vi idx : Nat)
  /-- FLIP_REFUSED (R360). -/
  | flipRefused (vi idx : Nat)
  /-- SHOOT_PAGE (R331). -/
  | shootPage (die : Nat) (v : DWord)
  /-- SHOOT_VI (R331). -/
  | shootVi (die : Nat) (v : DWord)
  /-- SHOOT_DONE (R331). -/
  | shootDone (die : Nat)
  /-- REPLAY_BY_PAGE (R333). -/
  | replayByPage (core : Nat) (v : DWord)
  /-- REPLAY_BY_TOKEN (R333). -/
  | replayByToken (core : Nat) (v : DWord)
  /-- REPLAY_ALL_VI (R333). -/
  | replayAllVi (core : Nat) (v : DWord)
  /-- REPLAY_BY_PAGE_FATAL (R333). -/
  | replayByPageFatal (core : Nat) (v : DWord)
  /-- REPLAY_BY_TOKEN_FATAL (R333). -/
  | replayByTokenFatal (core : Nat) (v : DWord)
  /-- REPLAY_ALL_VI_FATAL (R333). -/
  | replayAllViFatal (core : Nat) (v : DWord)
  /-- PREEMPT (R341). -/
  | preempt (core : Nat) (v : DWord)
  /-- PREEMPT_HALTED (R341). -/
  | preemptHalted (core w : Nat)
  /-- CONTEXT_SAVED (R342). -/
  | contextSaved (core w save : Nat)
  /-- LAUNCH_END (R339). -/
  | launchEnd (vi replay node : Nat)
  /-- TIME_SLICE_EXPIRY (R368). -/
  | timeSliceExpiry (vi : Nat)
  /-- ECLRES (R353). -/
  | eclres (core : Nat) (v : DWord)
  /-- SAMPLE (R347). -/
  | sample (core : Nat)
  /-- HIST_FOLD (R349). -/
  | histFold (die : Nat)
  /-- HIST_SNAPSHOT (R349). -/
  | histSnapshot (die : Nat)
  /-- HIST_SNAPSHOT_END (R349). -/
  | histSnapshotEnd (die : Nat)
  /-- COUNTER_CLEAR (R350). -/
  | counterClear (r : CounterReg)
  /-- REGISTER_WRITE (R350). -/
  | registerWrite (r : FwReg) (v : DWord)
  /-- DROOP_TRIP (R374). -/
  | droopTrip (quad : Nat)
  /-- DROOP_STRETCH_END (R374). -/
  | droopStretchEnd (quad : Nat)
  /-- DROOP_HALVING_END (R374). -/
  | droopHalvingEnd (quad : Nat)
  /-- THERMAL_READING (R375). -/
  | thermalReading (quad temp : Nat)
  /-- THERMAL_HOLDOFF_EXPIRY (R376). -/
  | thermalHoldoffExpiry (quad n : Nat)
  /-- POWER_MEASURE (R372). -/
  | powerMeasure (rates : List (Nat × Nat))
  /-- SOFT_ERROR (R337). -/
  | softError (e : SoftErr)
  /-- MACHINE_CHECK (R338). -/
  | machineCheck (p : MPlace) (cause va : Nat) (logged fatal : Bool)
  /-- POSTED_STORE_TIMEOUT (R338). -/
  | postedStoreTimeout (core idx : Nat)
  /-- PATROL_SCRUB (R377): how many corrected errors, and the addresses of the uncorrectable words. -/
  | patrolScrub (die corrected : Nat) (uncorrected : List Nat)
  /-- FATAL_ERROR_DUMP (R379). -/
  | fatalErrorDump (die cause detail : Nat)
  /-- DEVICE_RESET (R257). -/
  | deviceReset
  /-- PF_RESET (R379). -/
  | pfReset
  /-- BOOT_VERIFY (R381). -/
  | bootVerify (die : Nat) (image sig : List Byte)
  /-- ATTGO (R382). -/
  | attgo
  /-- LINK_TRAINING (R356). -/
  | linkTraining (link : Nat) (needsUnsupported : Bool)
  /-- HOST_MEM_WRITE (R279). -/
  | hostMemWrite (addr : Nat) (bytes : List Byte)
  /-- FLIT_CRC_REPLAY (R362). -/
  | flitCrcReplay (port : Nat)
  /-- PORT_DOWN_REMOVAL (R363). -/
  | portDownRemoval (port : Nat)
  /-- PTP_LOCK (R367). -/
  | ptpLock (inBound : Bool)
  /-- INSTRUCTION_CACHE_LINE_ARRIVAL (R256). -/
  | instructionCacheLineArrival (cluster line : Nat)
  /-- PEER_ACCESS_ARRIVAL (R363). -/
  | peerAccessArrival (a : PeerAcc)
  /-- POOL_WINDOW_DOWN (R361). -/
  | poolWindowDown (vi n : Nat)
  /-- ENGINE_OPERATION_ABORT (R335). -/
  | engineOperationAbort (core op : Nat)
  /-- FIRMWARE_UPDATE (R381). -/
  | firmwareUpdate (die : Nat) (image : List Byte × List Byte)
  /-- MODULE_POWER_LOSS (R379). -/
  | modulePowerLoss
deriving DecidableEq, Repr

/-- The counts a team's section and workgroup declare (04 R87): `.vregs`, `.sregs`, `.tiles`, `.accs`. -/
structure Limits where
  vregs : Nat
  sregs : Nat
  tiles : Nat
  accs : Nat
deriving DecidableEq, Repr

/-- The kinds of an 8-bit operand field (04 R87).  `v n` names n consecutive vector registers, `s n` n scalar
registers; `vz` and `sz` follow the element size (08 R173); `idx`, `pbase` and `sbase` are the parts of a memory
operand (08 R172); `opt` is the optional scalar of 09 R193; `q4 n` is a scalar for `.q4n` and zero otherwise. -/
inductive OpKind where
  | zero | v (n : Nat) | vz | s (n : Nat) | d | p | g | t | acc | i7 | i15 | creg | any
  | idx | pbase | sbase | opt | q4 | unpackIdx
deriving DecidableEq, Repr

/-- The three purposes of bits 63:60 (04 R90). -/
inductive ExtKind where
  | zero | ahead | srcType
deriving DecidableEq, Repr

/-- The field rules of one S or W-literal instruction, as its entry gives them: the kind of each operand field,
the types it lists, the MOD codes it lists, bits 63:60, the sources a literal may replace, whether the literal has
the type in TYPE (04 R92), whether it takes a guard. -/
structure Fields where
  d : OpKind
  a : OpKind
  b : OpKind
  c : OpKind
  ty : List Ty
  md : List Nat := [0]
  ext : ExtKind := .zero
  lit : List LSel := []
  litTyped : Bool := false
  guard : Bool := false
deriving DecidableEq, Repr

/-- The three decode traps (05 R112). -/
inductive DecTrap where
  | opcode | encoding | pair
deriving DecidableEq, Repr

/-- How an instruction is encoded: S layout with major, sub-opcode and fields; the control layout; a prism; a pair;
or not at all, for an event. -/
inductive View where
  | s (major sub : Nat) (x : Args) (f : Fields)
  | ctl (major : Nat) (x : Ctl)
  | prism (x : Prism)
  | pair (x y : SubOp)
  | event
deriving DecidableEq, Repr

end Sys2Proof
end

