-- ==== Sys2Proof/Decode.lean ====
section
/-!
DEFINITION. The decoder and the encoder (04 R83 to R103, 05 R107 to R114, 06 R115).
Fields are taken out of a word from its low end by a list of widths, as the tables of file 04 read from the bottom up;
`pack` puts them back.  `Instr.view` is the one table of how each instruction is encoded and of what its entry allows in
each field; the decoder and the encoder both read it.
-/

namespace Sys2Proof

/-! ## Fields of a word -/

/-- The fields of `x`, lowest first, of the given widths. -/
def unpack : List Nat → Nat → List Nat
  | [], _ => []
  | w :: ws, x => x % 2 ^ w :: unpack ws (x / 2 ^ w)

/-- The number whose fields, lowest first, are the given values of the given widths. -/
def pack : List (Nat × Nat) → Nat
  | [] => 0
  | (w, v) :: l => v + 2 ^ w * pack l

/-! ## Codes -/

/-- The type codes (04 R88). -/
def Ty.code : Ty → Nat
  | .b32 => 0 | .i8 => 1 | .i16 => 2 | .i32 => 3 | .i64 => 4 | .n8 => 5 | .n16 => 6 | .n32 => 7 | .n64 => 8
  | .f32 => 9 | .f16 => 10 | .bf16 => 11 | .e4m3 => 12 | .e5m2 => 13 | .e2m1 => 14 | .q4n => 15

/-- All types in the order of their codes (04 R88). -/
def tyAll : List Ty :=
  [.b32, .i8, .i16, .i32, .i64, .n8, .n16, .n32, .n64, .f32, .f16, .bf16, .e4m3, .e5m2, .e2m1, .q4n]

def Ty.ofCode (n : Nat) : Ty := tyAll.getD n .b32

/-- The element size in bytes (08 R173); 4-bit types have none and read 1 here. -/
def Ty.bytes : Ty → Nat
  | .i8 | .n8 | .e4m3 | .e5m2 | .e2m1 | .q4n => 1
  | .i16 | .n16 | .f16 | .bf16 => 2
  | .b32 | .i32 | .n32 | .f32 => 4
  | .i64 | .n64 => 8

/-- The condition codes (04 R100). -/
def Cond.code : Cond → Nat
  | .eq => 0 | .ne => 1 | .lt => 2 | .le => 3 | .gt => 4 | .ge => 5 | .un => 6 | .ord => 7 | .any => 8 | .none => 9

def Cond.ofCode (n : Nat) : Option Cond :=
  [Cond.eq, .ne, .lt, .le, .gt, .ge, .un, .ord, .any, .none][n]?

def RedOp.code : RedOp → Nat
  | .add => 0 | .min => 1 | .max => 2 | .and => 3 | .or => 4 | .xor => 5

def RedOp.ofCode (n : Nat) : Option RedOp := [RedOp.add, .min, .max, .and, .or, .xor][n]?

def AtomOp.code : AtomOp → Nat
  | .add => 0 | .min => 1 | .max => 2 | .and => 3 | .or => 4 | .xor => 5 | .exch => 6 | .cas => 7

def AtomOp.ofCode (n : Nat) : Option AtomOp := [AtomOp.add, .min, .max, .and, .or, .xor, .exch, .cas][n]?

def Order.code : Order → Nat
  | .rlx => 0 | .acq => 1 | .rel => 2 | .ar => 3

def Order.ofCode (n : Nat) : Option Order := [Order.rlx, .acq, .rel, .ar][n]?

def PoolMode.code : PoolMode → Nat
  | .sum => 0 | .mean => 1 | .max => 2

def PoolMode.ofCode (n : Nat) : Option PoolMode := [PoolMode.sum, .mean, .max][n]?

def CollRed.code : CollRed → Nat
  | .add => 0 | .min => 1 | .max => 2

def CollRed.ofCode (n : Nat) : Option CollRed := [CollRed.add, .min, .max][n]?

def FcMode.code : FcMode → Nat
  | .hold => 0 | .linear => 1 | .damped => 2

def FcMode.ofCode (n : Nat) : Option FcMode := [FcMode.hold, .linear, .damped][n]?

def LSel.code : LSel → Nat
  | .a => 0 | .b => 1 | .c => 2

def LSel.ofCode (n : Nat) : Option LSel := [LSel.a, .b, .c][n]?

/-- Arc operation codes (04 R102). -/
def ArcOp.code : ArcOp → Nat
  | .mov => 0x00 | .addI => 0x01 | .subI => 0x02 | .mulI => 0x03 | .and => 0x04 | .or => 0x05 | .xor => 0x06
  | .not => 0x07 | .shl => 0x08 | .shr => 0x09 | .sra => 0x0A | .minI => 0x0B | .maxI => 0x0C | .minN => 0x0D
  | .maxN => 0x0E | .negI => 0x0F | .absI => 0x10 | .addF => 0x11 | .subF => 0x12 | .mulF => 0x13 | .minF => 0x14
  | .maxF => 0x15 | .negF => 0x16 | .absF => 0x17 | .pset => 0x18 | .pclr => 0x19 | .cvtFI => 0x1A | .cvtIF => 0x1B

def ArcOp.ofCode (n : Nat) : Option ArcOp :=
  [ArcOp.mov, .addI, .subI, .mulI, .and, .or, .xor, .not, .shl, .shr, .sra, .minI, .maxI, .minN, .maxN, .negI,
   .absI, .addF, .subF, .mulF, .minF, .maxF, .negF, .absF, .pset, .pclr, .cvtFI, .cvtIF][n]?

/-- Pair operation codes (04 R94). -/
def PairOp.code : PairOp → Nat
  | .add => 0x01 | .sub => 0x02 | .mul => 0x03 | .mad => 0x04 | .min => 0x05 | .max => 0x06 | .neg => 0x07
  | .abs => 0x08 | .and => 0x09 | .or => 0x0A | .xor => 0x0B | .not => 0x0C | .andn => 0x0D | .shl => 0x0E
  | .shr => 0x0F | .sra => 0x10 | .mov => 0x11 | .cmp => 0x12 | .cvt => 0x13

def PairOp.ofCode (n : Nat) : Option PairOp :=
  [none, some PairOp.add, some .sub, some .mul, some .mad, some .min, some .max, some .neg, some .abs, some .and,
   some .or, some .xor, some .not, some .andn, some .shl, some .shr, some .sra, some .mov, some .cmp,
   some .cvt].getD n none

/-! ## What each entry allows -/

def tyB : List Ty := [.b32]
def tyIN : List Ty := [.i32, .n32]
def tyF : List Ty := [.f32, .f16, .bf16]
def tyNum : List Ty := [.i32, .n32, .f32, .f16, .bf16]
/-- The element types of memory instructions (08 R173). -/
def tyElem : List Ty := [.b32, .i8, .i16, .i32, .i64, .n8, .n16, .n32, .n64, .f32, .f16, .bf16, .e4m3, .e5m2]
def tyNot4 : List Ty := tyElem
/-- The types of a conversion (07 R154). -/
def tyCvt : List Ty := [.i8, .i16, .i32, .n8, .n16, .n32, .f32, .f16, .bf16, .e4m3, .e5m2, .e2m1]

def Ty.isFloat (t : Ty) : Bool := t == .f32 || t == .f16 || t == .bf16

/-- The conditions allowed with a type (04 R100). -/
def condOk (c : Cond) (t : Ty) : Bool :=
  match c with
  | .eq | .ne => true
  | .lt | .le | .gt | .ge => t != .b32
  | .un | .ord => t.isFloat
  | .any | .none => t == .b32

def condTypes (c : Cond) (l : List Ty) : List Ty := l.filter (condOk c)

/-- The types of vred and vscan (07 R166). -/
def redTypes : RedOp → List Ty
  | .add | .min | .max => [.i32, .n32, .f32]
  | .and | .or | .xor => [.b32]

/-- The types of atom and atoms (08 R177). -/
def atomTypes : AtomOp → List Ty
  | .add | .min | .max => [.i32, .n32, .i64, .n64, .f32]
  | .and | .or | .xor | .exch | .cas => [.b32, .n64]

/-- The types of ratom (08 R177); and, or and xor are unassigned (05 R111). -/
def ratomTypes : AtomOp → List Ty
  | .add => [.i32, .i64, .f32]
  | .min | .max => [.i32, .n32, .i64, .n64, .f32]
  | .exch | .cas => [.b32, .n64]
  | .and | .or | .xor => []

def teamBit (team : Bool) : Nat := if team then 32 else 0

/-- How each instruction is encoded, by the opcode map (05 R107, R110, R111) and the entries of files 06 to 11: major,
sub-opcode, operand kinds of DST, SRCA, SRCB, SRCC, types, MOD codes, bits 63:60, literal sources, guard. -/
def Instr.view : Instr → View
  | .bra x => .ctl 0x01 x
  | .brc x => .ctl 0x02 x
  | .brv x => .ctl 0x03 x
  | .brx x => .ctl 0x04 x
  | .call x => .ctl 0x05 x
  | .ret x => .ctl 0x06 x
  | .prism x => .prism x
  | .join x => .ctl 0x08 x
  | .joinMerge _ _ _ _ => .event
  | .exit x => .ctl 0x09 x
  | .loop x => .ctl 0x0A x
  | .nop x => .ctl 0x0B x
  | .ipref x => .ctl 0x0C x
  | .yield x => .ctl 0x0D x
  | .sadd x => .s 0x10 0 x ⟨(.s 1), (.s 1), (.s 1), .zero, tyIN, [0], .zero, [.b], true, false⟩
  | .ssub x => .s 0x11 0 x ⟨(.s 1), (.s 1), (.s 1), .zero, tyIN, [0], .zero, [.a, .b], true, false⟩
  | .smul x => .s 0x12 0 x ⟨(.s 1), (.s 1), (.s 1), .zero, tyIN, [0], .zero, [.b], true, false⟩
  | .smulh x => .s 0x13 0 x ⟨(.s 1), (.s 1), (.s 1), .zero, tyIN, [0], .zero, [.b], true, false⟩
  | .smad x => .s 0x14 0 x ⟨(.s 1), (.s 1), (.s 1), (.s 1), tyIN, [0], .zero, [.c], true, false⟩
  | .sand x => .s 0x15 0 x ⟨(.s 1), (.s 1), (.s 1), .zero, tyB, [0], .zero, [.b], true, false⟩
  | .sor x => .s 0x16 0 x ⟨(.s 1), (.s 1), (.s 1), .zero, tyB, [0], .zero, [.b], true, false⟩
  | .sxor x => .s 0x17 0 x ⟨(.s 1), (.s 1), (.s 1), .zero, tyB, [0], .zero, [.b], true, false⟩
  | .snot x => .s 0x18 0 x ⟨(.s 1), (.s 1), .zero, .zero, tyB, [0], .zero, [], false, false⟩
  | .sshl x => .s 0x19 0 x ⟨(.s 1), (.s 1), (.s 1), .zero, tyB, [0], .zero, [.b], true, false⟩
  | .sshr x => .s 0x1A 0 x ⟨(.s 1), (.s 1), (.s 1), .zero, tyB, [0], .zero, [.b], true, false⟩
  | .ssra x => .s 0x1B 0 x ⟨(.s 1), (.s 1), (.s 1), .zero, [.i32], [0], .zero, [.b], true, false⟩
  | .smin x => .s 0x1C 0 x ⟨(.s 1), (.s 1), (.s 1), .zero, tyIN, [0], .zero, [.b], true, false⟩
  | .smax x => .s 0x1D 0 x ⟨(.s 1), (.s 1), (.s 1), .zero, tyIN, [0], .zero, [.b], true, false⟩
  | .spop x => .s 0x1E 0 x ⟨(.s 1), (.s 1), .zero, .zero, tyB, [0], .zero, [], false, false⟩
  | .sclz x => .s 0x1F 0 x ⟨(.s 1), (.s 1), .zero, .zero, tyB, [0], .zero, [], false, false⟩
  | .scmp c x => .s 0x20 c.code x ⟨.g, (.s 1), (.s 1), .zero, (condTypes c [.i32, .n32, .b32, .f32]), [0], .zero, [.b], true, false⟩
  | .ssel x => .s 0x21 0 x ⟨(.s 1), (.s 1), (.s 1), .g, tyB, [0], .zero, [.a, .b], true, false⟩
  | .smov x => .s 0x22 0 x ⟨(.s 1), (.s 1), .zero, .zero, tyB, [0], .zero, [], false, false⟩
  | .sli x => .s 0x23 0 x ⟨(.s 1), (.s 1), .zero, .zero, tyB, [0], .zero, [.a], true, false⟩
  | .dadd x => .s 0x24 0 x ⟨.d, .d, .d, .zero, [.i64, .n64], [0], .zero, [.b], true, false⟩
  | .dsub x => .s 0x25 0 x ⟨.d, .d, .d, .zero, [.i64, .n64], [0], .zero, [.b], true, false⟩
  | .dmov x => .s 0x26 0 x ⟨.d, .d, .zero, .zero, tyB, [0], .zero, [], false, false⟩
  | .slea x => .s 0x27 0 x ⟨.d, .d, (.s 1), .zero, [.i8, .n8, .i16, .n16, .i32, .n32, .i64, .n64], [0], .zero, [.c], false, false⟩
  | .sget x => .s 0x28 0 x ⟨(.s 1), .creg, .zero, .zero, tyB, [0], .zero, [], false, false⟩
  | .sset x => .s 0x29 0 x ⟨.creg, (.s 1), .zero, .zero, tyB, [0], .zero, [.a], true, false⟩
  | .sxlat x => .s 0x2A 0 x ⟨.i7, .d, (.s 1), .zero, tyB, [0], .zero, [.b], true, false⟩
  | .vadd x => .s 0x30 0 x ⟨(.v 1), (.v 1), (.v 1), .zero, tyNum, [0], .zero, [.b], true, true⟩
  | .vsub x => .s 0x31 0 x ⟨(.v 1), (.v 1), (.v 1), .zero, tyNum, [0], .zero, [.b], true, true⟩
  | .vmul x => .s 0x32 0 x ⟨(.v 1), (.v 1), (.v 1), .zero, tyNum, [0], .zero, [.b], true, true⟩
  | .vmulh x => .s 0x33 0 x ⟨(.v 1), (.v 1), (.v 1), .zero, tyIN, [0], .zero, [.b], true, true⟩
  | .vmad x => .s 0x34 0 x ⟨(.v 1), (.v 1), (.v 1), (.v 1), tyNum, [0], .zero, [.b, .c], true, true⟩
  | .vneg x => .s 0x35 0 x ⟨(.v 1), (.v 1), .zero, .zero, [.i32, .f32, .f16, .bf16], [0], .zero, [], false, true⟩
  | .vabs x => .s 0x36 0 x ⟨(.v 1), (.v 1), .zero, .zero, [.i32, .f32, .f16, .bf16], [0], .zero, [], false, true⟩
  | .vmin x => .s 0x37 0 x ⟨(.v 1), (.v 1), (.v 1), .zero, tyNum, [0], .zero, [.b], true, true⟩
  | .vmax x => .s 0x38 0 x ⟨(.v 1), (.v 1), (.v 1), .zero, tyNum, [0], .zero, [.b], true, true⟩
  | .vand x => .s 0x39 0 x ⟨(.v 1), (.v 1), (.v 1), .zero, tyB, [0], .zero, [.b], true, true⟩
  | .vor x => .s 0x3A 0 x ⟨(.v 1), (.v 1), (.v 1), .zero, tyB, [0], .zero, [.b], true, true⟩
  | .vxor x => .s 0x3B 0 x ⟨(.v 1), (.v 1), (.v 1), .zero, tyB, [0], .zero, [.b], true, true⟩
  | .vnot x => .s 0x3C 0 x ⟨(.v 1), (.v 1), .zero, .zero, tyB, [0], .zero, [], false, true⟩
  | .vandn x => .s 0x3D 0 x ⟨(.v 1), (.v 1), (.v 1), .zero, tyB, [0], .zero, [.b], true, true⟩
  | .vshl x => .s 0x3E 0 x ⟨(.v 1), (.v 1), (.v 1), .zero, tyB, [0], .zero, [.b], true, true⟩
  | .vshr x => .s 0x3F 0 x ⟨(.v 1), (.v 1), (.v 1), .zero, tyB, [0], .zero, [.b], true, true⟩
  | .vsra x => .s 0x40 0 x ⟨(.v 1), (.v 1), (.v 1), .zero, [.i32], [0], .zero, [.b], true, true⟩
  | .vrot x => .s 0x41 0 x ⟨(.v 1), (.v 1), (.v 1), .zero, tyB, [0], .zero, [.b], true, true⟩
  | .vpop x => .s 0x42 0 x ⟨(.v 1), (.v 1), .zero, .zero, tyB, [0], .zero, [], false, true⟩
  | .vclz x => .s 0x43 0 x ⟨(.v 1), (.v 1), .zero, .zero, tyB, [0], .zero, [], false, true⟩
  | .vbfe x => .s 0x44 0 x ⟨(.v 1), (.v 1), (.v 1), .zero, tyIN, [0], .zero, [.b], true, true⟩
  | .vbfi x => .s 0x45 0 x ⟨(.v 1), (.v 1), (.v 1), (.v 1), tyB, [0], .zero, [.c], true, true⟩
  | .vcmp c x => .s 0x46 c.code x ⟨.p, (.v 1), (.v 1), .zero, (condTypes c [.i32, .n32, .b32, .f32, .f16, .bf16]), [0], .zero, [.b], true, true⟩
  | .vsel x => .s 0x47 0 x ⟨(.v 1), (.v 1), (.v 1), .p, tyB, [0], .zero, [.a, .b], true, true⟩
  | .vmov x => .s 0x48 0 x ⟨(.v 1), (.v 1), .zero, .zero, tyB, [0], .zero, [.a], true, true⟩
  | .vdot4 x => .s 0x49 0 x ⟨(.v 1), (.v 1), (.v 1), (.v 1), tyIN, [0], .zero, [.c], true, true⟩
  | .vsad x => .s 0x4A 0 x ⟨(.v 1), (.v 1), (.v 1), (.v 1), [.n32], [0], .zero, [.c], true, true⟩
  | .vclass x => .s 0x4B 0 x ⟨(.v 1), (.v 1), .zero, .zero, tyF, [0], .zero, [], false, true⟩
  | .vround x => .s 0x4C 0 x ⟨(.v 1), (.v 1), .zero, .zero, tyF, [0, 1, 2, 3], .zero, [], false, true⟩
  | .wPair x y => .pair x y
  | .vrcp x => .s 0x50 0 x ⟨(.v 1), (.v 1), .zero, .zero, tyF, [0], .ahead, [], false, true⟩
  | .vrsq x => .s 0x51 0 x ⟨(.v 1), (.v 1), .zero, .zero, tyF, [0], .ahead, [], false, true⟩
  | .vsqrt x => .s 0x52 0 x ⟨(.v 1), (.v 1), .zero, .zero, tyF, [0], .ahead, [], false, true⟩
  | .vexp2 x => .s 0x53 0 x ⟨(.v 1), (.v 1), .zero, .zero, tyF, [0], .ahead, [], false, true⟩
  | .vlog2 x => .s 0x54 0 x ⟨(.v 1), (.v 1), .zero, .zero, tyF, [0], .ahead, [], false, true⟩
  | .vsin x => .s 0x55 0 x ⟨(.v 1), (.v 1), .zero, .zero, tyF, [0], .ahead, [], false, true⟩
  | .vcos x => .s 0x56 0 x ⟨(.v 1), (.v 1), .zero, .zero, tyF, [0], .ahead, [], false, true⟩
  | .vtanh x => .s 0x57 0 x ⟨(.v 1), (.v 1), .zero, .zero, tyF, [0], .ahead, [], false, true⟩
  | .vsigm x => .s 0x58 0 x ⟨(.v 1), (.v 1), .zero, .zero, tyF, [0], .ahead, [], false, true⟩
  | .vcvt x => .s 0x60 0 x ⟨(.v 1), (.v 1), .opt, .zero, tyCvt, [0, 1, 2, 3, 4], .srcType, [.b], false, true⟩
  | .vpack x => .s 0x61 0 x ⟨(.v 1), (.v 1), (.v 1), (.v 1), [.f16, .bf16, .e4m3, .e5m2, .e2m1, .i8, .i16, .n8, .n16], [0, 1, 2, 3, 4], .srcType, [], false, true⟩
  | .vunpack x => .s 0x62 0 x ⟨(.v 1), (.v 1), .unpackIdx, .zero, [.f32, .i32, .n32], [0], .srcType, [], false, true⟩
  | .vqscale x => .s 0x63 0 x ⟨(.v 1), (.v 1), .q4, .zero, [.e4m3, .e5m2, .e2m1, .q4n], [0], .zero, [], false, true⟩
  | .vqenc x => .s 0x64 0 x ⟨(.v 1), (.v 1), (.v 1), .q4, [.e4m3, .e5m2, .e2m1, .q4n], [0], .srcType, [], false, true⟩
  | .vqdec x => .s 0x65 0 x ⟨(.v 1), (.v 1), (.v 1), .q4, tyF, [0], .srcType, [], false, true⟩
  | .amaxrd x => .s 0x66 0 x ⟨(.s 1), .zero, .zero, .zero, [.f32], [0], .zero, [], false, false⟩
  | .vdrop x => .s 0x67 0 x ⟨(.v 1), (.v 1), .zero, .zero, tyF, [0], .zero, [], false, true⟩
  | .vperm x => .s 0x68 0 x ⟨(.v 1), (.v 1), (.v 2), .zero, tyB, [0], .zero, [.a], true, true⟩
  | .vshfl x => .s 0x69 0 x ⟨(.v 1), (.v 1), (.v 1), .zero, tyB, [0], .zero, [.b], true, true⟩
  | .vpush x => .s 0x6A 0 x ⟨(.v 1), (.v 1), (.v 1), .p, tyB, [0], .zero, [.b], true, true⟩
  | .vbcast x => .s 0x6B 0 x ⟨(.v 1), (.s 1), .zero, .zero, tyB, [0], .zero, [.a], true, true⟩
  | .vred team op x => .s 0x6C (teamBit team + op.code) x ⟨(.v 1), (.v 1), .zero, .zero, (redTypes op), [0], .zero, [], false, true⟩
  | .vscan team op x => .s 0x6D (teamBit team + op.code) x ⟨(.v 1), (.v 1), .zero, .zero, (redTypes op), [0], .zero, [], false, true⟩
  | .vballot x => .s 0x6E 0 x ⟨(.v 1), .p, .zero, .zero, tyB, [0], .zero, [], false, true⟩
  | .vballotTeam x => .s 0x6E 32 x ⟨(.s 1), .p, .zero, .zero, tyB, [0], .zero, [], false, false⟩
  | .vid x => .s 0x6F 0 x ⟨(.v 1), .zero, .zero, .zero, [.n32], [0], .zero, [], false, true⟩
  | .ld x => .s 0x70 0 x ⟨.vz, .pbase, .idx, .zero, tyElem, [0], .ahead, [.c], false, true⟩
  | .st x => .s 0x71 0 x ⟨.vz, .pbase, .idx, .zero, tyElem, [0], .zero, [.c], false, true⟩
  | .lds x => .s 0x72 0 x ⟨.vz, .sbase, (.v 1), .zero, tyElem, [0], .ahead, [.c], false, true⟩
  | .sts x => .s 0x73 0 x ⟨.vz, .sbase, (.v 1), .zero, tyElem, [0], .zero, [.c], false, true⟩
  | .pref x => .s 0x74 0 x ⟨.zero, .pbase, .idx, .zero, tyElem, [0], .zero, [.c], false, true⟩
  | .atom op o x => .s 0x75 (4 * op.code + o.code) x ⟨.vz, .pbase, .idx, .vz, (atomTypes op), [1, 2, 3, 4], .ahead, [.c], false, true⟩
  | .atoms op o x => .s 0x76 (4 * op.code + o.code) x ⟨.vz, .sbase, (.v 1), .vz, (atomTypes op), [0, 1, 2, 3], .ahead, [.c], false, true⟩
  | .ratom op o x => .s 0x77 (4 * op.code + o.code) x ⟨.vz, .pbase, .idx, .vz, (ratomTypes op), [5], .ahead, [.c], false, true⟩
  | .fence o x => .s 0x78 o.code x ⟨.zero, .zero, .zero, .zero, tyB, (if o = .rlx then [] else [0, 1, 2, 3, 4, 5]), .zero, [], false, false⟩
  | .ebind x => .s 0x79 0 x ⟨.zero, .d, .d, (.s 1), tyB, [0], .zero, [.c], false, false⟩
  | .eunbind x => .s 0x7A 0 x ⟨.zero, .d, .zero, .zero, tyB, [0], .zero, [], false, false⟩
  | .eacq x => .s 0x7B 0 x ⟨.d, .d, .zero, .zero, tyB, [1, 2, 3, 4, 5], .zero, [], false, false⟩
  | .erel x => .s 0x7C 0 x ⟨.zero, .d, .d, .zero, tyB, [1, 2, 3, 4, 5], .zero, [.b], false, false⟩
  | .nbarr x => .s 0x7D 0 x ⟨(.s 1), .i15, (.s 1), .zero, tyB, [0], .zero, [.b], false, true⟩
  | .nbwait x => .s 0x7E 0 x ⟨.zero, .i15, (.s 1), .zero, tyB, [0], .zero, [.b], false, false⟩
  | .nbsync x => .s 0x7F 0 x ⟨.zero, .i15, (.s 1), .zero, tyB, [0], .zero, [.b], false, true⟩
  | .tbar x => .s 0x80 0 x ⟨.zero, .any, .zero, .zero, tyB, [0], .zero, [], false, false⟩
  | .treeBarrierComplete _ _ _ => .event
  | .barrierTimeout _ _ _ => .event
  | .tlwait x => .s 0x81 0 x ⟨.zero, .i15, .d, .zero, tyB, [0], .zero, [.b], false, false⟩
  | .tlread x => .s 0x82 0 x ⟨.d, .i15, .zero, .zero, tyB, [0], .zero, [], false, false⟩
  | .rput x => .s 0x83 0 x ⟨.zero, .i7, (.v 1), .zero, tyB, [0], .zero, [], false, true⟩
  | .ringSlotPublish _ _ _ => .event
  | .rtake x => .s 0x84 0 x ⟨(.v 1), .i7, .zero, .zero, tyB, [0], .zero, [], false, true⟩
  | .rdone x => .s 0x85 0 x ⟨.zero, .i7, .zero, .zero, tyB, [0], .zero, [], false, false⟩
  | .qput x => .s 0x86 0 x ⟨.zero, (.v 1), .zero, .zero, tyB, [0], .zero, [], false, true⟩
  | .qtake x => .s 0x87 0 x ⟨(.v 1), .zero, .zero, .zero, tyB, [0], .zero, [], false, true⟩
  | .fbopen x => .s 0x88 0 x ⟨.i7, (.s 3), (.v 1), (.v 1), tyB, [0], .zero, [], false, true⟩
  | .fbnext x => .s 0x89 0 x ⟨.zero, .i7, .zero, .zero, tyB, [0], .zero, [], false, true⟩
  | .fbend x => .s 0x8A 0 x ⟨.p, .i7, .zero, .zero, tyB, [0], .zero, [], false, true⟩
  | .fbget x => .s 0x8B 0 x ⟨(.v 2), .i7, .zero, .zero, tyB, [0], .zero, [], false, true⟩
  | .fbclose x => .s 0x8C 0 x ⟨.zero, .i7, .zero, .zero, tyB, [0], .zero, [], false, false⟩
  | .tld x => .s 0x90 0 x ⟨.t, (.s 3), .zero, .opt, tyB, [0], .zero, [], false, false⟩
  | .tileLoadWhole _ _ _ => .event
  | .tst x => .s 0x91 0 x ⟨.zero, (.s 3), .t, .opt, tyB, [0], .zero, [], false, false⟩
  | .tzero x => .s 0x92 0 x ⟨.t, .zero, .zero, .zero, tyB, [0], .zero, [], false, false⟩
  | .tzf x => .s 0x93 0 x ⟨.g, .t, .zero, .zero, tyB, [0], .zero, [], false, false⟩
  | .mma x => .s 0x94 0 x ⟨.acc, .t, .t, .zero, [.f32, .i32], [0], .zero, [], false, false⟩
  | .mmaa x => .s 0x95 0 x ⟨.acc, .t, .t, .zero, [.f32, .i32], [0], .zero, [], false, false⟩
  | .matrixStepStart _ => .event
  | .matrixStepEnd _ _ => .event
  | .mcommit x => .s 0x96 0 x ⟨.i15, .zero, .zero, .zero, tyB, [0], .zero, [], false, false⟩
  | .mwait x => .s 0x97 0 x ⟨.zero, .any, .zero, .zero, tyB, [0], .zero, [.a], false, false⟩
  | .aread x => .s 0x98 0 x ⟨(.v 1), .acc, (.s 1), .zero, tyB, [0], .ahead, [.b], false, false⟩
  | .awrite x => .s 0x99 0 x ⟨.acc, (.v 1), (.s 1), .zero, tyB, [0], .zero, [.b], false, false⟩
  | .azero x => .s 0x9A 0 x ⟨.acc, .zero, .zero, .zero, tyB, [0], .zero, [], false, false⟩
  | .aq x => .s 0x9B 0 x ⟨.t, .acc, (.s 1), .zero, [.f32, .i32], [0], .zero, [.b], false, false⟩
  | .cpyToScratchpad x => .s 0x9C 0 x ⟨.i15, (.s 3), .d, (.s 1), tyAll, [0], .zero, [.c], false, false⟩
  | .cpyToMemory x => .s 0x9C 1 x ⟨.i15, (.s 3), .d, (.s 1), tyAll, [0], .zero, [.c], false, false⟩
  | .cpym x => .s 0x9D 0 x ⟨.i15, (.s 4), .d, (.s 1), tyAll, [0], .zero, [.c], false, false⟩
  | .copyFault _ _ => .event
  | .copyComplete _ _ => .event
  | .gath x => .s 0x9E 0 x ⟨.i15, (.s 3), .d, (.s 5), tyNot4, [0], .zero, [], false, false⟩
  | .gpool m x => .s 0x9F m.code x ⟨.i15, (.s 3), .d, (.s 7), [.f32, .f16, .bf16, .e4m3, .e5m2, .i8, .n8, .i16, .n16, .i32, .n32], [0], .zero, [], false, false⟩
  | .scat x => .s 0xA0 0 x ⟨.i15, (.s 3), .d, (.s 5), tyNot4, [0], .zero, [], false, false⟩
  | .gatherComplete _ _ => .event
  | .collAllreduce r x => .s 0xA1 (4 * r.code) x ⟨.i15, (.s 3), .d, (.s 2), [.f32, .f16, .bf16, .i32], [0], .zero, [], false, false⟩
  | .collAllgather x => .s 0xA1 1 x ⟨.i15, (.s 3), .d, (.s 2), [.f32, .f16, .bf16, .i32], [0], .zero, [], false, false⟩
  | .collAlltoall x => .s 0xA1 2 x ⟨.i15, (.s 3), .d, (.s 2), [.f32, .f16, .bf16, .i32], [0], .zero, [], false, false⟩
  | .collectiveComplete _ _ => .event
  | .estat x => .s 0xA2 0 x ⟨(.s 1), .i15, .d, .zero, tyB, [0], .zero, [], false, false⟩
  | .lainit x => .s 0xB0 0 x ⟨.i7, (.s 4), .zero, .zero, tyB, [0], .zero, [], false, false⟩
  | .laadd x => .s 0xB1 0 x ⟨.i7, (.v 1), .zero, .zero, [.f32], [0], .zero, [.a], false, true⟩
  | .lachk x => .s 0xB2 0 x ⟨.i7, .zero, .zero, .zero, tyB, [0], .zero, [], false, true⟩
  | .laest x => .s 0xB3 0 x ⟨(.v 1), .i7, .zero, .zero, [.f32], [0], .zero, [], false, true⟩
  | .lastag x => .s 0xB4 0 x ⟨.p, .i7, .zero, .zero, tyB, [0], .zero, [], false, true⟩
  | .lastagDivg x => .s 0xB4 1 x ⟨.p, .i7, .zero, .zero, tyB, [0], .zero, [], false, true⟩
  | .laflag x => .s 0xB5 0 x ⟨(.v 1), .i7, .zero, .zero, tyB, [0], .zero, [], false, true⟩
  | .laclr x => .s 0xB6 0 x ⟨.i7, .zero, .zero, .zero, tyB, [0], .zero, [], false, true⟩
  | .fcbind x => .s 0xB8 0 x ⟨.i7, .d, (.s 5), .zero, tyB, [0], .zero, [], false, false⟩
  | .fcrec x => .s 0xB9 0 x ⟨.i7, .zero, .zero, .zero, tyB, [0], .zero, [], false, false⟩
  | .fctake m x => .s 0xBA m.code x ⟨(.s 1), .i7, (.s 3), .zero, tyB, [0], .zero, [], false, false⟩
  | .spres x => .s 0xBB 0 x ⟨.i7, .d, .any, .any, tyAll, [1, 2, 3, 4], .zero, [.a], false, false⟩
  | .toleranceCompareDone _ _ => .event
  | .deferredOpPerform _ _ => .event
  | .heldOpRelease _ _ _ => .event
  | .spjoin x => .s 0xBC 0 x ⟨.zero, .zero, .any, .any, tyAll, [0], .zero, [], false, false⟩
  | .spabort x => .s 0xBD 0 x ⟨.i7, .zero, .zero, .zero, tyB, [0], .zero, [], false, false⟩
  | .spstat x => .s 0xBE 0 x ⟨(.s 1), .i7, .zero, .zero, tyB, [0], .zero, [], false, false⟩
  | .trap x => .s 0xC0 0 x ⟨.zero, (.s 1), .zero, .zero, tyB, [0], .zero, [.a], false, true⟩
  | .tret x => .s 0xC1 0 x ⟨.zero, .opt, .zero, .zero, tyB, [0], .zero, [], false, false⟩
  | .brk x => .s 0xC2 0 x ⟨.zero, (.s 1), .zero, .zero, tyB, [0], .zero, [.a], false, true⟩
  | .tsread x => .s 0xC3 0 x ⟨.d, .zero, .zero, .zero, tyB, [0], .zero, [], false, false⟩
  | .wake x => .s 0xC4 0 x ⟨.zero, .zero, .zero, .zero, tyB, [0], .zero, [], false, false⟩
  | .pmread x => .s 0xC5 0 x ⟨(.s 1), (.s 1), .zero, .zero, tyB, [0], .zero, [.a], false, false⟩
  | .mark x => .s 0xC6 0 x ⟨.zero, (.s 1), .zero, .zero, tyB, [0], .zero, [.a], false, false⟩
  | .trapDelivery _ _ _ => .event
  | .stopRecord _ => .event
  | .loadDataReturn _ _ _ => .event
  | .storeAcknowledge _ _ => .event
  | .faultRecord _ => .event
  | .pathUnspill _ _ => .event
  | .issueCycle _ => .event
  | .starvationOverride _ _ _ => .event
  | .matrixEngineGate _ => .event
  | .matrixWakeDone _ => .event
  | .teamRetire _ _ => .event
  | .dispatchAction _ => .event
  | .readyRecordStarve _ _ => .event
  | .teamStart _ _ => .event
  | .graphRegister _ _ _ => .event
  | .graphUnregister _ _ => .event
  | .kick _ _ => .event
  | .nodeComplete _ _ _ => .event
  | .errClear _ _ => .event
  | .mcset _ _ => .event
  | .multicastChangeDone _ _ => .event
  | .viEnable _ _ => .event
  | .viDisable _ _ => .event
  | .flipreq _ _ => .event
  | .flipToDevice _ _ _ _ => .event
  | .flipToHost _ _ _ => .event
  | .flipDone _ _ => .event
  | .flipRefused _ _ => .event
  | .shootPage _ _ => .event
  | .shootVi _ _ => .event
  | .shootDone _ => .event
  | .replayByPage _ _ => .event
  | .replayByToken _ _ => .event
  | .replayAllVi _ _ => .event
  | .replayByPageFatal _ _ => .event
  | .replayByTokenFatal _ _ => .event
  | .replayAllViFatal _ _ => .event
  | .preempt _ _ => .event
  | .preemptHalted _ _ => .event
  | .contextSaved _ _ _ => .event
  | .launchEnd _ _ _ => .event
  | .timeSliceExpiry _ => .event
  | .eclres _ _ => .event
  | .sample _ => .event
  | .histFold _ => .event
  | .histSnapshot _ => .event
  | .histSnapshotEnd _ => .event
  | .counterClear _ => .event
  | .registerWrite _ _ => .event
  | .droopTrip _ => .event
  | .droopStretchEnd _ => .event
  | .droopHalvingEnd _ => .event
  | .thermalReading _ _ => .event
  | .thermalHoldoffExpiry _ _ => .event
  | .powerMeasure _ => .event
  | .softError _ => .event
  | .machineCheck _ _ _ _ _ => .event
  | .postedStoreTimeout _ _ => .event
  | .patrolScrub _ _ _ => .event
  | .fatalErrorDump _ _ _ => .event
  | .deviceReset => .event
  | .pfReset => .event
  | .bootVerify _ _ _ => .event
  | .attgo => .event
  | .linkTraining _ _ => .event
  | .hostMemWrite _ _ => .event
  | .flitCrcReplay _ => .event
  | .portDownRemoval _ => .event
  | .ptpLock _ => .event
  | .instructionCacheLineArrival _ _ => .event
  | .peerAccessArrival _ => .event
  | .poolWindowDown _ _ => .event
  | .engineOperationAbort _ _ => .event
  | .firmwareUpdate _ _ => .event
  | .modulePowerLoss => .event

/-! ## The field rules (05 R112 step 4) -/

/-- GUARD (04 R86). -/
def Guard.ok (takes : Bool) (g : Guard) : Bool := g.sel < 8 && (!g.neg || takes && g.sel < 7) && (takes || g.sel == 7)

/-- A control register of the directory (06 R138), tile control registers below `.tiles` (04 R87). -/
def cregOk (lim : Limits) (n : Nat) : Bool :=
  n ≤ 0x0C || (0x10 ≤ n && n ≤ 0x16) || (0x40 ≤ n && n ≤ 0x9F && (n - 0x40) / 4 < lim.tiles)

/-- An operand field `f` of the given kind (04 R87; 08 R172 for the memory operand kinds, where `a` is SRCA). -/
def OpKind.ok (lim : Limits) (t : Ty) (a : Nat) (k : OpKind) (f : Nat) : Bool :=
  f < 256 && match k with
  | .zero => f == 0
  | .v n => f + n ≤ lim.vregs
  | .vz => f + (if t.bytes = 8 then 2 else 1) ≤ lim.vregs
  | .s n => f < 128 && f + n ≤ lim.sregs
  | .d => f < 64 && 2 * f + 1 < lim.sregs
  | .p | .i7 => f < 8
  | .g => f < 4
  | .t => f < 24 && f < lim.tiles
  | .acc => f < 4 && f < lim.accs
  | .i15 => f < 16
  | .creg => cregOk lim f
  | .any => true
  | .idx => if a / 128 = 1 then f < lim.vregs else f == 0
  | .pbase => 2 * (f % 64) + 1 < lim.sregs && (f / 128 == 1 || f / 64 % 2 == 0)
  | .sbase => f % 128 < lim.sregs
  | .opt => f == 0 || (0x80 ≤ f && f - 0x80 < lim.sregs)
  | .q4 => if t = .q4n then f < 128 && f < lim.sregs else f == 0
  | .unpackIdx => true

/-- A literal against the type of the operand it replaces (04 R92). -/
def litOk (t : Ty) (v : Word) : Bool :=
  match t with
  | .b32 | .i32 | .n32 | .f32 | .i64 | .n64 => true
  | .i8 => v.toNat < 0x80 || 0xFFFFFF80 ≤ v.toNat
  | .i16 => v.toNat < 0x8000 || 0xFFFF8000 ≤ v.toNat
  | .n8 | .e4m3 | .e5m2 => v.toNat < 0x100
  | .n16 | .f16 | .bf16 => v.toNat < 0x10000
  | .e2m1 | .q4n => false

/-- Bits of an element (03 R59, R60). -/
def Ty.bits : Ty → Nat
  | .e2m1 | .q4n => 4
  | t => 8 * t.bytes

/-- The type pairs of vpack (07 R155). -/
def packOk (dt st : Ty) : Bool :=
  match st with
  | .f32 => [Ty.f16, .bf16, .e4m3, .e5m2, .e2m1].contains dt
  | .i32 => dt == .i8 || dt == .i16
  | .n32 => dt == .n8 || dt == .n16
  | _ => false

/-- The type pairs of vunpack (07 R156). -/
def unpackOk (dt st : Ty) : Bool :=
  match dt with
  | .f32 => [Ty.f16, .bf16, .e4m3, .e5m2, .e2m1].contains st
  | .i32 => st == .i8 || st == .i16
  | .n32 => st == .n8 || st == .n16
  | _ => false

/-- The rules of single entries that join several fields (07 R154 to R159; 05 R108 for sli). -/
def extraOk (i : Instr) : Bool :=
  match i with
  | .sli x => x.lit.isSome
  | .vcvt x => tyCvt.contains (Ty.ofCode x.ext) && Ty.ofCode x.ext != x.ty
  | .vpack x => packOk x.ty (Ty.ofCode x.ext) && (x.ty.bits != 16 || x.c == 0)
  | .vunpack x => unpackOk x.ty (Ty.ofCode x.ext) && x.b < 32 / (Ty.ofCode x.ext).bits
  | .vqenc x => x.ext == 9
  | .vqdec x =>
    [Ty.e4m3, .e5m2, .e2m1, .q4n].contains (Ty.ofCode x.ext) && (x.c == 0 || Ty.ofCode x.ext == .q4n)
  | _ => true

/-- The operand kind of SRCC in vqdec follows the source type (07 R159), elsewhere TYPE. -/
def q4Ty (i : Instr) (x : Args) : Ty :=
  match i with
  | .vqdec _ => Ty.ofCode x.ext
  | _ => x.ty

/-- The field that a literal replaces must be zero (04 R92); the others satisfy their kind (04 R87). -/
def fieldOk (lim : Limits) (t : Ty) (x : Args) (s : Option LSel) (k : OpKind) (f : Nat) : Bool :=
  if s.isSome && s == x.lit.map (·.sel) then f == 0 else k.ok lim t x.a f

/-- Every field of an S or W-literal instruction satisfies its rule. -/
def argsOk (lim : Limits) (t : Ty) (f : Fields) (x : Args) : Bool :=
  x.guard.ok f.guard && f.ty.contains x.ty && x.md < 16 && f.md.contains x.md && x.ext < 16 &&
  (f.ext != .zero || x.ext == 0) &&
  fieldOk lim t x none f.d x.d && fieldOk lim t x (some .a) f.a x.a && fieldOk lim t x (some .b) f.b x.b &&
  fieldOk lim t x (some .c) f.c x.c &&
  match x.lit with
  | none => true
  | some l => f.lit.contains l.sel && (!f.litTyped || litOk x.ty l.val)

/-- The control group (06 R115, R116 and the entries R119 to R131). -/
def ctlOk (lim : Limits) (i : Instr) (x : Ctl) : Bool :=
  x.opnd < 256 && x.tgt < 2 ^ 20 && x.token < 16 && x.aux < 16 &&
  match i with
  | .bra _ => x.guard.ok false && x.opnd == 0 && x.token == 0 && x.aux == 0
  | .brc _ => x.guard.ok false && x.aux < 4 && (if x.aux / 2 = 0 then x.opnd < 8 else x.opnd < 4)
  | .brv _ => x.guard.ok false && x.aux < 4 && x.opnd < lim.vregs
  | .brx _ => x.guard.ok false && x.opnd < lim.vregs
  | .call _ => x.guard.ok false && x.opnd < lim.vregs && x.token == 0 && x.aux == 0
  | .ret _ => x.guard.ok false && x.opnd < lim.vregs && x.tgt == 0 && x.token == 0 && x.aux == 0
  | .join _ => x.guard.ok false && x.opnd == 0 && x.tgt == 0 && x.token != 0 && x.aux == 0
  | .exit _ => x.guard.ok true && x.opnd == 0 && x.tgt == 0 && x.token == 0 && x.aux == 0
  | .loop _ => x.guard.ok false && x.opnd < 128 && x.opnd < lim.sregs && x.token == 0 && x.aux == 0
  | .ipref _ => x.guard.ok false && x.opnd == 0 && x.token == 0
  | _ => x.guard.ok false && x.opnd == 0 && x.tgt == 0 && x.token == 0 && x.aux == 0

/-! ### The prism (04 R97 to R103) -/

/-- The test types have codes 0 to 3 of their own (04 R99). -/
def testTyCode : Ty → Nat
  | .n32 => 1 | .f32 => 2 | .b32 => 3 | _ => 0

def testTyOf (n : Nat) : Option Ty := [Ty.i32, .n32, .f32, .b32][n]?

def PTest.zero : PTest := ⟨0, 0, 0, .i32, .eq⟩
def PArc.zero : PArc := ⟨0, 0, 0, false, .mov, 0⟩

/-- Position n holds a test. -/
def Prism.has (x : Prism) (n : Nat) : Bool := n < 7 && x.present / 2 ^ n % 2 == 1

/-- The leaf slot of position p (04 R98). -/
def leafSlot (p : Nat) : Nat :=
  if p < 3 then (p + 1) * 4 - 8 else if p < 7 then (p + 1) * 2 - 8 else p + 1 - 8

/-- The leaf slots at which an edge ends (04 R98). -/
def Prism.slots (x : Prism) : List Nat :=
  (List.range 14).filterMap fun e => if x.has (e / 2) && !x.has (e + 1) then some (leafSlot (e + 1)) else none

def testOk (lim : Limits) (t : PTest) : Bool :=
  t.bkind < 4 && t.b < 256 && t.a < 256 && [Ty.i32, .n32, .f32, .b32].contains t.tty && condOk t.cond t.tty &&
  t.a < lim.vregs &&
  (match t.bkind with
   | 0 => t.b < lim.vregs
   | 1 => t.b < 128 && t.b < lim.sregs
   | 2 => true
   | _ => t.b == 0)

/-- Sources of an arc operation (04 R102). -/
def ArcOp.sources : ArcOp → Nat
  | .pset | .pclr => 0
  | .mov | .not | .negI | .absI | .negF | .absF | .cvtFI | .cvtIF => 1
  | _ => 2

def arcOk (lim : Limits) (x : Prism) (r : PArc) : Bool :=
  r.b < 256 && r.a < 256 && r.dst < 256 && r.edge < 14 && x.has (r.edge / 2) &&
  match r.op.sources with
  | 0 => r.dst < 8 && !r.lf && r.a == 0 && r.b == 0
  | 1 => r.dst < lim.vregs && r.b == 0 && (if r.lf then r.a == 0 else r.a < lim.vregs)
  | _ => r.dst < lim.vregs && r.a < lim.vregs && (if r.lf then r.b == 0 else r.b < lim.vregs)

def ascending : List Nat → Bool
  | a :: b :: l => a < b && ascending (b :: l)
  | _ => true

def prismOk (lim : Limits) (x : Prism) : Bool :=
  let used := x.slots.map fun k => x.leaf.getD k 0
  x.guard.ok true && x.present < 128 && x.token < 16 && x.arcn ≤ 6 && x.tgtA < 2 ^ 20 && x.tgtB < 2 ^ 20 &&
  x.has 0 && (List.range 7).all (fun n => n == 0 || !x.has n || x.has ((n - 1) / 2)) &&
  x.tests.length == 7 && (List.range 7).all (fun n =>
    if x.has n then testOk lim (x.tests.getD n PTest.zero) else x.tests.getD n PTest.zero == PTest.zero) &&
  x.arcs.length == 6 && (x.arcs.take x.arcn).all (arcOk lim x) && ascending ((x.arcs.take x.arcn).map (·.edge)) &&
  (x.arcs.drop x.arcn).all (· == PArc.zero) &&
  x.leaf.length == 8 && x.leaf.all (· < 4) && (List.range 8).all (fun k => x.slots.contains k || x.leaf.getD k 0 == 0) &&
  (used.contains 1 || x.tgtA == 0) && (used.contains 2 || x.tgtB == 0) &&
  (x.lit == 0 || x.tests.any (·.bkind == 3) || x.arcs.any (·.lf))

/-! ### The W-pair (04 R93 to R96) -/

/-- How many sources a pair operation takes (04 R94). -/
def PairOp.sources : PairOp → Nat
  | .mad => 3
  | .neg | .abs | .not | .mov | .cvt => 1
  | _ => 2

/-- A source field: a vector register, or a scalar register when its kind bit is set (04 R93). -/
def pairSrcOk (lim : Limits) (used k : Bool) (f : Nat) : Bool :=
  if used then (if k then f < 128 && f < lim.sregs else f < 256 && f < lim.vregs) else f == 0 && !k

def subOk (lim : Limits) (x : SubOp) : Bool :=
  x.d < 256 && (if x.op = .cmp then x.d < 8 else x.d < lim.vregs) &&
  (if x.op = .cmp then x.cond < 10 else x.cond == 0) && (x.op == .cvt || x.ty2 == .b32) &&
  pairSrcOk lim true x.ka x.a && pairSrcOk lim (1 < x.op.sources) x.kb x.b && pairSrcOk lim (2 < x.op.sources) x.kc x.c

/-- The types a pair operation allows (04 R94), and the condition of a compare (04 R95 rule 1). -/
def pairTyOk (x : SubOp) : Bool :=
  match x.op with
  | .add | .sub | .mul | .mad | .min | .max => [Ty.i32, .n32, .f32, .f16].contains x.ty
  | .neg | .abs => [Ty.i32, .f32, .f16].contains x.ty
  | .and | .or | .xor | .andn | .not | .shl | .shr | .mov => x.ty == .b32
  | .sra => x.ty == .i32
  | .cmp => [Ty.i32, .n32, .b32, .f32, .f16].contains x.ty && condOk ((Cond.ofCode x.cond).getD .eq) x.ty
  | .cvt =>
    [Ty.f32, .f16, .i32, .n32].contains x.ty && [Ty.f32, .f16, .i32, .n32].contains x.ty2 && x.ty != x.ty2

/-- The vector sources of a sub-operation. -/
def SubOp.vsources (x : SubOp) : List Nat :=
  (if x.ka then [] else [x.a]) ++ (if x.op.sources < 2 || x.kb then [] else [x.b]) ++
  (if x.op.sources < 3 || x.kc then [] else [x.c])

/-- The pairing rules (04 R95). -/
def pairOk (x y : SubOp) : Bool :=
  let srcs := (x.vsources ++ y.vsources).eraseDups
  pairTyOk x && pairTyOk y &&
  (x.op == .cmp || y.op == .cmp || x.d % 4 != y.d % 4) &&
  (x.op != .cmp || y.op != .cmp || x.d != y.d) &&
  srcs.length ≤ 4 && (List.range 4).all fun b => (srcs.filter (· % 4 == b)).length ≤ 2

/-- Step 4 of 05 R112 on an instruction whose fields have been read. -/
def fieldsOk (lim : Limits) (i : Instr) : Bool :=
  match i.view with
  | .s _ _ x f => argsOk lim (q4Ty i x) f x && extraOk i
  | .ctl _ x => ctlOk lim i x
  | .prism x => prismOk lim x
  | .pair x y => subOk lim x && subOk lim y
  | .event => true

/-- Step 5 of 05 R112. -/
def pairingOk (i : Instr) : Bool :=
  match i.view with
  | .pair x y => pairOk x y
  | _ => true

/-! ## The opcode map -/

/-- Majors with SUB zero in the layout of 04 R85 (05 R107, R109). -/
def plainMajors : List (Nat × (Args → Instr)) := [
   (0x10, .sadd), (0x11, .ssub), (0x12, .smul), (0x13, .smulh), (0x14, .smad), (0x15, .sand),
   (0x16, .sor), (0x17, .sxor), (0x18, .snot), (0x19, .sshl), (0x1A, .sshr), (0x1B, .ssra),
   (0x1C, .smin), (0x1D, .smax), (0x1E, .spop), (0x1F, .sclz), (0x21, .ssel), (0x22, .smov),
   (0x23, .sli), (0x24, .dadd), (0x25, .dsub), (0x26, .dmov), (0x27, .slea), (0x28, .sget),
   (0x29, .sset), (0x2A, .sxlat), (0x30, .vadd), (0x31, .vsub), (0x32, .vmul), (0x33, .vmulh),
   (0x34, .vmad), (0x35, .vneg), (0x36, .vabs), (0x37, .vmin), (0x38, .vmax), (0x39, .vand),
   (0x3A, .vor), (0x3B, .vxor), (0x3C, .vnot), (0x3D, .vandn), (0x3E, .vshl), (0x3F, .vshr),
   (0x40, .vsra), (0x41, .vrot), (0x42, .vpop), (0x43, .vclz), (0x44, .vbfe), (0x45, .vbfi),
   (0x47, .vsel), (0x48, .vmov), (0x49, .vdot4), (0x4A, .vsad), (0x4B, .vclass), (0x4C, .vround),
   (0x50, .vrcp), (0x51, .vrsq), (0x52, .vsqrt), (0x53, .vexp2), (0x54, .vlog2), (0x55, .vsin),
   (0x56, .vcos), (0x57, .vtanh), (0x58, .vsigm), (0x60, .vcvt), (0x61, .vpack), (0x62, .vunpack),
   (0x63, .vqscale), (0x64, .vqenc), (0x65, .vqdec), (0x66, .amaxrd), (0x67, .vdrop), (0x68, .vperm),
   (0x69, .vshfl), (0x6A, .vpush), (0x6B, .vbcast), (0x6F, .vid), (0x70, .ld), (0x71, .st),
   (0x72, .lds), (0x73, .sts), (0x74, .pref), (0x79, .ebind), (0x7A, .eunbind), (0x7B, .eacq),
   (0x7C, .erel), (0x7D, .nbarr), (0x7E, .nbwait), (0x7F, .nbsync), (0x80, .tbar), (0x81, .tlwait),
   (0x82, .tlread), (0x83, .rput), (0x84, .rtake), (0x85, .rdone), (0x86, .qput), (0x87, .qtake),
   (0x88, .fbopen), (0x89, .fbnext), (0x8A, .fbend), (0x8B, .fbget), (0x8C, .fbclose), (0x90, .tld),
   (0x91, .tst), (0x92, .tzero), (0x93, .tzf), (0x94, .mma), (0x95, .mmaa), (0x96, .mcommit),
   (0x97, .mwait), (0x98, .aread), (0x99, .awrite), (0x9A, .azero), (0x9B, .aq), (0x9D, .cpym),
   (0x9E, .gath), (0xA0, .scat), (0xA2, .estat), (0xB0, .lainit), (0xB1, .laadd), (0xB2, .lachk),
   (0xB3, .laest), (0xB5, .laflag), (0xB6, .laclr), (0xB8, .fcbind), (0xB9, .fcrec), (0xBB, .spres),
   (0xBC, .spjoin), (0xBD, .spabort), (0xBE, .spstat), (0xC0, .trap), (0xC1, .tret), (0xC2, .brk),
   (0xC3, .tsread), (0xC4, .wake), (0xC5, .pmread), (0xC6, .mark)]

def ctlMajors : List (Nat × (Ctl → Instr)) := [
   (0x01, .bra), (0x02, .brc), (0x03, .brv), (0x04, .brx), (0x05, .call), (0x06, .ret), (0x08, .join), (0x09, .exit),
   (0x0A, .loop), (0x0B, .nop), (0x0C, .ipref), (0x0D, .yield)]

/-- Majors that use SUB (05 R110). -/
def subMajors : List Nat :=
  [0x20, 0x46, 0x6C, 0x6D, 0x6E, 0x75, 0x76, 0x77, 0x78, 0x9C, 0x9F, 0xA1, 0xB4, 0xBA]

/-- Majors that are not valid in W-literal form (05 R108). -/
def sOnly : List Nat :=
  [0x06, 0x08, 0x09, 0x0B, 0x0D, 0x6F, 0x66, 0x6E, 0x86, 0x87, 0x8A, 0x8C, 0x7A, 0x92, 0x93, 0x96, 0x9A, 0xA2,
   0xB2, 0xB5, 0xB6, 0xBD, 0xBE, 0xC1, 0xC3, 0xC4]

/-- Step 2 of 05 R112: the major is valid in form 0 (S) or 1 (W-literal). -/
def majorOk (form maj : Nat) : Bool :=
  ((plainMajors.map (·.1)).contains maj || (ctlMajors.map (·.1)).contains maj || subMajors.contains maj) &&
  (if form = 0 then maj != 0x23 else !sOnly.contains maj)

def need {α : Type} (e : DecTrap) : Option α → Except DecTrap α
  | some a => .ok a
  | none => .error e

/-- Step 3 of 05 R112: the instruction a major and SUB name.  A reserved condition is a field error (05 R110). -/
def ctorOf (maj sub : Nat) : Except DecTrap (Args → Instr) :=
  match maj with
  | 0x20 => if sub / 16 = 0 then (need .encoding (Cond.ofCode sub)).map Instr.scmp else .error .opcode
  | 0x46 => if sub / 16 = 0 then (need .encoding (Cond.ofCode sub)).map Instr.vcmp else .error .opcode
  | 0x6C => if sub / 16 % 2 = 0 then (need .opcode (RedOp.ofCode (sub % 16))).map (Instr.vred (sub / 32 == 1))
            else .error .opcode
  | 0x6D => if sub / 16 % 2 = 0 then (need .opcode (RedOp.ofCode (sub % 16))).map (Instr.vscan (sub / 32 == 1))
            else .error .opcode
  | 0x6E => if sub = 0 then .ok .vballot else if sub = 32 then .ok .vballotTeam else .error .opcode
  | 0x75 => do
      let op ← need .opcode (AtomOp.ofCode (sub / 4))
      let o ← need .opcode (Order.ofCode (sub % 4))
      pure (Instr.atom op o)
  | 0x76 => do
      let op ← need .opcode (AtomOp.ofCode (sub / 4))
      let o ← need .opcode (Order.ofCode (sub % 4))
      pure (Instr.atoms op o)
  | 0x77 => do
      let op ← need .opcode (AtomOp.ofCode (sub / 4))
      let o ← need .opcode (Order.ofCode (sub % 4))
      if ratomTypes op = [] then .error .opcode else pure (Instr.ratom op o)
  | 0x78 => if sub / 4 = 0 then (need .opcode (Order.ofCode sub)).map Instr.fence else .error .opcode
  | 0x9C => if sub = 0 then .ok .cpyToScratchpad else if sub = 1 then .ok .cpyToMemory else .error .opcode
  | 0x9F => if sub / 4 = 0 then (need .opcode (PoolMode.ofCode sub)).map Instr.gpool else .error .opcode
  | 0xA1 => if sub = 1 then .ok .collAllgather else if sub = 2 then .ok .collAlltoall
            else if sub % 4 = 0 ∧ sub < 16 then (need .opcode (CollRed.ofCode (sub / 4))).map Instr.collAllreduce
            else .error .opcode
  | 0xB4 => if sub = 0 then .ok .lastag else if sub = 1 then .ok .lastagDivg else .error .opcode
  | 0xBA => if sub / 4 = 0 then (need .opcode (FcMode.ofCode sub)).map Instr.fctake else .error .opcode
  | _ => if sub = 0 then need .opcode (plainMajors.lookup maj) else .error .opcode

/-! ## Reading the words -/

/-- Widths of the S layout, low to high: FORM, MAJOR, SUB, GUARD, DST, SRCA, SRCB, SRCC, TYPE, MOD, 63:60 (04 R85). -/
def sWidths : List Nat := [2, 8, 6, 4, 8, 8, 8, 8, 4, 4, 4]
/-- FORM, MAJOR, SUB, GUARD, OPND, TGT, TOKEN, AUX, MOD, 63:60 (06 R115). -/
def ctlWidths : List Nat := [2, 8, 6, 4, 8, 20, 4, 4, 4, 4]
/-- LIT, LSEL, reserved: the second word of a W-literal instruction (04 R92). -/
def litWidths : List Nat := [32, 2, 30]
/-- Reserved, SRCC, SRCB, SRCA, DST, KA, KB, KC, COND, TYPE2, TYPE, POP (04 R93). -/
def subWidths : List Nat := [10, 8, 8, 8, 8, 1, 1, 1, 4, 4, 4, 6]
/-- COND, TTYPE, A, B, BKIND (04 R99). -/
def testWidths : List Nat := [4, 3, 8, 8, 2]
/-- EDGE, operation, LF, DST, A, B (04 R101). -/
def arcWidths : List Nat := [4, 5, 1, 8, 8, 8]
/-- FORM, MAJOR, PRESENT, TOKEN, ARCN, GUARD, seven tests, six arcs, LEAF, TGTA, TGTB, LIT, reserved (04 R97). -/
def prismWidths : List Nat :=
  [2, 8, 7, 4, 3, 4, 25, 25, 25, 25, 25, 25, 25, 34, 34, 34, 34, 34, 34, 16, 20, 20, 32, 17]

def guardOf (n : Nat) : Guard := ⟨n / 8 == 1, n % 8⟩
def Guard.code (g : Guard) : Nat := (if g.neg then 8 else 0) + g.sel

/-- The fields of an S-layout word (04 R85). -/
def argsOf (w : Nat) (lit : Option Lit) : Args :=
  let f := unpack sWidths w
  ⟨guardOf (f.getD 3 0), f.getD 4 0, f.getD 5 0, f.getD 6 0, f.getD 7 0, Ty.ofCode (f.getD 8 0), f.getD 9 0,
   f.getD 10 0, lit⟩

/-- The literal word (04 R92): none when LSEL or a reserved bit is against the rules. -/
def litOf (w : Nat) : Option Lit :=
  let f := unpack litWidths w
  if f.getD 2 0 = 0 then (LSel.ofCode (f.getD 1 0)).map fun s => ⟨s, BitVec.ofNat 32 (f.getD 0 0)⟩ else none

/-- The fields of a control word (06 R115): none when MOD or bits 63:60 are not zero. -/
def ctlOf (w : Nat) : Option Ctl :=
  let f := unpack ctlWidths w
  if f.getD 8 0 = 0 ∧ f.getD 9 0 = 0 then
    some ⟨guardOf (f.getD 3 0), f.getD 4 0, f.getD 5 0, f.getD 6 0, f.getD 7 0⟩ else none

/-- A sub-operation (04 R93): none when POP or a reserved bit is against the rules. -/
def subOf (w : Nat) : Option SubOp :=
  let f := unpack subWidths w
  if f.getD 0 0 = 0 then (PairOp.ofCode (f.getD 11 0)).map fun op =>
    ⟨op, Ty.ofCode (f.getD 10 0), Ty.ofCode (f.getD 9 0), f.getD 8 0, f.getD 7 0 == 1, f.getD 6 0 == 1, f.getD 5 0 == 1,
     f.getD 4 0, f.getD 3 0, f.getD 2 0, f.getD 1 0⟩
  else none

/-- A test (04 R99): none when its type or condition is reserved. -/
def testOf (w : Nat) : Option PTest :=
  let f := unpack testWidths w
  (testTyOf (f.getD 1 0)).bind fun t => (Cond.ofCode (f.getD 0 0)).map fun c =>
    ⟨f.getD 4 0, f.getD 3 0, f.getD 2 0, t, c⟩

/-- An arc (04 R101): none when its operation is reserved. -/
def arcOf (w : Nat) : Option PArc :=
  let f := unpack arcWidths w
  (ArcOp.ofCode (f.getD 1 0)).map fun op => ⟨f.getD 5 0, f.getD 4 0, f.getD 3 0, f.getD 2 0 == 1, op, f.getD 0 0⟩

/-- All of a list, or nothing. -/
def allSome {α : Type} : List (Option α) → Option (List α)
  | [] => some []
  | none :: _ => none
  | some a :: l => (allSome l).map (a :: ·)

/-- A prism (04 R97): none when a reserved bit, test or operation is against the rules. -/
def prismOf (w : Nat) : Option Prism :=
  let f := unpack prismWidths w
  (allSome (((f.drop 6).take 7).map testOf)).bind fun ts =>
  (allSome (((f.drop 13).take 6).map arcOf)).bind fun rs =>
    if f.getD 23 0 = 0 then
      some ⟨guardOf (f.getD 5 0), f.getD 2 0, f.getD 3 0, f.getD 4 0, ts, rs,
        unpack [2, 2, 2, 2, 2, 2, 2, 2] (f.getD 19 0), f.getD 20 0, f.getD 21 0, BitVec.ofNat 32 (f.getD 22 0)⟩
    else none

/-- The number that consecutive 64-bit words make, the first lowest. -/
def joinWords (ws : List Nat) : Nat := pack (ws.map fun w => (64, w))

/-- Steps 4 and 5 of 05 R112, and the length in bytes. -/
def judge (lim : Limits) (len : Nat) (i : Option Instr) : Except DecTrap (Instr × Nat) :=
  match i with
  | none => .error .encoding
  | some i =>
    if !fieldsOk lim i then .error .encoding
    else if !pairingOk i then .error .pair
    else .ok (i, len)

/-- An S or W-literal instruction after step 1. -/
def decodeSW (lim : Limits) (form w0 w1 : Nat) : Except DecTrap (Instr × Nat) :=
  let f := unpack sWidths w0
  let maj := f.getD 1 0
  let sub := f.getD 2 0
  if !majorOk form maj then .error .opcode
  else match ctlMajors.lookup maj with
  | some k =>
    if sub ≠ 0 then .error .opcode
    else if form = 1 then .error .encoding                       -- no literal source (06 R116)
    else judge lim 8 ((ctlOf w0).map k)
  | none =>
    match ctorOf maj sub with
    | .error e => .error e
    | .ok k =>
      if form = 0 then judge lim 8 (some (k (argsOf w0 none)))
      else judge lim 16 ((litOf w1).map fun l => k (argsOf w0 (some l)))

/-- The decoder (05 R112): the words from the program counter on (missing words read as zero), for a path whose
section and workgroup declare `lim`.  It answers the instruction and its length in bytes, or the trap. -/
def decode (lim : Limits) (pc : Nat) (ws : List Nat) : Except DecTrap (Instr × Nat) :=
  let w0 := ws.getD 0 0
  match w0 % 4 with
  | 0 => if pc % 8 = 0 then decodeSW lim 0 w0 0 else .error .encoding
  | 1 => if pc % 16 = 0 then decodeSW lim 1 w0 (ws.getD 1 0) else .error .encoding
  | 2 =>
    if pc % 16 = 0 then
      let f := unpack [2, 63, 63] (joinWords [w0, ws.getD 1 0])
      judge lim 16 ((subOf (f.getD 1 0)).bind fun x => (subOf (f.getD 2 0)).map fun y => .wPair x y)
    else .error .encoding
  | _ =>
    if pc % 64 = 0 then
      let w := joinWords ((List.range 8).map fun k => ws.getD k 0)
      if (unpack prismWidths w).getD 1 0 = 7 then judge lim 64 ((prismOf w).map .prism) else .error .opcode
    else .error .encoding

/-! ## The encoder -/

/-- The S-layout word (04 R85). -/
def argsWord (form maj sub : Nat) (x : Args) : Nat :=
  pack [(2, form), (8, maj), (6, sub), (4, x.guard.code), (8, x.d), (8, x.a), (8, x.b), (8, x.c), (4, x.ty.code),
    (4, x.md), (4, x.ext)]

def litWord (l : Lit) : Nat := pack [(32, l.val.toNat), (2, l.sel.code), (30, 0)]

def ctlWord (maj : Nat) (x : Ctl) : Nat :=
  pack [(2, 0), (8, maj), (6, 0), (4, x.guard.code), (8, x.opnd), (20, x.tgt), (4, x.token), (4, x.aux), (4, 0), (4, 0)]

def bit (b : Bool) : Nat := if b then 1 else 0

def subWord (x : SubOp) : Nat :=
  pack [(10, 0), (8, x.c), (8, x.b), (8, x.a), (8, x.d), (1, bit x.ka), (1, bit x.kb), (1, bit x.kc), (4, x.cond),
    (4, x.ty2.code), (4, x.ty.code), (6, x.op.code)]

def testWord (t : PTest) : Nat := pack [(4, t.cond.code), (3, testTyCode t.tty), (8, t.a), (8, t.b), (2, t.bkind)]

def arcWord (r : PArc) : Nat :=
  pack [(4, r.edge), (5, r.op.code), (1, bit r.lf), (8, r.dst), (8, r.a), (8, r.b)]

def prismWord (x : Prism) : Nat :=
  pack ([(2, 3), (8, 7), (7, x.present), (4, x.token), (3, x.arcn), (4, x.guard.code)] ++
    x.tests.map (fun t => (25, testWord t)) ++ x.arcs.map (fun r => (34, arcWord r)) ++
    [(16, pack (x.leaf.map fun c => (2, c))), (20, x.tgtA), (20, x.tgtB), (32, x.lit.toNat), (17, 0)])

/-- The 64-bit words of a well-formed instruction, first word first; an event has none. -/
def encode (i : Instr) : List Nat :=
  match i.view with
  | .s maj sub x _ =>
    match x.lit with
    | none => [argsWord 0 maj sub x]
    | some l => [argsWord 1 maj sub x, litWord l]
  | .ctl maj x => [ctlWord maj x]
  | .prism x => unpack [64, 64, 64, 64, 64, 64, 64, 64] (prismWord x)
  | .pair x y => unpack [64, 64] (pack [(2, 2), (63, subWord x), (63, subWord y)])
  | .event => []

/-- The largest counts a section and a workgroup can declare (01 R37, R38). -/
def maxLimits : Limits := ⟨256, 128, 24, 4⟩

/-- The 64-bit words of the bits `w`, as memory holds them (00 R5). -/
def wordsOf (w : Nat) : List Nat := unpack [64, 64, 64, 64, 64, 64, 64, 64] w

/-- The instruction that the decoder reads from the bits `w`, bit 0 the least significant bit of the first word; bits
above `nbits` are zero.  The counts are the largest a kernel can declare and the place is aligned for every form. -/
def decodeTableWord (nbits w : Nat) : Option Instr :=
  match decode maxLimits 0 (wordsOf (w % 2 ^ nbits)) with
  | .ok (i, _) => some i
  | .error _ => none

end Sys2Proof
end

