-- ==== Sys2Proof/Machine/Float.lean ====
section
/-!
DEFINITION. Number formats and rounding (03 R61 to R72): exact values, decoding a pattern, and one rounding into a format
with its flags.
-/

namespace Sys2Proof

/-- Sticky flags: SAT IX UF OF DZ NV in bits 5 to 0 (03 R72). -/
abbrev Flags := BitVec 6

def flNV : Flags := 1#6
def flDZ : Flags := 2#6
def flOF : Flags := 4#6
def flUF : Flags := 8#6
def flIX : Flags := 16#6
def flSAT : Flags := 32#6

/-- An exact real number: ± num / den. -/
structure XR where
  neg : Bool
  num : Nat
  den : Nat
deriving DecidableEq, Repr

/-- What a pattern stands for: a NaN (signalling or not), an infinity, a number (zero has a sign). -/
inductive FVal where
  | nan (sig : Bool)
  | inf (neg : Bool)
  | num (x : XR)
deriving DecidableEq, Repr

/-- Rounding modes with codes 0 to 4 (04 R89, 03 R67). -/
inductive RMode where
  | rne | rtz | rup | rdn | rst
deriving DecidableEq, Repr

def RMode.ofCode (n : Nat) : RMode := [RMode.rne, .rtz, .rup, .rdn, .rst].getD n .rne

/-- A floating-point format (03 R61): fraction bits, exponent bits, bias, pattern of the largest finite value, whether it
has infinities, canonical NaN (none for E2M1). -/
structure Fmt where
  m : Nat
  eb : Nat
  bias : Nat
  maxFin : Nat
  hasInf : Bool
  nan : Option Nat
deriving DecidableEq, Repr

def Ty.fmt : Ty → Fmt
  | .f16 => ⟨10, 5, 15, 0x7BFF, true, some 0x7E00⟩
  | .bf16 => ⟨7, 8, 127, 0x7F7F, true, some 0x7FC0⟩
  | .e5m2 => ⟨2, 5, 15, 0x7B, true, some 0x7E⟩
  | .e4m3 => ⟨3, 4, 7, 0x7E, false, some 0x7F⟩
  | .e2m1 => ⟨1, 2, 1, 0x7, false, none⟩
  | _ => ⟨23, 8, 127, 0x7F7FFFFF, true, some 0x7FC00000⟩

/-- The pattern of a magnitude's sign bit. -/
def Fmt.signBit (f : Fmt) : Nat := 2 ^ (f.m + f.eb)

def XR.zero (neg : Bool) : XR := ⟨neg, 0, 1⟩
def XR.ofInt (i : Int) : XR := ⟨decide (i < 0), i.natAbs, 1⟩
/-- ± s × 2^q. -/
def XR.scaled (neg : Bool) (s : Nat) (q : Int) : XR :=
  if 0 ≤ q then ⟨neg, s * 2 ^ q.toNat, 1⟩ else ⟨neg, s, 2 ^ (-q).toNat⟩

/-- The value of a pattern (03 R61, R62). -/
def fdecode (t : Ty) (p : Nat) : FVal :=
  let f := t.fmt
  let neg := p / f.signBit % 2 == 1
  let mag := p % f.signBit
  let e := mag / 2 ^ f.m
  let fr := mag % 2 ^ f.m
  if mag > f.maxFin then
    if f.hasInf && mag == f.maxFin + 1 then .inf neg
    else .nan (f.hasInf && fr / 2 ^ (f.m - 1) % 2 == 0)
  else if e = 0 then .num (.scaled neg fr (1 - (f.bias : Int) - f.m))
  else .num (.scaled neg (2 ^ f.m + fr) ((e : Int) - f.bias - f.m))

/-! ## Exact arithmetic -/

def XR.toPair (x : XR) : Int × Nat := ((if x.neg then -(x.num : Int) else x.num), x.den)

def XR.ofPair (n : Int) (d : Nat) : XR := ⟨decide (n < 0), n.natAbs, d⟩

/-- Exact sum; an exact zero is +0 unless both terms are −0 (03 R68 step 1). -/
def XR.add (a b : XR) : XR :=
  let n := a.toPair.1 * b.den + b.toPair.1 * a.den
  if n = 0 then .zero (a.neg && b.neg && a.num == 0 && b.num == 0) else .ofPair n (a.den * b.den)

def XR.mul (a b : XR) : XR := ⟨a.neg != b.neg, a.num * b.num, a.den * b.den⟩

def XR.negate (a : XR) : XR := { a with neg := !a.neg }
def XR.absv (a : XR) : XR := { a with neg := false }

/-- a < b. -/
def XR.lt (a b : XR) : Bool := a.toPair.1 * b.den < b.toPair.1 * a.den
def XR.eqv (a b : XR) : Bool := a.toPair.1 * b.den == b.toPair.1 * a.den

def FVal.negate : FVal → FVal
  | .nan s => .nan s
  | .inf n => .inf (!n)
  | .num x => .num x.negate

def FVal.absv : FVal → FVal
  | .nan s => .nan s
  | .inf _ => .inf false
  | .num x => .num x.absv

def FVal.isNan : FVal → Bool
  | .nan _ => true
  | _ => false

def FVal.isSnan : FVal → Bool
  | .nan s => s
  | _ => false

/-- NV for a signalling operand (03 R62). -/
def nvOf (l : List FVal) : Flags := if l.any FVal.isSnan then flNV else 0

/-- Exact sum of two values with the invalid case ∞ − ∞ (07 R143). -/
def fadd (a b : FVal) : FVal × Flags :=
  match a, b with
  | .nan _, _ | _, .nan _ => (.nan false, nvOf [a, b])
  | .inf x, .inf y => if x = y then (.inf x, 0) else (.nan false, flNV)
  | .inf x, _ => (.inf x, 0)
  | _, .inf y => (.inf y, 0)
  | .num x, .num y => (.num (x.add y), 0)

/-- Exact product with the invalid case 0 × ∞. -/
def fmul (a b : FVal) : FVal × Flags :=
  match a, b with
  | .nan _, _ | _, .nan _ => (.nan false, nvOf [a, b])
  | .inf x, .inf y => (.inf (x != y), 0)
  | .inf x, .num y => if y.num = 0 then (.nan false, flNV) else (.inf (x != y.neg), 0)
  | .num x, .inf y => if x.num = 0 then (.nan false, flNV) else (.inf (x.neg != y), 0)
  | .num x, .num y => (.num (x.mul y), 0)

/-- Exact a × b + c; 0 × ∞ sets NV even when c is a quiet NaN (07 R143). -/
def fmad (a b c : FVal) : FVal × Flags :=
  let p := fmul a b
  let s := fadd p.1 c
  (s.1, p.2 ||| s.2)

/-- Exact quotient, with 0 / 0 and ∞ / ∞ invalid and division by zero infinite (IEEE 754 as 02 R58 gives `/`). -/
def fdiv (a b : FVal) : FVal × Flags :=
  match a, b with
  | .nan _, _ | _, .nan _ => (.nan false, nvOf [a, b])
  | .inf _, .inf _ => (.nan false, flNV)
  | .inf x, .num y => (.inf (x != y.neg), 0)
  | .num x, .inf y => (.num (.zero (x.neg != y)), 0)
  | .num x, .num y =>
    if y.num = 0 then (if x.num = 0 then (.nan false, flNV) else (.inf (x.neg != y.neg), flDZ))
    else (.num ⟨x.neg != y.neg, x.num * y.den, x.den * y.num⟩, 0)

/-- a < b for values that are not NaN. -/
def FVal.lt (a b : FVal) : Bool :=
  match a, b with
  | .nan _, _ | _, .nan _ => false
  | .inf x, .inf y => x && !y
  | .inf x, .num _ => x
  | .num _, .inf y => !y
  | .num x, .num y => x.lt y

/-- a = b as numbers, +0 equal to −0 (04 R100). -/
def FVal.eqv (a b : FVal) : Bool :=
  match a, b with
  | .inf x, .inf y => x == y
  | .num x, .num y => x.eqv y
  | _, _ => false

/-- a < b in the order of 07 R147, where −0 is less than +0. -/
def FVal.ltz (a b : FVal) : Bool :=
  match a, b with
  | .num x, .num y => if x.num = 0 && y.num = 0 then x.neg && !y.neg else x.lt y
  | _, _ => a.lt b

/-- Float minimum and maximum (07 R147). -/
def fminmax (mx : Bool) (a b : FVal) : FVal × Flags :=
  if a.isSnan || b.isSnan then (.nan false, flNV)
  else if a.isNan then ((if b.isNan then .nan false else b), 0)
  else if b.isNan then (a, 0)
  else ((if (if mx then a.ltz b else b.ltz a) then b else a), 0)

/-! ## Rounding -/

/-- n/d × 2^k as a fraction. -/
def scale2 (n d : Nat) (k : Int) : Nat × Nat :=
  if 0 ≤ k then (n * 2 ^ k.toNat, d) else (n, d * 2 ^ (-k).toNat)

/-- ⌊log2 (n/d)⌋ for n > 0. -/
def flog2 (n d : Nat) : Int :=
  let e : Int := (Nat.log2 n : Int) - Nat.log2 d
  let p := scale2 n d (-e)
  if p.2 ≤ p.1 then e else e - 1

/-- An integer neighbour of n/d chosen by the mode (03 R67, R69 step 4), and whether it is inexact. -/
def roundNat (mode : RMode) (neg : Bool) (rnd n d : Nat) : Nat × Bool :=
  let f := n / d
  let r := n % d
  if r = 0 then (f, false)
  else
    let up := match mode with
      | .rne => decide (d < 2 * r) || (2 * r == d && f % 2 == 1)
      | .rtz => false
      | .rup => !neg
      | .rdn => neg
      | .rst => 2 ^ 16 ≤ 2 ^ 16 * r / d + rnd
    (if up then f + 1 else f, true)

/-- The magnitude pattern of s × 2^q in a format whose lowest quantum is 2^qmin; patterns rise with the value. -/
def packMag (f : Fmt) (qmin : Int) (s : Nat) (q : Int) : Nat :=
  let p := if s = 2 ^ (f.m + 1) then (s / 2, q + 1) else (s, q)
  if p.1 < 2 ^ f.m then p.1 else (p.2 - qmin).toNat * 2 ^ f.m + p.1

/-- The result of an overflow (03 R68 step 4). -/
def overflowed (f : Fmt) (mode : RMode) (neg sat : Bool) : Nat × Flags :=
  if sat || !f.hasInf then (f.maxFin, flOF ||| flIX ||| flSAT)
  else
    let toZero := match mode with
      | .rtz => true
      | .rup => neg
      | .rdn => !neg
      | _ => false
    (if toZero then f.maxFin else f.maxFin + 1, flOF ||| flIX)

/-- Round a value into a floating-point format (03 R68, R69): the pattern and the flags.  `sat` is block-scale saturation,
`rnd` the 16 random bits of `.rst`. -/
def fround (t : Ty) (mode : RMode) (rnd : Nat) (sat : Bool) (v : FVal) : Nat × Flags :=
  let f := t.fmt
  match v with
  | .nan _ => match f.nan with
    | some p => (p, 0)
    | none => (0, flNV)
  | .inf neg =>
    let s := if neg then f.signBit else 0
    if f.hasInf then (s + f.maxFin + 1, 0) else (s + f.maxFin, flSAT)
  | .num x =>
    let s := if x.neg then f.signBit else 0
    if x.num = 0 then (s, 0)
    else
      let qmin : Int := 1 - (f.bias : Int) - f.m
      let e := flog2 x.num x.den
      let q := e - f.m
      let qb := if q < qmin then qmin else q
      let pb := scale2 x.num x.den (-qb)
      let rb := roundNat mode x.neg rnd pb.1 pb.2
      let mag := packMag f qmin rb.1 qb
      if f.maxFin < mag then
        let o := overflowed f mode x.neg sat
        (s + o.1, o.2)
      else if rb.2 then
        -- the underflow test rounds with an unbounded exponent (R68 step 3, R69)
        let pu := scale2 x.num x.den (-q)
        let ru := roundNat mode x.neg rnd pu.1 pu.2
        let tiny := decide (q < qmin) && !(decide (qmin = q + 1) && ru.1 == 2 ^ (f.m + 1))
        (s + mag, flIX ||| (if tiny then flUF else 0))
      else (s + mag, 0)

/-- Nearest-even FP32 (02 R58). -/
def rne32 (v : FVal) : Nat × Flags := fround .f32 .rne 0 false v

/-- FP32 toward +∞ of a magnitude (03 R76). -/
def rup32 (v : FVal) : Nat := (fround .f32 .rup 0 false v).1

def f32 (p : Nat) : FVal := fdecode .f32 p

/-- Integer ranges (03 R59). -/
def Ty.isSigned : Ty → Bool
  | .i8 | .i16 | .i32 | .i64 => true
  | _ => false

def Ty.isInt : Ty → Bool
  | .i8 | .i16 | .i32 | .i64 | .n8 | .n16 | .n32 | .n64 => true
  | _ => false

def Ty.loI (t : Ty) : Int := if t.isSigned then -((2 ^ (t.bits - 1) : Nat) : Int) else 0
def Ty.hiI (t : Ty) : Int := if t.isSigned then ((2 ^ (t.bits - 1) : Nat) : Int) - 1 else ((2 ^ t.bits : Nat) : Int) - 1

/-- The integer an integer-typed pattern stands for. -/
def intOf (t : Ty) (p : Nat) : Int := if t.isSigned then sext p t.bits else ((p % 2 ^ t.bits : Nat) : Int)

/-- Saturate an exact integer into a type (03 R59): the pattern and SAT when it changed (07 R144). -/
def satInt (t : Ty) (i : Int) : Nat × Flags :=
  let c := clampI t.loI t.hiI i
  (wrapN t.bits c, if c = i then 0 else flSAT)

/-- Round into the integers lo to hi of w bits (03 R68). -/
def iroundIn (w : Nat) (lo hi : Int) (mode : RMode) (rnd : Nat) (v : FVal) : Nat × Flags :=
  match v with
  | .nan _ => (0, flNV)
  | .inf neg => (wrapN w (if neg then lo else hi), flNV)
  | .num x =>
    let r := roundNat mode x.neg rnd x.num x.den
    let i : Int := if x.neg then -(r.1 : Int) else r.1
    if i < lo then (wrapN w lo, flNV)
    else if hi < i then (wrapN w hi, flNV)
    else (wrapN w i, if r.2 then flIX else 0)

/-- Round into an integer format. -/
def iround (t : Ty) : RMode → Nat → FVal → Nat × Flags := iroundIn t.bits t.loI t.hiI

/-- The value of an element of any numeric type (07 R154, R142). -/
def valueOf (t : Ty) (p : Nat) : FVal := if t.isInt then .num (.ofInt (intOf t p)) else fdecode t (p % 2 ^ t.bits)

/-- Round into any numeric type. -/
def roundTo (t : Ty) (mode : RMode) (rnd : Nat) (v : FVal) : Nat × Flags :=
  if t.isInt then iround t mode rnd v else fround t mode rnd false v

/-! ## Subnormals (03 R70, R71) -/

/-- Whether `%fmode` flushes the subnormals of a format. -/
def flushes (fmode : Word) (t : Ty) : Bool :=
  match t with
  | .f32 | .bf16 => fmode.toNat % 2 == 1
  | .f16 => fmode.toNat / 2 % 2 == 1
  | _ => false

/-- A pattern is subnormal. -/
def isSub (t : Ty) (p : Nat) : Bool :=
  let mag := p % t.fmt.signBit
  mag != 0 && mag < 2 ^ t.fmt.m

/-- The value of a source after input flushing. -/
def flushIn (fmode : Word) (t : Ty) (p : Nat) : FVal :=
  if flushes fmode t && isSub t p then .num (.zero (p / t.fmt.signBit % 2 == 1)) else valueOf t p

/-- A result after output flushing. -/
def flushOut (fmode : Word) (t : Ty) (r : Nat × Flags) : Nat × Flags :=
  if flushes fmode t && isSub t r.1 then (r.1 / t.fmt.signBit % 2 * t.fmt.signBit, r.2 ||| flUF ||| flIX) else r

/-! ## Stochastic rounding (03 R69) -/

/-- The next generator state. -/
def rstNext (g : Word) : Word :=
  let g := g ^^^ (g <<< 13)
  let g := g ^^^ (g >>> 17)
  g ^^^ (g <<< 5)

/-- The seed of a lane. -/
def rstSeed (fmode : Word) (lane : Nat) : Word :=
  let seed := fmode >>> 16
  let g := ((seed <<< 16) ||| seed) ^^^ BitVec.ofNat 32 (lane * 0x9E3779B9)
  if g = 0 then 1 else g

/-! ## Scaled formats (03 R63 to R66) -/

/-- The FP16 patterns of the Q4N levels (03 R63). -/
def q4nLevels : List Nat :=
  [0xBC00, 0xB98E, 0xB822, 0xB630, 0xB475, 0xB1D5, 0xADBC, 0x0000, 0x2D0E, 0x311E, 0x33DC, 0x356B, 0x3717, 0x3888,
   0x39CA, 0x3C00]

/-- The level of a code. -/
def q4nLevel (q : Nat) : FVal := fdecode .f16 (q4nLevels.getD (q % 16) 0)

/-- The value of a Q4N element before the one rounding (03 R64): super-scale S, block code c.  A signalling S sets NV (03 R62).
DESIGN CHOICE (log 39): R64 gives no order of its special cases; here a NaN S comes before c = 0, and c = 0 before an infinite S. -/
def q4nValue (S : FVal) (c q : Nat) : FVal × Flags :=
  match S with
  | .nan _ => (.nan false, nvOf [S])
  | _ =>
    if c % 256 = 0 then (.num (.zero false), 0)
    else
      match S with
      | .num _ => fmul (q4nLevel q) (fmul S (.num ⟨false, c % 256, 256⟩)).1
      | _ => fmul (q4nLevel q) S

/-- The value of an MX element before the one rounding (03 R66); a signalling element sets NV under every scale (03 R62). -/
def mxValue (t : Ty) (p e : Nat) : FVal × Flags :=
  if e % 256 = 255 then (.nan false, nvOf [valueOf t p])
  else
    let v := valueOf t p
    match v with
    | .nan s => (.nan false, if s then flNV else 0)
    | .inf n => (.inf n, 0)
    | .num x => (.num (x.mul (.scaled false 1 ((e % 256 : Nat) - (127 : Int)))), 0)

/-- The distance of a quotient from a level, and the level's magnitude (03 R65). -/
def q4nDist (q : XR) (c : Nat) : XR × XR :=
  match q4nLevel c with
  | .num l => ((q.add l.negate).absv, l.absv)
  | _ => (q.absv, q.absv)

/-- The nearest level of a quotient; a tie goes to the smaller magnitude (03 R65). -/
def q4nNearest (q : XR) : Nat :=
  (List.range 16).foldl (fun b c =>
    let d := q4nDist q c
    let e := q4nDist q b
    if d.1.lt e.1 || (d.1.eqv e.1 && d.2.lt e.2) then c else b) 0

/-- Encode a value into Q4N under block scale B (03 R65, 07 R158).  DESIGN CHOICE (log 49), where the rule's sentences meet: an
infinite x under an infinite B takes the sign of the product, and under B = 0 encodes as code 7 with no flag, as every element does
there. -/
def q4nEncode (x B : FVal) : Nat × Flags :=
  match x, B with
  | .nan _, _ => (7, flNV)
  | _, .nan _ => (7, flNV)
  | .inf n, .num b => if b.num = 0 then (7, 0) else ((if n != b.neg then 0 else 15), flSAT)
  | .inf n, .inf b => ((if n != b then 0 else 15), flSAT)
  | .num _, .inf _ => (7, 0)
  | .num v, .num b =>
    if b.num = 0 then (7, 0)
    else if v.num = 0 then (7, 0)
    else if b.num * v.den < v.num * b.den then ((if v.neg != b.neg then 0 else 15), flSAT)
    else
      let q : XR := ⟨v.neg != b.neg, v.num * b.den, v.den * b.num⟩
      let c := q4nNearest q
      (c, if (q4nDist q c).1.num = 0 then 0 else flIX)

end Sys2Proof
end

