-- ==== Sys2Proof/Machine/Sparse.lean ====
section
/-!
DEFINITION. Reading and writing data by key in the canonical form of Word.lean, and sets of lanes.
-/

namespace Sys2Proof

/-- The value of key `k`; an unlisted key reads `dflt`. -/
def sget {α : Type} (dflt : α) : Sparse α → Nat → α
  | [], _ => dflt
  | (k', v) :: l, k => if k' = k then v else sget dflt l k

/-- List `v` at `k`, before every greater key. -/
def sins {α : Type} : Sparse α → Nat → α → Sparse α
  | [], k, v => [(k, v)]
  | (k', v') :: l, k, v =>
    if k' < k then (k', v') :: sins l k v
    else if k' = k then (k, v) :: l
    else (k, v) :: (k', v') :: l

/-- Write `v` at `k`, keeping the canonical form. -/
def sput {α : Type} [DecidableEq α] (dflt : α) (d : Sparse α) (k : Nat) (v : α) : Sparse α :=
  if v = dflt then d.filter fun q => q.1 != k else sins d k v

/-- Change the value at `k`. -/
def smod {α : Type} [DecidableEq α] (dflt : α) (d : Sparse α) (k : Nat) (f : α → α) : Sparse α :=
  sput dflt d k (f (sget dflt d k))

/-- Keys rise strictly from `lo` on and no listed value is `dflt`. -/
def swfFrom {α : Type} [DecidableEq α] (dflt : α) (lo : Nat) : Sparse α → Bool
  | [] => true
  | (k, v) :: l => decide (lo ≤ k) && decide (v ≠ dflt) && swfFrom dflt (k + 1) l

/-- The canonical form. -/
def swf {α : Type} [DecidableEq α] (dflt : α) (d : Sparse α) : Bool := swfFrom dflt 0 d

/-- Insert a lane into a set of lanes. -/
def minsert (x : Nat) : Mask → Mask
  | [] => [x]
  | a :: l => if x < a then x :: a :: l else if x = a then a :: l else a :: minsert x l

/-- The union of two sets of lanes. -/
def munion (a b : Mask) : Mask := a.foldr minsert b

/-- The lanes of `a` that are not in `b`. -/
def mdiff (a b : Mask) : Mask := a.filter fun x => !b.contains x

/-- Word i of the mask (01 R10). -/
def maskWord (m : Mask) (i : Nat) : Nat := (m.filter fun x => x / 32 == i).foldl (fun n x => n + 2 ^ (x % 32)) 0

/-- The summary word (01 R10). -/
def maskSummary (m : Mask) : Nat :=
  (List.range 32).foldl (fun n i => if maskWord m i = 0 then n else n + 2 ^ i) 0

/-- Ranks with a member in the set: the passes of an instruction (01 R14). -/
def ranks (m : Mask) : List Nat := (m.map (· / 32)).eraseDups

end Sys2Proof
end

