-- ==== Sys2Proof/Machine/State.lean ====
section
/-!
DEFINITION. The state of the device as plain data, its reset, and the reasons a step can stop.
The state holds the whole device: teams, workgroup contexts, cores, clusters, quadrants, dies, virtual interfaces, the
module, and memory.  A record that does not exist (a free team slot, an unused context) is the empty record, which the
map does not list.  INVENTORY.md names the rule for every field.
-/

namespace Sys2Proof.Machine

open Sys2Proof

/-! ## Names of things -/

/-- A path: physical core (die × 96 + core on the die), team slot, path index. -/
structure PathRef where
  core : Nat
  slot : Nat
  path : Nat
deriving DecidableEq, Repr

/-- What is needed to deliver a trap (11 R239 to R242): the cause code, INFO, the lowest lane, the trapping
instruction's address, where `tret` resumes, and how many window instructions issued after it. -/
structure TrapInfo where
  cause : Nat
  info : DWord
  lane : Nat
  pc : DWord
  resume : DWord
  win : Nat
deriving DecidableEq, Repr

/-- One lane of an access: lane, address, data, and the expected value of a compare-and-swap (08 R174, R178). -/
structure LaneAcc where
  lane : Nat
  va : Nat
  data : DWord
  exp : DWord
deriving DecidableEq, Repr

/-- The waiting status of a path (01 R42). `retry` waits at an instruction that is issued again, `compareFail` for the squash of a
compare whose fault was replayed as fatal (10 R235), `commit` until the team's deferred operations are performed: an `spjoin` then
clears the team's mark (10 R236); `pause` lasts until the path is looked at again: a trap is being delivered (11 R240), or an `eacq`
completes (08 R181). -/
inductive Wait where
  | none
  | retry (reason : Nat)
  | pause (reason : Nat)
  | join (tok inst : Nat)
  | barrier (n : Nat) (phase : Word)
  | tree (level phase : Nat)
  | timeline (n : Nat) (v : DWord)
  | matrix (step : Nat)
  | spres (fs : Nat)
  | compare (fs : Nat)
  | compareFail (fs va : Nat)
  | commit (target : DWord) (joins : Bool)
  | held (ids : List Nat)
  | heldDone (commit : Bool)
  | parked
  | trap
deriving DecidableEq, Repr

/-- What the lanes of a parked access still have to do (08 R174 step 6); `again` re-executes the instruction (`sxlat`, entry
consistency, fetch); `compare` runs a tolerance compare again (10 R235); `spill` is the store of a path's own spilled entry, after
which it waits on as it did (01 R26).  `space` is 0 for `atom`, 1 for `atoms`, 2 for `ratom`. -/
inductive AccOp where
  | load (ty : Ty) (dst : Nat) (reason : Nat)
  | store (ty : Ty)
  | atom (op : AtomOp) (ty : Ty) (o : Order) (scope : Nat) (dst : Nat) (space : Nat)
  | again
  | compare (fs : Nat)
  | spill (back : Wait)
deriving DecidableEq, Repr

/-- A parked access (08 R174 step 6, 19 R332): the tokens of the wait-table entries it waits under, the unfinished lanes,
the operation, the instruction's address and where it resumes. -/
structure Parked where
  tokens : List Nat
  lanes : List LaneAcc
  op : AccOp
  at_ : DWord
  resume : DWord
deriving DecidableEq, Repr

/-- A destination whose data have not returned (11 R253): the register, the values by lane, whether a pair of registers
is written, the stall reason of a reader, the lanes that arrive poisoned (19 R337), and the cycles at which lanes are written for
which 11 R252 gives an exact time (the core's own slice, accumulators), once an issue cycle has issued the instruction.  `far` are the
lanes whose data come from pooled memory, each with its key and when it was issued (21 R361). -/
structure Pend where
  dst : Nat
  vals : List (Nat × DWord)
  wide : Bool
  reason : Nat
  poison : List Nat
  due : List (Nat × Nat)
  far : List (Nat × Nat × Nat)
deriving DecidableEq, Repr

/-- A register name for the timed scoreboard (11 R252): `x` is a translation register, `c` a control register of the team or of lanes. -/
inductive RegName where
  | v (n : Nat) | s (n : Nat) | p (n : Nat) | g (n : Nat) | x (n : Nat) | c (n : Nat)
deriving DecidableEq, Repr

/-- A result that is written but counts as pending until a cycle (11 R252, R253). -/
structure Busy where
  reg : RegName
  until_ : Nat
  reason : Nat
deriving DecidableEq, Repr

/-- A debug eclipse (20 R352, R353): its token, whether it resumes at the next instruction (`brk`) or at the stopped one, and where
that is. -/
structure Eclipse where
  token : Nat
  next : Bool
  resume : DWord
deriving DecidableEq, Repr

/-! ## Team, path and lane state -/

/-- A path (01 R15, R18, R21, R25; 11 R240, R241). `stack` is top first; `yielded` is 2 in the cycle after a `yield` and then 1
until the path issues (06 R131); `away` says that a lookahead instruction has switched it away, and `ahead` names the vector
registers that such instructions write (11 R255); `readyFor` counts ready cycles without an issue (01 R43), `lostFor` those lost to
withholding or halving, and `forced` says that the allowance no longer withholds it (11 R259); `spres` is the slot whose `spres` it
is at (10 R233); `code` is the instruction, with its length, that it has issued and waits in, which is not fetched again (11 R256).
-/
structure Path where
  pc : DWord
  mask : Mask
  stack : List (Nat × Nat)
  onChip : Bool
  entered : Nat
  wait : Wait
  parked : Option Parked
  tcause : Nat
  twin : Nat
  tpc : Word
  tresume : Word
  tinfo : DWord
  tlane : Word
  inh : Bool
  eclipse : Option Eclipse
  skipCmp : Bool
  window : Nat
  pend : List Pend
  busy : List Busy
  pendTrap : Option TrapInfo
  readyFor : Nat
  waited : Nat
  yielded : Nat
  away : Bool
  ahead : List Nat
  lostFor : Nat
  forced : Bool
  spres : Option Nat
  code : Option (Instr × Nat)
deriving DecidableEq, Repr

/-- A limit accumulator register (10 R219, R221). -/
structure La where
  init : Bool
  mode : Nat
  h : Nat
  k : Nat
  nz : Word
  st : Word
  area : Word
deriving DecidableEq, Repr

/-- A fibre register (08 R191, R192): three descriptor words, cursor and end of each lane. -/
structure Fibre where
  cbase : Word
  vbase : Word
  fmt : Word
  cur : Sparse Word
  fin : Sparse Word
deriving DecidableEq, Repr

/-- A translation register (06 R139), with the page it was translated in (06 R140). -/
structure Xt where
  valid : Bool
  vbase : Nat
  tgt : Nat
  frame : Nat
  limit : Nat
  writable : Bool
  base : Nat
  size : Nat
deriving DecidableEq, Repr

/-- The life of a team (01 R39): `drainSaved` is Draining after a save. Retired and Saved leave the slot free. -/
inductive Life where
  | free | starting | running | saving | draining | drainSaved
deriving DecidableEq, Repr

/-- A matrix batch of a team (09 R203, R204): its number in the team, its timeline number when closed by mcommit, the
accumulators it writes, and what the cells it has written held before (12 R286). -/
structure Batch where
  id : Nat
  closed : Bool
  tl : Option (Nat × Nat)
  err : Bool
  accs : List Nat
  old : List (Nat × Word)
deriving DecidableEq, Repr

/-- A team (01 R15, R35 to R39). Lane state is keyed by register × 1024 + lane; `flushing` says that its deferred operations
are being performed (10 R234, R235); `recent` are the latest issues, each with its cycle and the cycles in which its counted passes run
(11 R248). -/
structure Team where
  life : Life
  w : Nat
  index : Nat
  shadow : Bool
  partner : Option Nat
  width : Nat
  admitNo : Nat
  vcount : Nat
  scount : Nat
  member : Mask
  paths : Sparse Path
  vregs : Sparse Word
  vpoison : Sparse Bool
  preds : Sparse Bool
  ff : Sparse (BitVec 6)
  rst : Sparse Word
  sregs : Sparse Word
  spoison : Sparse Bool
  gregs : Sparse Bool
  la : Sparse La
  fb : Sparse Fibre
  xt : Sparse Xt
  tf : Word
  fmode : Word
  amax : Word
  sthr : Word
  sdrop : Word
  scnt : Word
  inst : Nat
  entries : Nat
  stall : Sparse Nat
  issued : Nat
  passes : Nat
  recent : List (Nat × List Nat)
  window : List (Sparse Word)
  privBase : Nat
  privMark : Nat
  ownIds : List Nat
  inhIds : List Nat
  squashed : Bool
  flushing : Bool
  batches : List Batch
  nextBatch : Nat
  ended : Bool
deriving DecidableEq, Repr

/-! ## Workgroup state -/

/-- A tile (09 R195, R196, R200): bytes, scale codes, super-scales, the four control registers, ZF and its watched
region as runs of physical scratchpad addresses, an unfinished load, poisoned bytes: those of the elements, and behind them scale codes
and super-scales (22 R377). -/
structure Tile where
  data : Sparse Byte
  codes : Sparse Byte
  supers : Sparse Word
  width : Word
  rows : Word
  cols : Word
  scale : Word
  zf : Bool
  watched : List (Nat × Nat)
  loading : Bool
  poison : List Nat
deriving DecidableEq, Repr

/-- The status of an operation (09 R216). -/
structure OpStatus where
  done : Bool
  code : Nat
  detail : Nat
deriving DecidableEq, Repr

/-- A timeline (08 R187): the issued count and the status of each operation by number; a memory range to invalidate at a
tlwait that acquires it (09 R194). -/
structure Timeline where
  issued : Nat
  ops : Sparse OpStatus
  ranges : List (Nat × Nat × Nat)
deriving DecidableEq, Repr

/-- A named barrier (08 R183): completed phases, arrivals, and the expected count of an open phase
(none before the first arrival, some 0 for the member count). -/
structure Barrier where
  phase : Word
  arrived : Nat
  expect : Option Nat
deriving DecidableEq, Repr

/-- A declared level of the launch (18 R316): domain, scope, workgroups per group. -/
structure Level where
  dom : Nat
  scope : Nat
  gwg : Nat
deriving DecidableEq, Repr

/-- Arrivals of a workgroup at one level's tree barrier (08 R186): phase, the lanes arrived by team slot × 1024. -/
structure TreeBar where
  phase : Nat
  lanes : List Nat
deriving DecidableEq, Repr

/-- A completed batch that no `mwait` or `tlwait` has completed for the workgroup yet (12 R286): its team slot, its timeline number,
and what its cells held before it, which is what is still read. -/
structure Unseen where
  slot : Nat
  tl : Nat
  num : Nat
  cells : List (Nat × Word)
deriving DecidableEq, Repr

/-- A workgroup context of a core (01 R37, 06 R138, 18 R316 to R318). -/
structure Wg where
  used : Bool
  vi : Nat
  replay : Nat
  node : Nat
  lreca : Nat
  wg : Nat
  lcore : Nat
  grp : List Nat
  spOff : Nat
  spGran : Nat
  cls : Nat
  code : Nat
  codeSize : Nat
  trapEntry : Nat
  shadowEntry : Nat
  data : Nat
  timeout : Nat
  start : Nat
  levels : List Level
  tileN : Nat
  accN : Nat
  tiles : Sparse Tile
  accs : Sparse Word
  accPoison : List Nat
  unseen : List Unseen
  tl : Sparse Timeline
  nb : Sparse Barrier
  tree : Sparse TreeBar
  slotIdx : Nat
  held : Bool
  tstart : DWord
  preempted : Bool
  ending : Bool
deriving DecidableEq, Repr

/-! ## Core state -/

/-- The L1 data cache (08 R175): resident 64-byte lines by physical key, the bytes written and not yet in memory, and
the copies of bytes that memory may have changed since; `whole` are the words that `erel` wrote, whose halves leave together
(12 R262); `bad` are the bytes that came from an uncorrectable word (19 R337). -/
structure L1 where
  lines : List Nat
  data : Sparse Byte
  dirty : List Nat
  whole : List Nat
  bad : List Nat
deriving DecidableEq, Repr

/-- An entry of the binding table (08 R180). -/
structure Bind where
  vi : Nat
  obj : Nat
  base : Nat
  len : Nat
  holders : List Nat
deriving DecidableEq, Repr

/-- A translation in a TLB (19 R329): interface, page base, page size in bytes, frame, target, W. -/
structure Tlb where
  vi : Nat
  base : Nat
  size : Nat
  frame : Nat
  tgt : Nat
  writable : Bool
deriving DecidableEq, Repr

/-- A wait-table entry (19 R332); an entry with `v` false is free. -/
structure WaitE where
  v : Bool
  vi : Nat
  page : Nat
  token : Nat
  slots : List Nat
  ovf : Bool
  ectx : List Nat
  ops : List Nat
deriving DecidableEq, Repr

/-- A forecast slot (10 R229, R235, R237). -/
structure Fs where
  bound : Bool
  owner : Nat
  obj : Nat
  rows : Nat
  cols : Nat
  fmt : Nat
  abs : Word
  rel : Word
  maxbad : Word
  area : Word
  team : Nat
  id : Nat
  isOpen : Bool
  gone : Bool
  bad : Nat
  lastSq : Bool
deriving DecidableEq, Repr

/-- The state of a speculation id in use (10 R231, R235). -/
inductive IdState where
  | free | unresolved | committed | squashed
deriving DecidableEq, Repr

/-- A layout word (04 R104). -/
structure Layout where
  base : Nat
  s0 : Nat
  s1 : Nat
  s2 : Nat
  mode : Nat
deriving DecidableEq, Repr

/-- The kind of an engine operation (09 R209 to R215), with what its descriptor gave. `cores` are the physical cores
a multicast writes. -/
inductive EngKind where
  | cpyIn
  | cpyOut
  | cpym (cores : List Nat) (node entry : Nat)
  | gath (idx npos e rstr rows : Nat)
  | scat (idx npos e rstr rows : Nat)
  | gpool (m : PoolMode) (idx npos e rstr rows boff nb : Nat)
  | allreduce (r : CollRed) (comm : Nat)
  | allgather (comm : Nat)
  | alltoall (comm : Nat)
deriving DecidableEq, Repr

/-- An engine operation that has been issued and not completed (09 R194, R210, R212, R215): elements written so far,
the wait-table token while parked, the errors met as (code, place, detail), the ids that tag its writes. `n0 n1 n2` is the
extent; `inputs` are the members' inputs of a collective once all have joined; `got` are the table elements fetched so far, by
address; `halves` are the halves written of 8-byte elements (2n and 2n + 1 for element n; 12 R284); `awaits` are the deferred stores of
its path that were recorded before it was issued (12 R283). -/
structure EngOp where
  id : Nat
  kind : EngKind
  w : Nat
  slot : Nat
  path : Nat
  tl : Nat
  num : Nat
  ctx : Nat
  vi : Nat
  lay : Layout
  n0 : Nat
  n1 : Nat
  n2 : Nat
  ty : Ty
  da : Nat
  done : List Nat
  parked : Option Nat
  errs : List (Nat × Nat × Nat)
  tagged : List Nat
  inputs : List (List Nat)
  got : List (Nat × Nat)
  halves : List Nat
  awaits : List Nat
deriving DecidableEq, Repr

/-- A matrix step (09 R201 to R203): team slot, workgroup context, accumulator, tiles, the path of a waiting `mma` or the
batch of an `mmaa`, TYPE `.i32`, its occupancy, whether it runs for the second time, the path that issued it, and `%sparse.thr` as it
stood then (03 R77, 01 R16). -/
structure MStep where
  id : Nat
  slot : Nat
  w : Nat
  acc : Nat
  ta : Nat
  tb : Nat
  path : Option Nat
  batch : Nat
  int : Bool
  cycles : Nat
  rerun : Bool
  who : Nat
  sthr : Word
deriving DecidableEq, Repr

/-- A posted store not yet performed (08 R175): the issuing slot, the paths whose own store it is (the issuing one, and those that
split from it or merged with it), the physical key and the bytes, whether it goes to a peer, and when it was issued.  Slot 64 with no
path is a write of the core's L1 that the host links have not acknowledged (12 R278). -/
structure Posted where
  slot : Nat
  paths : List Nat
  key : Nat
  bytes : List Byte
  remote : Bool
  since : Nat
deriving DecidableEq, Repr

/-- A deferred operation (10 R233). -/
inductive DefOp where
  | store (bytes : List (Nat × Byte)) (scratch : Bool)
  | erel (tgt pa va : Nat) (v : DWord) (scope : Nat)
  | nbarr (n : Nat) (lanes count : Nat)
  | rput (ring : Nat) (vals : List (Nat × Word))
  | qput (vals : Sparse Word)
  | engine (op : EngOp)
deriving DecidableEq, Repr

/-- An entry of the penumbra buffer (10 R234): its number, who, under which ids, how many 64-byte entries. -/
structure DefEntry where
  id : Nat
  slot : Nat
  path : Nat
  ids : List Nat
  lines : Nat
  op : DefOp
deriving DecidableEq, Repr

/-- What a team did in the last cycle (20 R345, R347): slot, a stall reason or 16 for an issue, the path that decided it, and its
program counter. -/
structure Note where
  slot : Nat
  out : Nat
  path : Nat
  pc : DWord
deriving DecidableEq, Repr

/-- A core (01 R15, R37; 09 R201; 11 R250 to R257; 19 R331; 20 R350; 22 R373). `banks` are the passes of the last memory instruction:
lanes and granules on the core's own slice; `claims` are the vector slots of its banks that passes have claimed, as (bank, cycle)
(08 R170). -/
structure CoreSt where
  l1 : L1
  binds : List Bind
  tlb : List Tlb
  waitTab : Sparse WaitE
  fs : Sparse Fs
  ids : Sparse IdState
  pen : List DefEntry
  tags : Sparse (List Nat)
  ops : List EngOp
  nextOp : Nat
  mqueue : List MStep
  running : Option MStep
  nextStep : Nat
  gated : Bool
  waking : Bool
  wakeLeft : Nat
  runLeft : Nat
  idle : Nat
  engineOut : Bool
  mchkTimes : List Nat
  posted : List Posted
  admits : Nat
  cur0 : Option (Nat × Nat)
  cur1 : Option (Nat × Nat)
  fma0 : Nat
  fma1 : Nat
  memPipe : Nat
  engPort : Nat
  scalPipe : Nat
  banks : List (List Nat × List Nat)
  claims : List (Nat × Nat)
  noSlot : Bool
  notes : List Note
  cycle : Nat
  t3 : Nat
  smpctl : Word
  smplast : List DWord
  smpLeft : Nat
  smpSlot : Nat
  dbgen : DWord
  bp : Sparse DWord
  wp : Sparse DWord
  wpctl : Sparse Word
  preempt : List Nat
  halted : List Nat
  saved : List Nat
  mxidle : Nat
  mxgates : Nat
  spOwner : Sparse Nat
deriving DecidableEq, Repr

/-! ## Cluster, quadrant and die -/

/-- A slot of a ring (08 R188): data by word, published, consumer cores still to come; `full` from the rput on. -/
structure RingSlot where
  full : Bool
  published : Bool
  mask : List Nat
deriving DecidableEq, Repr

/-- A ring (08 R188, 18 R321); not configured when `slots` is 0. `met`: a workgroup of the consumer node has been LIVE without HOLD on
every consumer core, so that the producer's records may be written. -/
structure Ring where
  slots : Nat
  z : Nat
  cmask : List Nat
  cons : Nat
  prod : Nat
  area : Nat
  vi : Nat
  replay : Nat
  slot : Sparse RingSlot
  wp : Nat
  cursor : Sparse Nat
  met : Bool
deriving DecidableEq, Repr

/-- A cluster (06 R130, 18 R324, R325). The allowance is held in sixteenths of a debit; `refillAt` is the time from which the next
cycle of the cluster refills it. -/
structure Cluster where
  ring : Sparse Ring
  icache : List Nat
  icmiss : List Nat
  allow : Int
  refillAt : Nat
  parate : Nat
  pacap : Nat
  parsv1 : Nat
  parsv2 : Nat
  parsv3 : Nat
  slip : Nat
deriving DecidableEq, Repr

/-- A quadrant (22 R373 to R376): the times of the last change of each threshold and the changes that wait. `halfCut` is the end of the
cycle in which a trip during halving falls, which still runs halved (22 R374). -/
structure Quad where
  drpthr : Nat
  drpcnt : Nat
  stretch : Nat
  halving : Nat
  halfCut : Nat
  thstat : Nat
  thcur : Nat
  changed0 : Option Nat
  changed1 : Option Nat
  changed2 : Option Nat
  pending : List Nat
deriving DecidableEq, Repr

/-- A bind record (18 R317). `rsv` is what the reserved fields hold, `since` the time at which it became READY; `replay`, `node`
and the image's code size are firmware's own note of what the record stands for (log 15). -/
structure BindRec where
  state : Nat
  hold : Bool
  resume : Bool
  cls : Nat
  rsvd : Bool
  err : Nat
  groupn : Nat
  group : Nat
  core : Nat
  rsv : Nat
  lreca : Nat
  wg : Nat
  vi : Nat
  lcore : Nat
  grp : List Nat
  save : Nat
  tstart : DWord
  since : Nat
  starve : Bool
  replay : Nat
  node : Nat
  csize : Nat
deriving DecidableEq, Repr

/-- A fault whose record is not yet written (19 R330, R331): the four words, and the wait-table entry to mark. -/
structure FaultRec where
  words : List DWord
deriving DecidableEq, Repr

/-- A stop whose record waits (20 R352, R354): the path and the record's words. -/
structure StopRec where
  core : Nat
  slot : Nat
  path : Nat
  words : List DWord
deriving DecidableEq, Repr

/-- A histogram bin (20 R349); free when `count` is 0. -/
structure Bin where
  vi : Nat
  pc : Nat
  out : Nat
  count : Nat
deriving DecidableEq, Repr

/-- A die (18 R317; 19 R331; 20 R346 to R355; 22 R377, R378, R381). `hq` is the histogram's intake, each record with the cycle of its
arrival; `foldAt` is the cycle after the last fold (20 R349). -/
structure Die where
  slotTab : Sparse BindRec
  faultRing : Sparse (List DWord)
  fqhead : Nat
  fqtail : Nat
  faultQ : List FaultRec
  token : Nat
  shoot : Option (Option Nat × Nat)
  blockRing : Sparse (List DWord)
  brhead : Nat
  brtail : Nat
  stopRing : Sparse (List DWord)
  sthead : Nat
  sttail : Nat
  stopQ : List StopRec
  stopTok : Nat
  traceRing : Sparse (List DWord)
  trhead : Nat
  trtail : Nat
  trctl : Bool
  trdrop : Nat
  seq : Sparse Nat
  hen : Bool
  snap : Bool
  snapAt : Nat
  hdst : Nat
  hdropTag : Nat
  hdropQ : Nat
  bins : Sparse Bin
  hq : List (Nat × List DWord)
  foldAt : Nat
  eccce : Sparse Nat
  eccue : Sparse Nat
  mxrerun : Nat
  mxmchk : Nat
  booted : Bool
  fwver : DWord
  digest : List Byte
  dispatchAt : Nat
deriving DecidableEq, Repr

/-! ## Virtual interfaces -/

/-- A node of a graph (18 R313). -/
structure GNode where
  lrec : Nat
  npred : Nat
  succ : List Nat
deriving DecidableEq, Repr

/-- A launch record (18 R316), read into fields. -/
structure LRec where
  addr : Nat
  code : Nat
  data : Nat
  extent : Nat
  sregs : Nat
  vgran : Nat
  wgt : Nat
  logw : Nat
  shadow : Nat
  ssregs : Nat
  svgran : Nat
  trap : Nat
  tiles : Nat
  accs : Nat
  scr : Nat
  levels : List Level
  timeout : Nat
  start : Nat
  cls : Nat
  mco : Nat
  rsv : Nat
deriving DecidableEq, Repr

/-- A multicast entry (18 R319): first, count, stride, and the changing mark of R320. -/
structure McEntry where
  first : Nat
  count : Nat
  stride : Nat
  changing : Bool
  next : Option (Nat × Nat × Nat)
deriving DecidableEq, Repr

/-- A ring descriptor (18 R321). -/
structure RingDesc where
  z : Nat
  slots : Nat
  ring : Nat
  lcl : Nat
  area : Nat
  cmask : Nat
  cons : Nat
  prod : Nat
  rsv : Nat
deriving DecidableEq, Repr

/-- A graph as firmware read it at registration (18 R312 to R316); `lcores` holds the logical core of each workgroup of a node, which a
relaunch keeps (01 R45). -/
structure Graph where
  valid : Bool
  ok : Bool
  gbase : Nat
  leaving : Bool
  nodes : List GNode
  lrecs : List LRec
  rings : List RingDesc
  mc : Sparse McEntry
  lcores : List ((Nat × Nat) × Nat)
deriving DecidableEq, Repr

/-- A node of an outstanding replay (18 R313): predecessors still to complete, ready, workgroups given a bind record so
far, workgroups retired, complete. -/
structure NodeRun where
  left : Nat
  ready : Bool
  bound : Nat
  retired : Nat
  complete : Bool
deriving DecidableEq, Repr

/-- An outstanding replay (18 R309, R310, R320). -/
structure Replay where
  id : Nat
  gslot : Nat
  kseq : DWord
  ptab : Nat
  started : Bool
  ended : Bool
  nodes : List NodeRun
  mc : Sparse McEntry
deriving DecidableEq, Repr

/-- An ownership flip in progress (19 R334, 21 R360): page base, direction, its flip-queue record, the frame of HBM4 and the host
address of the page's bytes, and when it began. -/
structure Flip where
  page : Nat
  toHost : Bool
  qrec : Nat
  frame : Nat
  src : Nat
  since : Nat
deriving DecidableEq, Repr

/-- A virtual interface (18 R306, 21 R358). `rivals`: another sharing interface has had a READY record on its clusters since the
time slice began (21 R368). -/
structure Vi where
  graphs : Sparse Graph
  kseq : DWord
  dseq : DWord
  err : DWord
  minclass : Nat
  victl : DWord
  ptroot : DWord
  errbase : DWord
  errhead : Nat
  errtail : Nat
  flipbase : DWord
  fabgrp : Nat
  pool : Sparse DWord
  poolDown : List Nat
  replays : List Replay
  nextReplay : Nat
  flips : List Flip
  nextFlip : Nat
  sliceAt : Nat
  rivals : Bool
  lcl : Sparse Nat
  comm : Sparse (List (Nat × Nat))
deriving DecidableEq, Repr

/-- A launch that firmware has to end (11 R240, 19 R339): the launch end record of R340 without its KSEQ. -/
structure EndReq where
  vi : Nat
  replay : Nat
  node : Nat
  words : List DWord
deriving DecidableEq, Repr

/-- A saved context (19 R342): where it was saved, whether that is another device of the pod (19 R344), the workgroup, its teams by
slot, the offset of its scratchpad copy in the image, the regions it held and its forecast slots. -/
structure Saved where
  addr : Nat
  peer : Bool
  vi : Nat
  wg : Wg
  teams : List (Nat × Team)
  spo : Nat
  binds : List Bind
  fs : List (Nat × Fs)
deriving DecidableEq, Repr

/-! ## What occurs next -/

/-- One occurrence: a row of the opcode table that is an event, an issue by a path, or a choice the spec leaves to the
hardware or to firmware (log 4). -/
inductive Occ where
  | row (i : Instr)
  | issue (p : PathRef)
  | evict (core line : Nat)
  | tlbDrop (core : Nat) (page : Nat)
  | zfClear (core w tile : Nat)
  | element (core op n : Nat) (half : Option Nat)
  | evictWord (core key : Nat)
  | bind (die idx : Nat) (r : BindRec)
  | placePrivate (core slot : Nat) (base : Nat)
  | growPrivate (core slot : Nat) (mark : Nat)
  | reserve (die idx : Nat) (hold : Bool)
  | freeRecord (die idx : Nat)
  | peerGroup (device group : Nat)
  | bootMeasure (n : Nat) (block : List Byte)
  | peerImage (v : Saved)
  | portState (port : Nat) (down : Bool)
deriving DecidableEq, Repr

/-! ## The machine -/

/-- The whole device.  Team key: core × 64 + slot.  Workgroup key: core × 16 + context.  Memory key: target × 2^52 +
physical address for the targets 0 HBM4, 1 host, 2 pool, 3 peer (19 R327), and 4 × 2^52 + core × 4 MiB + offset for a
scratchpad slice (08 R170).  `peerGroup` is `FABGRP` of the peers, by device
(21 R362), `portDown` when a port went down, plus one (21 R363), `measSteps` how often each measurement register has been extended at
boot (22 R381).  `agenda`, `cyc` (the core whose issue cycle is open), `cur` and `fresh` are the model's own (log 3, log 4, log 7). -/
structure State where
  teams : Sparse Team
  wgs : Sparse Wg
  cores : Sparse CoreSt
  clusters : Sparse Cluster
  quads : Sparse Quad
  dies : Sparse Die
  vis : Sparse Vi
  mem : List Host.Cell
  memPoison : List Nat
  time3 : Nat
  pwrlim : Nat
  tlim0 : Nat
  tlim1 : Nat
  tlim2 : Nat
  meas : Sparse Byte
  measNext : Nat
  measSteps : Sparse Nat
  attnonce : List DWord
  attdst : DWord
  attgo : Bool
  dumpHeld : Bool
  powered : Bool
  links : List Nat
  ports : List Nat
  portDown : Sparse Nat
  route : Sparse Nat
  lost : List Nat
  peerGroup : Sparse Nat
  ptp : Bool
  irqs : List (Nat × Nat)
  ends : List EndReq
  saves : List Saved
  agenda : List Occ
  cyc : Option Nat
  cur : PathRef
  fresh : Nat
deriving DecidableEq, Repr

/-! ## Empty records and reset values -/

/-- A path that does not exist: empty mask (01 R18). -/
def Path.empty : Path :=
  ⟨0, [], [], true, 0, .none, none, 0, 0, 0, 0, 0, 0, false, none, false, 0, [], [], none, 0, 0, 0, false, [], 0, false, none, none⟩

def La.empty : La := ⟨false, 0, 0, 0, 0, 0, 0⟩
def Fibre.empty : Fibre := ⟨0, 0, 0, [], []⟩
def Xt.empty : Xt := ⟨false, 0, 0, 0, 0, false, 0, 0⟩

/-- The `%fmode` value of a starting team (06 R138). -/
def fmodeReset : Word := 0x8000#32

/-- A free team slot; a starting team has these values too, but for what dispatch sets (02 R57). -/
def Team.empty : Team :=
  { life := .free, w := 0, index := 0, shadow := false, partner := none, width := 32, admitNo := 0, vcount := 0,
    scount := 0, member := [], paths := [], vregs := [], vpoison := [], preds := [], ff := [], rst := [], sregs := [],
    spoison := [], gregs := [], la := [], fb := [], xt := [], tf := 0, fmode := fmodeReset, amax := 0, sthr := 0,
    sdrop := 0, scnt := 0, inst := 0, entries := 0, stall := [], issued := 0, passes := 0, recent := [], window := [], privBase := 0,
    privMark := 0x10000, ownIds := [], inhIds := [], squashed := false, flushing := false, batches := [],
    nextBatch := 0, ended := false }

/-- A tile at allocation (09 R195, R196, R200). -/
def Tile.empty : Tile := ⟨[], [], [], 0, 0, 0, 0, false, [], false, []⟩
def OpStatus.empty : OpStatus := ⟨false, 0, 0⟩
def Timeline.empty : Timeline := ⟨0, [], []⟩
def Barrier.empty : Barrier := ⟨0, 0, none⟩
def TreeBar.empty : TreeBar := ⟨0, []⟩

/-- An unused workgroup context. -/
def Wg.empty : Wg :=
  { used := false, vi := 0, replay := 0, node := 0, lreca := 0, wg := 0, lcore := 0, grp := [], spOff := 0, spGran := 0,
    cls := 0, code := 0, codeSize := 0, trapEntry := 0xFFFFFFFF, shadowEntry := 0, data := 0, timeout := 0, start := 0,
    levels := [], tileN := 0, accN := 0, tiles := [], accs := [], accPoison := [], unseen := [], tl := [], nb := [], tree := [],
    slotIdx := 0, held := false, tstart := 0, preempted := false, ending := false }

def WaitE.empty : WaitE := ⟨false, 0, 0, 0, [], false, [], []⟩
def Fs.empty : Fs := ⟨false, 0, 0, 0, 0, 0, 0, 0, 0, 0, 0, 0, false, false, 0, false⟩

/-- A core after reset: nothing resident, the matrix engine gated (11 R257), the registers of 19 R331, 20 R350 and
22 R373 at their reset values. -/
def CoreSt.empty : CoreSt :=
  { l1 := ⟨[], [], [], [], []⟩, binds := [], tlb := [], waitTab := [], fs := [], ids := [], pen := [], tags := [],
    ops := [], nextOp := 1, mqueue := [], running := none, nextStep := 1, gated := true,
    waking := false, wakeLeft := 0, runLeft := 0, idle := 0, engineOut := false, mchkTimes := [], posted := [],
    admits := 0, cur0 := none, cur1 := none, fma0 := 0, fma1 := 0, memPipe := 0, engPort := 0, scalPipe := 0, banks := [], claims := [],
    noSlot := false, notes := [], cycle := 0, t3 := 0, smpctl := 0x1000#32, smplast := [0, 0, 0, 0], smpLeft := 0,
    smpSlot := 63, dbgen := 0, bp := [], wp := [], wpctl := [], preempt := [], halted := [], saved := [],
    mxidle := 0x400, mxgates := 0, spOwner := [] }

def RingSlot.empty : RingSlot := ⟨false, false, []⟩
def Ring.empty : Ring := ⟨0, 0, [], 0, 0, 0, 0, 0, [], 0, [], false⟩

/-- A cluster after reset (18 R324, R325): A stands at CAP. -/
def Cluster.empty : Cluster := ⟨[], [], [], 0x4000 * 16, 0, 0x400, 0x4000, 0, 0, 0, 0⟩

/-- A quadrant after reset (22 R373, R375). -/
def Quad.empty : Quad := ⟨0x28, 0, 0, 0, 0, 0, 0, none, none, none, []⟩

def BindRec.empty : BindRec :=
  { state := 0, hold := false, resume := false, cls := 0, rsvd := false, err := 0, groupn := 0, group := 0, core := 0,
    rsv := 0, lreca := 0, wg := 0, vi := 0, lcore := 0, grp := [], save := 0, tstart := 0, since := 0, starve := false,
    replay := 0, node := 0, csize := 0 }

def Bin.empty : Bin := ⟨0, 0, 0, 0⟩

/-- A die after reset (19 R331, 20 R350, 22 R377, R378, R381). -/
def Die.empty : Die :=
  { slotTab := [], faultRing := [], fqhead := 0, fqtail := 0, faultQ := [], token := 0, shoot := none, blockRing := [],
    brhead := 0, brtail := 0, stopRing := [], sthead := 0, sttail := 0, stopQ := [], stopTok := 0, traceRing := [],
    trhead := 0, trtail := 0, trctl := false, trdrop := 0, seq := [], hen := false, snap := false, snapAt := 0, hdst := 0,
    hdropTag := 0, hdropQ := 0, bins := [], hq := [], foldAt := 0, eccce := [], eccue := [], mxrerun := 0, mxmchk := 0,
    booted := false, fwver := 0, digest := [], dispatchAt := 0 }

def McEntry.empty : McEntry := ⟨0, 0, 0, false, none⟩
def Graph.empty : Graph := ⟨false, false, 0, false, [], [], [], [], []⟩

/-- An interface after reset (18 R306, 21 R358). -/
def Vi.empty : Vi :=
  { graphs := [], kseq := 0, dseq := 0, err := 0, minclass := 0, victl := 0, ptroot := 0, errbase := 0, errhead := 0,
    errtail := 0, flipbase := 0, fabgrp := 0, pool := [], poolDown := [], replays := [], nextReplay := 1, flips := [], nextFlip := 0,
    sliceAt := 0, rivals := false, lcl := [], comm := [] }

/-- The device right after reset: no team, no workgroup, every register at its reset value (INVENTORY.md; log 2 names the
values the spec does not give), memory listing nothing (log 1). -/
def State.reset : State :=
  { teams := [], wgs := [], cores := [], clusters := [], quads := [], dies := [], vis := [], mem := [], memPoison := [],
    time3 := 0, pwrlim := 2700, tlim0 := 95 * 8, tlim1 := 102 * 8, tlim2 := 110 * 8, meas := [], measNext := 0, measSteps := [],
    attnonce := [0, 0, 0, 0], attdst := 0, attgo := false, dumpHeld := false, powered := true,
    links := [], ports := [], portDown := [], route := [], lost := [], peerGroup := [],
    ptp := false, irqs := [], ends := [], saves := [], agenda := [], cyc := none, cur := ⟨0, 0, 0⟩, fresh := 0 }

/-! ## Stops -/

/-- Why the machine stops with a fault. -/
inductive Fault where
  /-- Raised by the meaning of an instruction when the state's `cur` names no live path: no path issues, so there is
  nothing to execute.  `step` never raises it.  Safe: the device never issues without a path. -/
  | noIssuingPath
deriving DecidableEq, Repr

/-- Why a step has no meaning. -/
inductive Refusal where
  /-- An instruction that has no meaning yet, by its mnemonic; raised by `exec`.  Safe: the machine stops. -/
  | notModelled (mnemonic : String)
deriving DecidableEq, Repr

end Sys2Proof.Machine
end

