-- ==== Sys2Proof/Machine/Ops.lean ====
section
/-!
DEFINITION. The named operations over the state: reading and writing the records of teams, paths, workgroups, cores and
the rest; what it is to complete, wait, and take a trap (11 R239 to R242); the speculation state of a team.
-/

namespace Sys2Proof.Machine

open Sys2Proof

/-- The outcome of a step of this machine. -/
abbrev Res := Host.Outcome State Fault Refusal

/-! ## Records by their place -/

/-- A slot from 64 on is none of a core's, and a context from 16 on neither: their keys lie beyond those of every core (00 R2, log
35). -/
def teamKey (core slot : Nat) : Nat := core * 64 + slot + slot / 64 * 2 ^ 64
def wgKey (core w : Nat) : Nat := core * 16 + w + w / 16 * 2 ^ 64

def State.team (s : State) (core slot : Nat) : Team := sget Team.empty s.teams (teamKey core slot)
def State.setTeam (s : State) (core slot : Nat) (t : Team) : State :=
  { s with teams := sput Team.empty s.teams (teamKey core slot) t }
def State.modTeam (s : State) (core slot : Nat) (f : Team → Team) : State := s.setTeam core slot (f (s.team core slot))

def State.wg (s : State) (core w : Nat) : Wg := sget Wg.empty s.wgs (wgKey core w)
def State.setWg (s : State) (core w : Nat) (g : Wg) : State := { s with wgs := sput Wg.empty s.wgs (wgKey core w) g }
def State.modWg (s : State) (core w : Nat) (f : Wg → Wg) : State := s.setWg core w (f (s.wg core w))

def State.core (s : State) (c : Nat) : CoreSt := sget CoreSt.empty s.cores c
def State.setCore (s : State) (c : Nat) (x : CoreSt) : State := { s with cores := sput CoreSt.empty s.cores c x }
def State.modCore (s : State) (c : Nat) (f : CoreSt → CoreSt) : State := s.setCore c (f (s.core c))

def State.cluster (s : State) (c : Nat) : Cluster := sget Cluster.empty s.clusters c
def State.setCluster (s : State) (c : Nat) (x : Cluster) : State :=
  { s with clusters := sput Cluster.empty s.clusters c x }
def State.modCluster (s : State) (c : Nat) (f : Cluster → Cluster) : State := s.setCluster c (f (s.cluster c))

def State.quad (s : State) (q : Nat) : Quad := sget Quad.empty s.quads q
def State.setQuad (s : State) (q : Nat) (x : Quad) : State := { s with quads := sput Quad.empty s.quads q x }
def State.modQuad (s : State) (q : Nat) (f : Quad → Quad) : State := s.setQuad q (f (s.quad q))

def State.die (s : State) (d : Nat) : Die := sget Die.empty s.dies d
def State.setDie (s : State) (d : Nat) (x : Die) : State := { s with dies := sput Die.empty s.dies d x }
def State.modDie (s : State) (d : Nat) (f : Die → Die) : State := s.setDie d (f (s.die d))

def State.vi (s : State) (v : Nat) : Vi := sget Vi.empty s.vis v
def State.setVi (s : State) (v : Nat) (x : Vi) : State := { s with vis := sput Vi.empty s.vis v x }
def State.modVi (s : State) (v : Nat) (f : Vi → Vi) : State := s.setVi v (f (s.vi v))

def Team.path (t : Team) (p : Nat) : Path := sget Path.empty t.paths p
def Team.setPath (t : Team) (p : Nat) (x : Path) : Team := { t with paths := sput Path.empty t.paths p x }
def Team.modPath (t : Team) (p : Nat) (f : Path → Path) : Team := t.setPath p (f (t.path p))

def State.path (s : State) (r : PathRef) : Path := (s.team r.core r.slot).path r.path
def State.modPath (s : State) (r : PathRef) (f : Path → Path) : State :=
  s.modTeam r.core r.slot fun t => t.modPath r.path f

/-- Dies hold 96 cores; clusters 4; quadrants 24 (00 R1, 22 R371). -/
def dieOf (core : Nat) : Nat := core / 96
def clusterOf (core : Nat) : Nat := core / 4
def quadOf (core : Nat) : Nat := core / 24

/-- The management core of a die runs: its firmware image has been verified (22 R381).  It alone writes the registers of its die; that of
die 0 also acts for the device (18 R305, log 30). -/
def State.fwRuns (s : State) (die : Nat) : Bool := decide (die < 4) && (s.die die).booted

/-- The time base in 1 ns ticks (11 R246). -/
def State.ticks (s : State) : DWord := BitVec.ofNat 64 (s.time3 / 3)

/-- A live path has lanes (01 R18). -/
def Path.live (p : Path) : Bool := p.mask != []

/-- The indices of the live paths of a team, ascending. -/
def Team.livePaths (t : Team) : List Nat := (t.paths.filter fun x => x.2.mask != []).map (·.1)

/-- The team slots of a core that hold a team, ascending. -/
def State.slotsOf (s : State) (core : Nat) : List Nat :=
  (s.teams.filter fun x => x.1 / 64 == core && x.2.life != .free).map (·.1 % 64)

/-- The team slots of a workgroup context. -/
def State.slotsOfWg (s : State) (core w : Nat) : List Nat := (s.slotsOf core).filter fun k => (s.team core k).w == w

/-! ## The issuing path -/

/-- The path that issues, with its team and workgroup as they stand. -/
structure Here where
  r : PathRef
  t : Team
  p : Path
  g : Wg
deriving DecidableEq, Repr

def State.hereAt (s : State) (r : PathRef) : Here :=
  let t := s.team r.core r.slot
  ⟨r, t, t.path r.path, s.wg r.core t.w⟩

/-- Run a meaning on the issuing path; without one there is nothing to execute. -/
def onPath (s : State) (f : Here → Res) : Res :=
  let h := s.hereAt s.cur
  if h.p.mask = [] then .fault .noIssuingPath else f h

/-- The image offset of an address (06 R124). -/
def Here.offset (h : Here) (a : DWord) : Word := BitVec.ofNat 32 ((a - BitVec.ofNat 64 h.g.code).toNat)

/-- The least of a list, or 0. -/
def leastOf : List Nat → Nat
  | [] => 0
  | a :: l => l.foldl min a

/-! ## Completing and waiting -/

def sat32 (n : Nat) : Nat := min n 0xFFFFFFFF

/-- Count an issue and its passes (11 R248). The counters saturate where they are read. -/
def State.count (s : State) (r : PathRef) (passes : Nat) : State :=
  s.modTeam r.core r.slot fun t => { t with issued := t.issued + 1, passes := t.passes + passes }

/-- Go on at `pc`: no waiting status is left, and the lookahead window has one instruction fewer (04 R91). -/
def State.goto (s : State) (r : PathRef) (pc : DWord) : State :=
  s.modPath r fun p => { p with pc := pc, wait := .none, window := p.window - 1, skipCmp := false, waited := 0,
                                yielded := 0, readyFor := 0, lostFor := 0, forced := false, spres := none, code := none,
                                pendTrap := p.pendTrap.map fun ti => { ti with win := ti.win + 1 } }

/-- Complete an instruction of `len` bytes: count it and go on at the next one (04 R84). -/
def State.finish (s : State) (r : PathRef) (len passes : Nat) : State :=
  (s.count r passes).goto r ((s.path r).pc + BitVec.ofNat 64 len)

/-- The next attempt issues the instruction at which a path stands: in its first attempt, one that is tried again, and one that has been
held (10 R233). -/
def Wait.tries : Wait → Bool
  | .none | .retry _ | .heldDone _ => true
  | _ => false

/-- Complete an instruction that may have waited: it was counted when it began to wait. -/
def State.complete (s : State) (r : PathRef) (old : Wait) (len passes : Nat) : State :=
  if old.tries then s.finish r len passes else s.goto r ((s.path r).pc + BitVec.ofNat 64 len)

/-- An instruction that has issued waits in itself: it is counted as the wait begins (11 R248). -/
def State.begins (s : State) (r : PathRef) (old : Wait) (passes : Nat) (w : Wait) : State :=
  (if old.tries then s.count r passes else s).modPath r fun p => { p with wait := w, window := 0 }

/-- Wait at the instruction under a stall reason for something that closes no lookahead window: neither the scoreboard nor a named
synchronisation (04 R91); a full penumbra buffer or step queue is neither (01 R43). -/
def State.stallFor (s : State) (r : PathRef) (reason : Nat) : State := s.modPath r fun p => { p with wait := .retry reason }

/-- Wait at the instruction under a stall reason (01 R43, 11 R253): a lookahead window closes (04 R91), unless an instruction line, a
fault record or a binding-table entry is what is missing; nothing else changes. -/
def State.waitFor (s : State) (r : PathRef) (reason : Nat) : State :=
  s.modPath r fun p =>
    { p with wait := .retry reason, window := if reason = 9 ∨ reason = 12 ∨ reason = 15 then p.window else 0 }

/-- An instruction in its first attempt, or one that is tried again. -/
def Wait.fresh : Wait → Bool
  | .none | .retry _ => true
  | _ => false

/-! ## Traps (11 R239 to R242) -/

/-- Trap causes (11 R239). -/
def tcIllegalOpcode : Nat := 0x01
def tcIllegalEncoding : Nat := 0x02
def tcIllegalPair : Nat := 0x03
def tcIllegalConvergence : Nat := 0x04
def tcPrivilege : Nat := 0x05
def tcAccumBusy : Nat := 0x06
def tcTileShape : Nat := 0x07
def tcLayoutMisalign : Nat := 0x08
def tcScratchBound : Nat := 0x09
def tcMemFatal : Nat := 0x0A
def tcRingNocons : Nat := 0x0B
def tcSpecIllegal : Nat := 0x0C
def tcLaState : Nat := 0x0D
def tcPoison : Nat := 0x0E
def tcBarrierTimeout : Nat := 0x0F
def tcUserTrap : Nat := 0x10
def tcBreak : Nat := 0x11
def tcWatch : Nat := 0x12
def tcAlign : Nat := 0x13

/-- Words of 32 bits joined two by two into 64-bit words, lower half first. -/
def word2 (lo hi : Nat) : DWord := BitVec.ofNat 64 (lo % 2 ^ 32 + hi % 2 ^ 32 * 2 ^ 32)

/-- The stop record of 20 R354, the mask words after it.  INFO is the operand of `brk`, else the matching address. -/
def stopWords (s : State) (h : Here) (kind num tok : Nat) (ti : TrapInfo) : List DWord :=
  [s.ticks,
   BitVec.ofNat 64 (tok * 2 ^ 48 + h.g.vi * 2 ^ 42 + h.r.core % 96 * 2 ^ 35 + h.r.slot * 2 ^ 29 + h.r.path * 2 ^ 19 + kind * 2 ^ 16 +
     num * 2 ^ 8),
   word2 (h.offset ti.pc).toNat h.g.lcore, word2 h.g.wg h.t.index, if kind = 1 then ti.pc else ti.info, word2 (maskSummary h.p.mask) 0, 0, 0] ++
  (List.range 16).map fun i => word2 (maskWord h.p.mask (2 * i)) (maskWord h.p.mask (2 * i + 1))

/-- Post a trace event of a source (20 R355): written when tracing is on and the ring has room, else counted as dropped. -/
def State.tracePost (s : State) (core slot path vi kind value pc : Nat) : State :=
  let d := s.die (dieOf core)
  let src := dieOf core * 2 ^ 14 + core % 96 * 2 ^ 7 + slot * 2
  if d.trctl ∧ (d.trtail + 1) % 65536 ≠ d.trhead then
    let q := sget 0 d.seq src
    let ws := [s.ticks, BitVec.ofNat 64 (src * 2 ^ 48 + q * 2 ^ 32 + kind * 2 ^ 28 + vi * 2 ^ 22 + path * 2 ^ 12),
      word2 pc value, 0]
    s.setDie (dieOf core) { d with
      traceRing := sput [] d.traceRing d.trtail ws, trtail := (d.trtail + 1) % 65536,
      seq := sput 0 d.seq src ((q + 1) % 65536) }
  else s.setDie (dieOf core) { d with trdrop := sat32 (d.trdrop + 1) }

/-- Eclipse the path (20 R352): nothing else of the team changes.  The stop takes the die's next token, skipping 0, its trace event is
posted (20 R355), and its record waits to be written. -/
def State.eclipsePath (s : State) (h : Here) (kind num : Nat) (ti : TrapInfo) : State :=
  let d := s.die (dieOf h.r.core)
  let tok := if d.stopTok + 1 < 2 ^ 16 then d.stopTok + 1 else 1
  let e : Eclipse := ⟨tok, kind == 0, if kind = 0 then ti.resume else ti.pc⟩
  ((s.modPath h.r fun p => { p with eclipse := some e, wait := .none }).setDie (dieOf h.r.core) { d with
    stopTok := tok, stopQ := d.stopQ ++ [⟨h.r.core, h.r.slot, h.r.path, stopWords s h kind num tok ti⟩] }).tracePost
      h.r.core h.r.slot h.r.path h.g.vi 1 tok (h.offset ti.pc).toNat


/-- The launch end record of 19 R340 for a trap, with GSLOT and KSEQ left to the end of the launch. -/
def endWords (s : State) (h : Here) (kind cause2 : Nat) (ti : TrapInfo) : List DWord :=
  [word2 (ti.cause + cause2 * 2 ^ 8 + kind * 2 ^ 16) h.g.node, 0, word2 (h.offset ti.pc).toNat ti.lane, ti.info,
   word2 h.g.wg (h.r.path + h.r.slot * 2 ^ 10 + h.g.lcore * 2 ^ 16), s.ticks, 0, 0]

/-- Taking a trap (11 R240, R241).  A BREAK or WATCH of an interface that is being debugged eclipses the path.  A trap in a
handler, or one without a handler, ends the launch: the path stays parked, its record as it was, and firmware is asked.
Otherwise the record is written, INH is set, and the path continues at the trap entry with its index, mask, token stack
and registers, from the cycle after its delivery, which takes one under reason 12 (log 48). -/
def State.takeTrap (s : State) (r : PathRef) (kind num : Nat) (ti : TrapInfo) : State :=
  let h := s.hereAt r
  if (ti.cause = tcBreak ∨ ti.cause = tcWatch) ∧ (s.core r.core).dbgen.getLsbD h.g.vi then
    s.eclipsePath h kind num ti
  else if h.p.inh || h.g.trapEntry == 0xFFFFFFFF then
    let k := if h.p.inh then 1 else 0
    let s1 := s.modPath r fun p => { p with wait := .trap, pendTrap := none }
    { s1 with ends := s1.ends ++ [⟨h.g.vi, h.g.replay, h.g.node, endWords s h k (if h.p.inh then h.p.tcause else 0) ti⟩] }
  else
    s.modPath r fun p =>
      { p with tcause := ti.cause, twin := ti.win, tpc := h.offset ti.pc, tresume := h.offset ti.resume,
               tinfo := ti.info, tlane := BitVec.ofNat 32 ti.lane, inh := true,
               pc := BitVec.ofNat 64 (h.g.code + h.g.trapEntry), wait := .pause 12, pendTrap := none, window := 0,
               skipCmp := false, waited := 0, spres := none, code := none }

/-- Deliver the trap that waits in a window: WIN counts the instructions issued since, and TRESUME is the first that did
not issue (11 R242). The trapping instruction's destination is no longer pending. -/
def State.deliverPending (s : State) (r : PathRef) : State :=
  let p := s.path r
  match p.pendTrap with
  | none => s
  | some ti =>
    (s.modPath r fun p => { p with pend := p.pend.filter fun d => d.vals != [] }).takeTrap r 0 0 { ti with resume := p.pc }

/-- The trap of the instruction at the path's program counter, of `len` bytes, detected at decode or issue, or at an
access without a lookahead window (11 R242): TRESUME is the next instruction.  A trap that waits from an earlier
instruction is delivered instead, and this instruction did not issue. -/
def State.trapHere (s : State) (r : PathRef) (len cause : Nat) (info : Nat) (lane : Nat) : State :=
  let p := s.path r
  if p.pendTrap.isSome then s.deliverPending r
  else s.takeTrap r 0 0 ⟨cause, BitVec.ofNat 64 info, lane, p.pc, p.pc + BitVec.ofNat 64 len, 0⟩

/-- A precise trap detected at issue: nothing else happens and nothing is counted (11 R240). -/
def trapIssue (s : State) (h : Here) (len cause info lane : Nat) : Res :=
  .next (s.trapHere h.r len cause info lane)

/-- The window after an instruction with a lookahead count that writes these vector registers: inside a window the smaller of the two
(04 R91), and both destinations are waited for when it closes (11 R255). -/
def Path.openWindow (p : Path) (old ahead : Nat) (regs : List Nat) : Path :=
  { p with window := if old = 0 then ahead else min p.window ahead, away := true, ahead := regs ++ p.ahead }

/-- A trap detected at access: the instruction has issued and counts (11 R240).  With a lookahead count the path may go on
in its window: the trap waits in `pendTrap` and TRAP_DELIVERY or the end of the window delivers it (11 R242). -/
def trapAccess (s : State) (h : Here) (len passes ahead cause info lane : Nat) (hold : List Pend) : Res :=
  if h.p.pendTrap.isSome then .next (s.deliverPending h.r)
  else
    let s1 := s.count h.r passes
    if ahead = 0 then .next (s1.trapHere h.r len cause info lane)
    else
      let pc := h.p.pc
      .next ((s1.goto h.r (pc + BitVec.ofNat 64 len)).modPath h.r fun p =>
        { p.openWindow h.p.window ahead (hold.map fun d => if d.wide then [d.dst, d.dst + 1] else [d.dst]).flatten with
          pend := p.pend ++ hold,
          pendTrap := some ⟨cause, BitVec.ofNat 64 info, lane, pc, pc + BitVec.ofNat 64 len, 0⟩ })

/-- The return from a trap (11 R245) once its checks hold: INH is cleared, the path continues at image offset t. -/
def State.trapReturn (s : State) (r : PathRef) (g : Wg) (t : Word) : State :=
  (s.modPath r fun p => { p with inh := false }).goto r (BitVec.ofNat 64 (g.code + t.toNat))

/-! ## Free values (log 7) -/

/-- A value the spec leaves open: nothing constrains it. -/
def State.takeFree (s : State) : Word × State := (Config.freeWord s.fresh, { s with fresh := s.fresh + 1 })

/-- Bytes that the spec leaves open. -/
def State.freeBytes (s : State) (n : Nat) : List Byte × State :=
  ((List.range n).map fun i => Config.freeByte (s.fresh + i), { s with fresh := s.fresh + n })

/-! ## Speculation (10 R232) -/

/-- The ids a team holds. -/
def Team.ids (t : Team) : List Nat := t.ownIds ++ t.inhIds

/-- A team is in penumbra state while it holds an id, and until its deferred operations are performed (10 R232, R235). -/
def Team.pen (t : Team) : Bool := !t.ids.isEmpty || t.flushing

/-- A commit is in progress on the core (10 R234). -/
def State.committing (s : State) (core : Nat) : Bool := (s.slotsOf core).any fun k => (s.team core k).flushing

def CoreSt.idState (c : CoreSt) (x : Nat) : IdState := sget .free c.ids x

/-- The unresolved ids of a core among a list. -/
def CoreSt.unresolved (c : CoreSt) (l : List Nat) : List Nat := l.filter fun x => c.idState x == .unresolved

/-- A team holds an unresolved speculation id (01 R41). -/
def State.holdsUnresolved (s : State) (core slot : Nat) : Bool :=
  !((s.core core).unresolved (s.team core slot).ids).isEmpty

/-! ## The class and the launch of a team -/

def Here.cls (h : Here) : Nat := h.g.cls

/-- Two workgroups belong to one launch. -/
def Wg.sameLaunch (a b : Wg) : Bool := a.used && b.used && a.vi == b.vi && a.replay == b.replay && a.node == b.node

end Sys2Proof.Machine
end

