-- ==== Sys2Proof/Machine/Operands.lean ====
section
/-!
DEFINITION. Operand forms: guards (04 R86), registers of each kind (04 R87), literals (04 R92), registers read and written by
lane, and poison (19 R337, 07 R145).
-/

namespace Sys2Proof.Machine

open Sys2Proof

/-! ## Registers -/

/-- Predicate pN in a lane; p7 reads true (04 R86). -/
def Team.pred (t : Team) (n lane : Nat) : Bool := n == 7 || sget false t.preds (n * 1024 + lane)

/-- Write pN in a lane; a write to p7 has no effect (04 R87). -/
def Team.setPred (t : Team) (n lane : Nat) (b : Bool) : Team :=
  if n = 7 then t else { t with preds := sput false t.preds (n * 1024 + lane) b }

def Team.vget (t : Team) (r lane : Nat) : Word := sget 0 t.vregs (r * 1024 + lane)

/-- Write vN in a lane; a write of the whole element clears its poison (19 R337). -/
def Team.vput (t : Team) (r lane : Nat) (v : Word) : Team :=
  { t with vregs := sput 0 t.vregs (r * 1024 + lane) v, vpoison := sput false t.vpoison (r * 1024 + lane) false }

def Team.sgetr (t : Team) (r : Nat) : Word := sget 0 t.sregs r

def Team.sputr (t : Team) (r : Nat) (v : Word) : Team :=
  { t with sregs := sput 0 t.sregs r v, spoison := sput false t.spoison r false }

/-- Pair dN is s2N (low) and s2N+1 (high) (02 R57). -/
def Team.dget (t : Team) (n : Nat) : DWord := (t.sgetr (2 * n + 1)) ++ (t.sgetr (2 * n))

def Team.dput (t : Team) (n : Nat) (v : DWord) : Team :=
  (t.sputr (2 * n) (v.extractLsb' 0 32)).sputr (2 * n + 1) (v.extractLsb' 32 32)

def Team.gget (t : Team) (n : Nat) : Bool := sget false t.gregs n
def Team.gput (t : Team) (n : Nat) (b : Bool) : Team := { t with gregs := sput false t.gregs n b }

/-- A 64-bit element is a pair of vector registers, low half first (08 R173). -/
def Team.vget64 (t : Team) (r lane : Nat) : DWord := (t.vget (r + 1) lane) ++ (t.vget r lane)

def Team.vput64 (t : Team) (r lane : Nat) (v : DWord) : Team :=
  (t.vput r lane (v.extractLsb' 0 32)).vput (r + 1) lane (v.extractLsb' 32 32)

/-! ## Guards and literals -/

/-- The lanes that execute (04 R86): active lanes whose guard holds. -/
def Here.execLanes (h : Here) (g : Guard) : Mask :=
  h.p.mask.filter fun lane => g.sel == 7 || (h.t.pred g.sel lane != g.neg)

/-- The length of an S or W-literal instruction (04 R83). -/
def argsLen (x : Args) : Nat := if x.lit.isSome then 16 else 8

/-- The literal when it replaces source `k`. -/
def litFor (x : Args) (k : LSel) : Option Word :=
  match x.lit with
  | some l => if l.sel = k then some l.val else none
  | none => none

/-- A vector source in a lane, or the literal (04 R92). -/
def Here.vsrc (h : Here) (x : Args) (k : LSel) (r lane : Nat) : Word := (litFor x k).getD (h.t.vget r lane)

/-- A scalar source, or the literal. -/
def Here.ssrc (h : Here) (x : Args) (k : LSel) (r : Nat) : Word := (litFor x k).getD (h.t.sgetr r)

/-- A pair source, or the literal extended by sign or by zero (04 R92). -/
def Here.dsrc (h : Here) (x : Args) (k : LSel) (r : Nat) (signed : Bool) : DWord :=
  match litFor x k with
  | some v => if signed then v.signExtend 64 else v.setWidth 64
  | none => h.t.dget r

/-- The memory displacement (04 R92): the literal in C, or 0. -/
def dispOf (x : Args) : DWord := ((litFor x .c).getD 0).signExtend 64

/-! ## Poison (07 R145, 19 R337) -/

/-- The vector registers of a list of sources that the literal does not replace. -/
def readRegs (x : Args) (l : List (LSel × Nat)) : List Nat :=
  l.filterMap fun q => if (litFor x q.1).isSome then none else some q.2

/-- The executing lanes in which one of the vector registers is poisoned. -/
def Team.poisonLanes (t : Team) (e : Mask) (regs : List Nat) : Mask :=
  e.filter fun lane => regs.any fun r => sget false t.vpoison (r * 1024 + lane)

/-- One of the scalar registers is poisoned. -/
def Team.spoisoned (t : Team) (regs : List Nat) : Bool := regs.any fun r => sget false t.spoison r

/-- Go on when no executing lane reads a poisoned vector element and no poisoned scalar is read; otherwise trap POISON, with INFO
the lowest lane that reads poison, and no effect.  DESIGN CHOICE (log 40): R145 speaks of lanes; a poisoned scalar source traps also
where no lane executes, with INFO the lowest active lane.  DESIGN CHOICE (log 49): POISON of a vector or scalar source is detected
at issue, so the instruction counts nowhere (11 R240, R242). -/
def needClean (s : State) (h : Here) (len : Nat) (e : Mask) (vs ss : List Nat) (k : Res) : Res :=
  let bad := h.t.poisonLanes e vs
  if bad != [] then trapIssue s h len tcPoison (leastOf bad) (leastOf bad)
  else if h.t.spoisoned ss then
    let lane := leastOf (if e = [] then h.p.mask else e)
    trapIssue s h len tcPoison lane lane
  else k

/-- The two scalar registers of a pair. -/
def pairRegs (n : Nat) : List Nat := [2 * n, 2 * n + 1]

/-- The registers of a scalar group. -/
def groupRegs (n k : Nat) : List Nat := (List.range k).map (n + ·)

/-! ## Writing lanes -/

/-- Write a vector register in a list of lanes. -/
def Team.vputs (t : Team) (r : Nat) (l : List (Nat × Word)) : Team := l.foldl (fun t q => t.vput r q.1 q.2) t

def Team.setPreds (t : Team) (n : Nat) (l : List (Nat × Bool)) : Team := l.foldl (fun t q => t.setPred n q.1 q.2) t

/-- Passes of a set of lanes (01 R14). -/
def passesOf (e : Mask) : Nat := (ranks e).length

/-- Replace the issuing team. -/
def State.putTeam (s : State) (h : Here) (t : Team) : State := s.setTeam h.r.core h.r.slot t

end Sys2Proof.Machine
end

