-- ==== Sys2Proof/Machine/Flags.lean ====
section
/-!
DEFINITION. Sticky flags (03 R72 to R74), conditions (04 R100), and the team's magnitude registers (03 R76 to R78).
-/

namespace Sys2Proof.Machine

open Sys2Proof

def Team.ffGet (t : Team) (lane : Nat) : Flags := sget 0 t.ff lane

/-- Hardware only sets sticky flags (03 R72). -/
def Team.ffOr (t : Team) (lane : Nat) (f : Flags) : Team :=
  if f = 0 then t else { t with ff := sput 0 t.ff lane (t.ffGet lane ||| f) }

def Team.ffOrs (t : Team) (l : List (Nat × Flags)) : Team := l.foldl (fun t q => t.ffOr q.1 q.2) t

/-- `%tf` with LSUM computed over the member lanes (03 R73). -/
def Team.tfRead (t : Team) : Word :=
  let lsum : Flags := t.member.foldl (fun f lane => f ||| t.ffGet lane) 0
  (t.tf &&& 0x3F00#32) ||| lsum.setWidth 32

/-- Set team flags (03 R73, R74). -/
def Team.mflOr (t : Team) (f : Flags) : Team := { t with tf := t.tf ||| (f.setWidth 32 <<< 8) }

/-- A condition on two integers. -/
def intCond (c : Cond) (a b : Int) : Bool :=
  match c with
  | .eq => a = b
  | .ne => a ≠ b
  | .lt => a < b
  | .le => a ≤ b
  | .gt => b < a
  | .ge => b ≤ a
  | _ => false

/-- A condition on two floats (04 R100). -/
def floatCond (c : Cond) (a b : FVal) : Bool :=
  match c with
  | .eq => a.eqv b
  | .ne => !a.eqv b
  | .lt => a.lt b
  | .le => !(a.isNan || b.isNan) && !b.lt a
  | .gt => b.lt a
  | .ge => !(a.isNan || b.isNan) && !a.lt b
  | .un => a.isNan || b.isNan
  | .ord => !(a.isNan || b.isNan)
  | _ => false

/-- The flags of a float compare (07 R149): NV for a signalling NaN, and for a quiet one under an ordering. -/
def cmpFlags (c : Cond) (a b : FVal) : Flags :=
  if a.isSnan || b.isSnan then flNV
  else match c with
    | .lt | .le | .gt | .ge => if a.isNan || b.isNan then flNV else 0
    | _ => 0

/-- A condition on two 32-bit patterns of a type, inputs flushed under `fm` (04 R100, 03 R71). -/
def condOn (fm : Word) (c : Cond) (t : Ty) (a b : Nat) : Bool × Flags :=
  match t with
  | .b32 =>
    (match c with
      | .eq => a == b
      | .ne => a != b
      | .any => a &&& b != 0
      | .none => a &&& b == 0
      | _ => false, 0)
  | .i32 | .n32 => (intCond c (intOf t a) (intOf t b), 0)
  | _ =>
    let x := flushIn fm t a
    let y := flushIn fm t b
    (floatCond c x y, cmpFlags c x y)

/-- `%amax` after one more element (03 R76); a NaN held there is replaced.  DESIGN CHOICE (log 40): a −0 that `sset` wrote stays when the
magnitude is +0, since the two are equal and R76 does not order them. -/
def amaxStep (amax : Word) (x : FVal) : Word :=
  if x.isNan then amax
  else
    let m := rup32 x.absv
    match f32 amax.toNat with
    | .nan _ => BitVec.ofNat 32 m
    | v => if v.lt (f32 m) then BitVec.ofNat 32 m else amax

/-- An element is dropped under the threshold (03 R77). -/
def dropped (thr : Word) (x : FVal) : Bool :=
  match x with
  | .num v => v.num != 0 && (FVal.num v.absv).lt (f32 thr.toNat)
  | _ => false

/-- The updates of 03 R78 for one dropped element. -/
def Team.dropStep (t : Team) (x : FVal) : Team :=
  { t with sdrop := BitVec.ofNat 32 (rne32 (fadd (f32 t.sdrop.toNat) x.absv).1).1,
           scnt := BitVec.ofNat 32 (min (t.scnt.toNat + 1) 0xFFFFFFFF) }

/-- Seed the generators of every member lane (03 R69). -/
def Team.seedRst (t : Team) : Team :=
  { t with rst := t.member.foldl (fun d lane => sput 0 d lane (rstSeed t.fmode lane)) t.rst }

end Sys2Proof.Machine
end

