-- ==== Sys2Proof/Machine/Mem.lean ====
section
/-!
DEFINITION. Memory: bytes by physical key, the scratchpad and its allocations (08 R168, R169), the L1 (08 R175), page
tables, the TLB and translation registers (19 R326 to R329, 06 R139), posted stores, and faults on their way to firmware
(19 R330 to R332).
-/

namespace Sys2Proof.Machine

open Sys2Proof

/-! ## Bytes by physical key -/

def pKey (tgt pa : Nat) : Nat := tgt * 2 ^ 52 + pa
def spKey (core off : Nat) : Nat := pKey 4 (core * 2 ^ 22 + off)

/-- The byte at a key; a byte nothing has written reads 0 (log 1). -/
def State.mget (s : State) (k : Nat) : Byte := sget 0 s.mem k

/-- The canonical form of memory: addresses rise strictly, and no listed byte is the 0 that unlisted ones read as (log 1). -/
def Memory.wf (m : List Host.Cell) : Bool := swf 0 m

def memPuts : List Host.Cell → Nat → List Byte → List Host.Cell
  | m, _, [] => m
  | m, k, b :: l => memPuts (sput 0 m k b) (k + 1) l

/-- Two runs of addresses overlap. -/
def overlap (a n b m : Nat) : Bool := 0 < n && 0 < m && a < b + m && b < a + n

/-- A write clears ZF of every tile that watches one of the bytes (09 R200). -/
def State.clearWatch (s : State) (k n : Nat) : State :=
  s.wgs.foldl (fun s q =>
    q.2.tiles.foldl (fun s t =>
      if t.2.watched.any fun r => overlap r.1 r.2 k n then
        { s with wgs := smod Wg.empty s.wgs q.1 fun g =>
          { g with tiles := smod Tile.empty g.tiles t.1 fun t => { t with zf := false, watched := [] } } }
      else s) s) s

/-- Write bytes at a key: an uncorrectable word that is written is repaired, and watching tiles lose ZF. -/
def State.mput (s : State) (k : Nat) (bs : List Byte) : State :=
  ({ s with mem := memPuts s.mem k bs,
            memPoison := s.memPoison.filter fun a => !(decide (k ≤ a) && decide (a < k + bs.length)) }).clearWatch k bs.length

/-- The bytes at a key. -/
def State.mgets (s : State) (k n : Nat) : List Byte := (List.range n).map fun i => s.mget (k + i)

def State.mnat (s : State) (k n : Nat) : Nat := ofBytes (s.mgets k n)

/-- An uncorrectable error lies in a word of 64 bits, the unit of HBM4 and of a scratchpad (22 R377), that the bytes touch
(19 R337).  The marks are by byte: a byte that is written loses its own. -/
def State.mbad (s : State) (k n : Nat) : Bool :=
  s.memPoison.any fun a => decide (0 < n) && decide (k / 8 ≤ a / 8) && decide (a / 8 ≤ (k + n - 1) / 8)

/-- Zero a run of bytes (18 R318 step 4). -/
def State.memErase (s : State) (k n : Nat) : State :=
  let out := fun (a : Nat) => !(decide (k ≤ a) && decide (a < k + n))
  ({ s with mem := s.mem.filter fun q => out q.1, memPoison := s.memPoison.filter out }).clearWatch k n

/-- Copy a run of bytes, with the words that are uncorrectable (19 R337), to another place. -/
def State.copyRun (s : State) (src dst n : Nat) : State :=
  let inside := fun (k : Nat) => decide (src ≤ k) && decide (k < src + n)
  let s1 := (s.mem.filter fun q => inside q.1).foldl (fun t q => t.mput (dst + (q.1 - src)) [q.2]) (s.memErase dst n)
  { s1 with memPoison := (s.memPoison.filter inside).foldl (fun l k => minsert (dst + (k - src)) l) s1.memPoison }

/-! ## Scratchpad addresses -/

/-- The physical core of a logical core: firmware maps whole clusters (18 R305). -/
def State.physCore (s : State) (vi lcore : Nat) : Nat :=
  let m := lcore / 4
  let pc := match sget 0 (s.vi vi).lcl m with
    | 0 => m
    | n + 1 => n
  pc * 4 + lcore % 4

/-- The slice and offset that a scratchpad address names for a lane of a core (08 R168). -/
def State.spPlace (s : State) (vi core sa : Nat) : Option (Nat × Nat) :=
  if 0x80000000 ≤ sa then none
  else if 0x7FC00000 ≤ sa then some (core, sa - 0x7FC00000)
  else if 0x60000000 ≤ sa then none
  else some (s.physCore vi (sa / 2 ^ 22), sa % 2 ^ 22)

/-- The bytes of a workgroup's allocation within its slice. -/
def Wg.spLo (g : Wg) : Nat := g.spOff * 0x4000
def Wg.spHi (g : Wg) : Nat := (g.spOff + g.spGran) * 0x4000

/-- A scratchpad address names its core by the alias of the issuing core or by the logical core of a workgroup (08 R168). -/
def Wg.named (k : Wg) (sa : Nat) : Bool := decide (0x7FC00000 ≤ sa) || k.lcore == sa / 2 ^ 22

/-- The context on a core whose allocation holds n bytes at an offset, of the same launch as `g`; on the core that the address `sa`
names (08 R169). -/
def State.allocAt (s : State) (g : Wg) (core off n sa : Nat) : Option Nat :=
  (List.range 16).find? fun w =>
    let k := s.wg core w
    k.sameLaunch g && k.named sa && k.spLo ≤ off && off + n ≤ k.spHi

/-- A scratchpad access of n bytes is legal (08 R169). -/
def State.spLegal (s : State) (g : Wg) (core sa n : Nat) : Bool :=
  match s.spPlace g.vi core sa with
  | some q => (s.allocAt g q.1 q.2 n sa).isSome
  | none => false

/-- An access lies in the issuing workgroup's own allocation. -/
def State.spOwn (s : State) (g : Wg) (core sa n : Nat) : Bool :=
  match s.spPlace g.vi core sa with
  | some q => q.1 == core && g.named sa && g.spLo ≤ q.2 && q.2 + n ≤ g.spHi
  | none => false

def windowBase : Nat := 0x01FFFFFF80000000

/-- The scratchpad address of a window address (08 R168). -/
def windowOf (va : Nat) : Option Nat := if windowBase ≤ va ∧ va < 2 ^ 57 then some (va - windowBase) else none

/-! ## Posted stores (08 R175, 12 R276, R278) -/

/-- The slot number under which the L1's unacknowledged writes toward the host links stand. -/
def linkSlot : Nat := 64

/-- A posted store is a path's own. -/
def Posted.ownOf (q : Posted) (slot path : Nat) : Bool := q.slot == slot && q.paths.contains path

/-- A posted store covers one of the bytes. -/
def Posted.meets (q : Posted) (k n : Nat) : Bool := overlap q.key q.bytes.length k n

/-- The bytes that a posted store puts over a byte. -/
def Posted.onto (q : Posted) (k : Nat) (b : Byte) : Byte :=
  if q.key ≤ k ∧ k < q.key + q.bytes.length then q.bytes.getD (k - q.key) b else b

/-- Two posted stores of one agent: they keep their order on every byte (12 R267). -/
def Posted.sameAgent (p q : Posted) : Bool :=
  p.slot == q.slot && (p.slot == linkSlot || p.paths.any fun i => q.paths.contains i)

/-- Post bytes for a path. -/
def State.post (s : State) (core slot : Nat) (paths : List Nat) (k : Nat) (bs : List Byte) : State :=
  s.modCore core fun c => { c with posted := c.posted ++ [⟨slot, paths, k, bs, k / 2 ^ 52 == 3, s.time3⟩] }

/-- What has to be performed before some runs of bytes, newest store first: the matching stores that meet a run, and the earlier
ones of the same agent that meet those. -/
def Posted.needed (mine : Posted → Bool) : List Posted → List (Nat × Nat) → List Posted × List Posted
  -- (performed now, kept), both newest first
  | [], _ => ([], [])
  | q :: l, runs =>
    if mine q && runs.any fun r => q.meets r.1 r.2 then
      let a := Posted.needed mine l ((q.key, q.bytes.length) :: runs)
      (q :: a.1, a.2)
    else
      let a := Posted.needed mine l runs
      (a.1, q :: a.2)

/-- Perform the matching posted stores that meet a run of bytes, in their order. -/
def State.performPosted (s : State) (core : Nat) (mine : Posted → Bool) (k n : Nat) : State :=
  let a := Posted.needed mine (s.core core).posted.reverse [(k, n)]
  if a.1 = [] then s
  else a.1.reverse.foldl (fun s q => s.mput q.key q.bytes) (s.modCore core fun c => { c with posted := a.2.reverse })

/-! ## The L1 (08 R175) -/

def lineOf (k : Nat) : Nat := k / 64 * 64

/-- A byte of memory as the core's L1 reads it: the core's own writes on their way to the host links come first. -/
def State.coreByte (s : State) (core k : Nat) : Byte :=
  (s.core core).posted.foldl (fun b q => if q.slot = linkSlot then q.onto k b else b) (s.mget k)

/-- Write dirty bytes to memory, after the core's earlier writes to them that the links have not acknowledged. -/
def State.writeBack (s : State) (core : Nat) (ks : List Nat) : State :=
  let c := s.core core
  let s1 := ks.foldl (fun s k => (s.performPosted core (fun q => q.slot == linkSlot) k 1).mput k [sget 0 c.l1.data k]) s
  s1.modCore core fun c => { c with l1 := { c.l1 with dirty := c.l1.dirty.filter fun k => !ks.contains k } }

/-- The dirty bytes of a line. -/
def CoreSt.dirtyOf (c : CoreSt) (line : Nat) : List Nat := c.l1.dirty.filter fun k => lineOf k == line

/-- A run of pooled memory lies wholly in pool window n of an interface (21 R361). -/
def Vi.inPool (v : Vi) (n pa size : Nat) : Bool :=
  let w := (sget 0 v.pool n).toNat
  decide (w / 2 ^ 30 * 2 ^ 30 ≤ pa) && decide (pa + size ≤ w / 2 ^ 30 * 2 ^ 30 + fld w 12 18 * 2 ^ 30)

/-- A key lies in a pool window that is down: what goes there is never acknowledged (21 R361). -/
def State.poolLost (s : State) (key : Nat) : Bool :=
  key / 2 ^ 52 == 2 && s.vis.any fun q => q.2.poolDown.any fun n => q.2.inPool n (key % 2 ^ 52) 1

/-- Runs of consecutive keys. -/
def keyRuns : List Nat → List (Nat × Nat)
  | [] => []
  | k :: l => match keyRuns l with
    | (a, n) :: r => if a = k + 1 then (k, n + 1) :: r else (k, 1) :: (a, n) :: r
    | [] => [(k, 1)]

/-- Send dirty bytes toward the host links without waiting for their acknowledgement (12 R278). -/
def State.sendKeys (s : State) (core : Nat) (ks : List Nat) : State :=
  let c := s.core core
  let s1 := (keyRuns ks).foldl (fun s q =>
    s.post core linkSlot [] q.1 ((List.range q.2).map fun i => sget 0 c.l1.data (q.1 + i))) s
  s1.modCore core fun c => { c with l1 := { c.l1 with dirty := c.l1.dirty.filter fun k => !ks.contains k } }

/-- Write dirty bytes out: to memory, or into a lost pool window, whence no acknowledgement comes (21 R361). -/
def State.writeOut (s : State) (core : Nat) (ks : List Nat) : State :=
  if ks.any s.poolLost then s.sendKeys core ks else s.writeBack core ks

/-- Write a line's dirty bytes to memory. -/
def State.l1Clean (s : State) (core line : Nat) : State := s.writeOut core ((s.core core).dirtyOf line)

/-- Write the dirty bytes of one aligned word to memory, a sync object's word whole (12 R262, R273). -/
def State.l1CleanWord (s : State) (core k : Nat) : State :=
  let l1 := (s.core core).l1
  let n := if l1.whole.contains (k / 8 * 8) then 8 else 4
  s.writeOut core (l1.dirty.filter fun d => d / n == k / n)

/-- Write a line back toward the host links without waiting for their acknowledgement (12 R278). -/
def State.l1Send (s : State) (core line : Nat) : State := s.sendKeys core ((s.core core).dirtyOf line)

/-- The write-back of a release at a scope: host and pooled bytes are acknowledged at `.sys` and `.fab` only (12 R278). -/
def State.l1Release (s : State) (core scope line : Nat) : State :=
  let tgt := line / 2 ^ 52
  if scope < 4 && (tgt == 1 || tgt == 2) then s.l1Send core line else s.l1Clean core line

/-- Write a line back and drop it. -/
def State.l1Drop (s : State) (core line : Nat) : State :=
  (s.l1Clean core line).modCore core fun c =>
    { c with l1 := { c.l1 with lines := c.l1.lines.filter (· != line),
                               data := c.l1.data.filter fun q => lineOf q.1 != line,
                               whole := c.l1.whole.filter fun k => lineOf k != line,
                               bad := c.l1.bad.filter fun k => lineOf k != line } }

/-- 128 KiB hold 2,048 lines: of a full L1 one goes, a line that is not dirty while there is one; which, is left open
(00 R3, log 7). -/
def State.l1Room (s : State) (core : Nat) : State :=
  let l1 := (s.core core).l1
  if l1.lines.length < 2048 then s
  else
    let clean := l1.lines.filter fun l => !(l1.dirty.any fun k => lineOf k == l)
    let l := if clean = [] then l1.lines else clean
    ({ s with fresh := s.fresh + 1 }).l1Drop core (l.getD ((Config.freeWord s.fresh).toNat % l.length) 0)

/-- Bring a line in on a miss. -/
def State.l1Fill (s : State) (core line : Nat) : State :=
  if (s.core core).l1.lines.contains line then s
  else
    let s1 := s.l1Room core
    s1.modCore core fun c => { c with l1 :=
      { c.l1 with lines := minsert line c.l1.lines,
                  data := (List.range 64).foldl (fun d i => sput 0 d (line + i) (s1.coreByte core (line + i))) c.l1.data,
                  bad := ((List.range 64).filter fun i => s1.mbad (line + i) 1).foldl (fun l i => minsert (line + i) l) c.l1.bad } }

def State.l1CleanAll (s : State) (core : Nat) : State := (s.core core).l1.lines.foldl (fun s l => s.l1Clean core l) s
def State.l1DropAll (s : State) (core : Nat) : State := (s.core core).l1.lines.foldl (fun s l => s.l1Drop core l) s

/-! ## Releases and acquires (08 R179, 12 R274) -/

def orderRel (o : Order) : Bool := o == .rel || o == .ar
def orderAcq (o : Order) : Bool := o == .acq || o == .ar

/-- A path has posted stores that are not yet performed at a scope: peer stores count at `.fab` only (08 R179, 12 R276), the core's
writes toward the host links at `.sys` and `.fab` (12 R278). -/
def CoreSt.unperformed (c : CoreSt) (slot path scope : Nat) : Bool :=
  c.posted.any fun q => q.ownOf slot path && (!q.remote || scope == 5) || q.slot == linkSlot && 4 ≤ scope

/-- The release side at a scope: `.cl` and wider write back the whole L1. -/
def State.relAct (s : State) (core : Nat) (o : Order) (scope : Nat) : State :=
  if orderRel o && 2 ≤ scope then (s.core core).l1.lines.foldl (fun s l => s.l1Release core scope l) s else s

/-- The acquire side at a scope: `.cl` and wider invalidate the whole L1. -/
def State.acqAct (s : State) (core : Nat) (o : Order) (scope : Nat) : State :=
  if orderAcq o && 2 ≤ scope then s.l1DropAll core else s

/-- The resident lines that a run of physical addresses touches. -/
def State.l1Touched (s : State) (core k n : Nat) : List Nat :=
  (s.core core).l1.lines.filter fun l => overlap l 64 k n

/-- The key of a byte of host memory at a host address: the driver's addresses have up to 64 bits, those of leaf entries 52. -/
def hostKey (a : Nat) : Nat := if a < 2 ^ 52 then pKey 1 a else 8 * 2 ^ 52 + a

/-! ## Translation (19 R326 to R328) -/

/-- The answer of a translation: the memory and physical address, whether writes are allowed, the page; or a fault, fatal or
replayable, with its cause, page base and PSZ. -/
inductive TRes where
  | ok (tgt pa : Nat) (writable : Bool) (base size : Nat)
  | bad (fatal : Bool) (cause base psz : Nat)
deriving DecidableEq, Repr

/-- Index shift and width of a level, and the size of a leaf there (19 R326). -/
def levelShift : List Nat := [48, 39, 30, 21, 16]
def leafSize (level : Nat) : Nat := 2 ^ levelShift.getD level 16
def pszOf (size : Nat) : Nat := if size = 2 ^ 16 then 0 else if size = 2 ^ 21 then 1 else 2

/-- The HBM4 of the device: 8 stacks of 64 GiB (00 R3). -/
def hbmBytes : Nat := 2 ^ 39

/-- The dump region: the 256 MiB at the top of stack 0 of HBM4 (22 R379, log 22). -/
def dumpSize : Nat := 256 * 2 ^ 20
def dumpBase : Nat := 64 * 2 ^ 30 - dumpSize

/-- A frame of HBM4 with a byte of the dump region, which is never mapped for any interface (22 R379). -/
def inDump (frame size : Nat) : Bool := overlap frame size dumpBase dumpSize

/-- An entry that keeps every limit of 19 R327 at its level, and names no HBM4 beyond the end and no byte of the dump region (00 R3, 22
R379, log 35); of a page that the host owns, FRAME and TGT say nothing. -/
def pteOk (level e : Nat) : Bool :=
  let leaf := tbit e 3
  (fld e 8 2 != 0 || !leaf || !tbit e 1 || !inDump (fld e 12 40 * 2 ^ 12) (leafSize level)) &&
  (fld e 8 2 != 0 || leaf && !tbit e 1 || decide (fld e 12 40 * 2 ^ 12 < hbmBytes)) &&
  fld e 52 12 == 0 && fld e 10 2 == 0 && fld e 4 4 == 0 && tbit e 0 &&
  (if leaf then 2 ≤ level && fld e 12 40 * 2 ^ 12 % leafSize level == 0
   else level < 4 && fld e 8 2 == 0 && !tbit e 2 && !tbit e 1)

/-- The walk from a level (19 R326): the leaf entry and its level, or the cause of the fault. -/
def State.walk (s : State) (va : Nat) : Nat → Nat → Nat → Except Nat (Nat × Nat)
  | 0, _, _ => .error 0x01
  | fuel + 1, level, table =>
    let idx := va / 2 ^ levelShift.getD level 16 % (if level = 4 then 32 else 512)
    let k := pKey 0 (table + 8 * idx)
    let e := s.mnat k 8
    if hbmBytes ≤ table then .error 0x01
    else if s.mbad k 8 then .error 0x06
    else if !pteOk level e then .error 0x01
    else if tbit e 3 then .ok (level, e)
    else s.walk va fuel (level + 1) (fld e 12 40 * 2 ^ 12)

/-- The device to which a frame in peer memory belongs: bits 51:40 (log 14). -/
def peerOf (pa : Nat) : Nat := pa / 2 ^ 40

/-- A device that no port leads to is lost (21 R363). -/
def State.isLost (s : State) (device : Nat) : Bool := s.lost.contains device || sget 0 s.route device == 0

/-- A pool that is down, a peer that is lost, or one of another group is unreachable (21 R361 to R363). -/
def State.unreachable (s : State) (vi tgt pa : Nat) : Bool :=
  if tgt = 2 then (s.vi vi).poolDown.any fun n => (s.vi vi).inPool n pa 1
  else tgt == 3 && (s.isLost (peerOf pa) || sget 0 s.peerGroup (peerOf pa) != (s.vi vi).fabgrp)

/-- A page is being flipped (19 R334). -/
def State.flipping (s : State) (vi base size : Nat) : Bool :=
  (s.vi vi).flips.any fun f => base ≤ f.page && f.page < base + size

/-- An address of the team's private region at or above its high-water mark (19 R336). -/
def Team.overMark (t : Team) (va : Nat) : Bool :=
  t.privBase != 0 && decide (t.privBase + t.privMark ≤ va) && decide (va < t.privBase + 2 ^ 30)

/-- Translate in the tables: what a TLB miss does. `team` gives the private region (19 R336).  Firmware writes no leaf of pooled memory
outside the interface's windows (21 R361); one that stands in memory all the same reaches nothing (log 45). -/
def State.walkVa (s : State) (vi : Nat) (t : Team) (va : Nat) (write : Bool) : TRes :=
  let g := va / 2 ^ 16 * 2 ^ 16
  match s.walk va 5 0 (fld (s.vi vi).ptroot.toNat 12 40 * 2 ^ 12) with
  | .error c => .bad true c g 3
  | .ok (level, e) =>
    let size := leafSize level
    let base := va / size * size
    let tgt := fld e 8 2
    let pa := fld e 12 40 * 2 ^ 12 + va % size
    if t.overMark va then .bad false 0x04 base (pszOf size)
    else if !tbit e 1 || s.flipping vi base size then .bad false 0x02 base (pszOf size)
    else if write && !tbit e 2 then .bad true 0x03 base (pszOf size)
    else if tgt == 2 && !(List.range 4).any fun n => (s.vi vi).inPool n (fld e 12 40 * 2 ^ 12) size then .bad true 0x05 base (pszOf size)
    else if s.unreachable vi tgt pa then .bad true 0x05 base (pszOf size)
    else .ok tgt pa (tbit e 2) base size

/-- A TLB entry for an address. -/
def CoreSt.tlbHit (c : CoreSt) (vi va : Nat) : Option Tlb :=
  c.tlb.find? fun e => e.vi == vi && e.base ≤ va && va < e.base + e.size

/-- The translation path of 08 R174 steps 3 and 4 for one address: translation register (06 R140), TLB (19 R329, log 11), or
the tables. -/
def State.translate (s : State) (core vi : Nat) (t : Team) (va : Nat) (write : Bool) : TRes :=
  if 2 ^ 57 ≤ va then .bad true 0x07 (va / 2 ^ 16 * 2 ^ 16) 3
  else
    match t.xt.find? fun x => x.2.valid && x.2.vbase ≤ va && va < x.2.vbase + x.2.limit with
    | some x =>
      let pa := x.2.frame + (va - x.2.vbase)
      if t.overMark va then .bad false 0x04 x.2.base (pszOf x.2.size)
      else if write && !x.2.writable then .bad true 0x03 x.2.base (pszOf x.2.size)
      else if s.unreachable vi x.2.tgt pa then .bad true 0x05 x.2.base (pszOf x.2.size)
      else .ok x.2.tgt pa x.2.writable x.2.base x.2.size
    | none =>
      match (s.core core).tlbHit vi va with
      | some e =>
        let pa := e.frame + (va - e.base)
        if t.overMark va then .bad false 0x04 e.base (pszOf e.size)
        else if write && !e.writable then .bad true 0x03 e.base (pszOf e.size)
        else if s.unreachable vi e.tgt pa then .bad true 0x05 e.base (pszOf e.size)
        else .ok e.tgt pa e.writable e.base e.size
      | none => s.walkVa vi t va write

/-- The TLB keeps a translation it has used (19 R329); of 1,024 the oldest goes. -/
def State.tlbKeep (s : State) (core vi va : Nat) (r : TRes) : State :=
  match r with
  | .ok tgt pa w base size =>
    let c := s.core core
    if (c.tlbHit vi va).isSome then s
    else
      let l := if 1024 ≤ c.tlb.length then c.tlb.drop 1 else c.tlb
      s.setCore core { c with tlb := l ++ [⟨vi, base, size, pa - (va - base), tgt, w⟩] }
  | .bad .. => s

/-- The length that the form bits of an instruction word give (04 R83). -/
def formLen (w : Nat) : Nat :=
  match w % 4 with
  | 0 => 8
  | 3 => 64
  | _ => 16

/-- The length of the instruction at a path's program counter: of the one that it has issued and waits in, or as far as its bytes can be
read. -/
def State.lenAt (s : State) (r : PathRef) : Nat :=
  let t := s.team r.core r.slot
  match (t.path r.path).code with
  | some q => q.2
  | none => match s.translate r.core (s.wg r.core t.w).vi { t with xt := [] } (t.path r.path).pc.toNat false with
  | .ok tgt pa .. => formLen (s.mget (pKey tgt pa)).toNat
  | .bad .. => 8

/-- The first bytes of the instruction at a path's program counter, eight of one that it has issued and waits in; instructions are
never fetched through a translation register (06 R139). -/
def State.wordAt (s : State) (r : PathRef) (n : Nat) : Nat :=
  let t := s.team r.core r.slot
  match (t.path r.path).code with
  | some q => (encode q.1).headD 0
  | none => match s.translate r.core (s.wg r.core t.w).vi { t with xt := [] } (t.path r.path).pc.toNat false with
  | .ok tgt pa .. => s.mnat (pKey tgt pa) n
  | .bad .. => 0

/-! ## Reading and writing one place -/

/-- The value a path sees at a key whose memory byte is `b`: its team's deferred stores, `erel` among them, and its own posted stores
come first (08 R175, 10 R233, log 48). -/
def CoreSt.overlay (c : CoreSt) (slot path k : Nat) (b : Byte) : Byte :=
  let pb := c.posted.foldl (fun b q => if q.ownOf slot path then q.onto k b else b) b
  c.pen.foldl (fun b e =>
    if e.slot = slot then
      match e.op with
      | .store bs _ => (bs.filter fun q => q.1 == k).foldl (fun _ q => q.2) b
      | .erel tgt pa _ v _ =>
        if pKey tgt pa ≤ k ∧ k < pKey tgt pa + 8 then BitVec.ofNat 8 (v.toNat / 2 ^ (8 * (k - pKey tgt pa))) else b
      | _ => b
    else b) pb

/-- A byte of a run that a path reads comes from an uncorrectable word: of the L1, or of memory where no store of its own covers it
(19 R337). -/
def State.loadBad (s : State) (r : PathRef) (tgt pa n : Nat) : Bool :=
  let k := pKey tgt pa
  let c := s.core r.core
  let cached := tgt < 3 && c.l1.lines.contains (lineOf k)
  (List.range n).any fun i => (if cached then c.l1.bad.contains (k + i) else s.mbad (k + i) 1) &&
    c.overlay r.slot r.path (k + i) 0 != c.overlay r.slot r.path (k + i) 1

/-- The same by key. -/
def State.seenBad (s : State) (r : PathRef) (k n : Nat) : Bool := s.loadBad r (k / 2 ^ 52) (k % 2 ^ 52) n

/-- Load n bytes for a path: through the L1 for HBM4, host and pooled memory, at the target otherwise (08 R175). -/
def State.loadAt (s : State) (r : PathRef) (tgt pa n : Nat) : List Byte × State :=
  let k := pKey tgt pa
  if tgt < 3 then
    let s1 := s.l1Fill r.core (lineOf k)
    let c := s1.core r.core
    ((List.range n).map fun i => c.overlay r.slot r.path (k + i) (sget 0 c.l1.data (k + i)), s1)
  else
    let c := s.core r.core
    ((List.range n).map fun i => c.overlay r.slot r.path (k + i) (s.mget (k + i)), s)

/-- Mark tags of the 64-byte lines of a run with a team's ids (10 R232): a resolved one says nothing any more, and leaves its tags as it
resolves. -/
def State.tagLines (s : State) (core k n : Nat) (held : List Nat) : State :=
  let ids := (s.core core).unresolved held
  if ids = [] ∨ n = 0 then s
  else
    let add := fun (d : Sparse (List Nat)) (i : Nat) => smod [] d (k / 64 + i) fun l => (l ++ ids).eraseDups
    s.modCore core fun c => { c with tags := (List.range ((k + n - 1) / 64 - k / 64 + 1)).foldl add c.tags }

/-- Perform a store for some paths of a team: into the L1 and dirty, at once in the own slice, or posted to another slice or a peer
(08 R175, log 13). -/
def State.storeAs (s : State) (core slot : Nat) (paths : List Nat) (tgt pa : Nat) (bs : List Byte) : State :=
  let k := pKey tgt pa
  if tgt < 3 then
    let s1 := s.l1Fill core (lineOf k)
    s1.modCore core fun c =>
      { c with l1 := { c.l1 with
          data := memPuts c.l1.data k bs,
          dirty := (List.range bs.length).foldl (fun d i => minsert (k + i) d) c.l1.dirty,
          whole := c.l1.whole.filter fun w => !overlap w 8 k bs.length,
          bad := c.l1.bad.filter fun w => !(decide (k ≤ w) && decide (w < k + bs.length)) } }
  else if tgt = 4 ∧ pa / 2 ^ 22 = core then s.mput k bs
  else s.post core slot paths k bs

/-- A store of a path. -/
def State.storeAt (s : State) (r : PathRef) (tgt pa : Nat) (bs : List Byte) : State :=
  s.storeAs r.core r.slot [r.path] tgt pa bs

/-- A plain store of one element: 8 bytes are two stores of 4 (12 R262). -/
def State.storeElem (s : State) (r : PathRef) (tgt pa : Nat) (bs : List Byte) : State :=
  if bs.length = 8 then (s.storeAt r tgt pa (bs.take 4)).storeAt r tgt (pa + 4) (bs.drop 4) else s.storeAt r tgt pa bs

/-! ## Faults on their way to firmware -/

/-- A fault record (19 R330). -/
def faultWords (s : State) (va token vi core slot path ectx src kind cause psz : Nat) : List DWord :=
  [BitVec.ofNat 64 va,
   BitVec.ofNat 64 (token * 2 ^ 48 + vi * 2 ^ 42 + core % 96 * 2 ^ 35 + slot * 2 ^ 29 + path * 2 ^ 19 + ectx * 2 ^ 16 +
     src * 2 ^ 12 + kind * 2 ^ 8 + cause),
   s.ticks, BitVec.ofNat 64 psz]

/-- Hand a fault record to the ring of the core's die; FAULT_RECORD writes it. -/
def State.postFault (s : State) (core : Nat) (ws : List DWord) : State :=
  s.modDie (dieOf core) fun d => { d with faultQ := d.faultQ ++ [⟨ws⟩] }

/-- The ring of a core's die has room for n more records (19 R331). -/
def State.faultRoom (s : State) (core n : Nat) : Bool :=
  let d := s.die (dieOf core)
  (d.fqtail + 4096 - d.fqhead) % 4096 + d.faultQ.length + n < 4096

/-- Join or take a wait-table entry for a page (19 R332): its token, and the state with the entry updated by `f`. -/
def State.joinWait (s : State) (core vi page : Nat) (f : WaitE → WaitE) : Nat × State :=
  let c := s.core core
  let key := fun i => sget WaitE.empty c.waitTab i
  let hit := (List.range 64).find? fun i => (key i).v && (key i).vi == vi && (key i).page == page
  let free := (List.range 63).find? fun i => !(key i).v
  let i := (hit <|> free).getD 63
  let e := key i
  if e.v then (e.token, s.setCore core { c with waitTab := sput WaitE.empty c.waitTab i (f e) })
  else
    let d := s.die (dieOf core)
    let tok := if d.token + 1 < 2 ^ 16 then d.token + 1 else 1
    let e1 : WaitE := { WaitE.empty with v := true, vi := vi, page := page, token := tok, ovf := i == 63 }
    (tok, (s.setDie (dieOf core) { d with token := tok }).modCore core fun c =>
      { c with waitTab := sput WaitE.empty c.waitTab i (f e1) })

/-- One record per distinct page, each naming the lowest faulting address on it (19 R330). -/
def byPage (l : List (Nat × Nat × Nat × Nat)) : List (Nat × Nat × Nat × Nat) :=
  -- (va, cause, base, psz)
  l.foldl (fun acc q =>
    if acc.any fun a => a.2.2.1 == q.2.2.1 then
      acc.map fun a => if a.2.2.1 = q.2.2.1 ∧ q.1 < a.1 then q else a
    else acc ++ [q]) []

end Sys2Proof.Machine
end

