-- ==== Sys2Proof/Machine/Paths.lean ====
section
/-!
DEFINITION. Splitting, merging and ending paths (01 R18 to R26), lanes that leave (R13, R36), and the phases of named
barriers (08 R183), which every exit may complete.
-/

namespace Sys2Proof.Machine

open Sys2Proof

/-! ## Named barriers (08 R183) -/

/-- Member lanes of all teams of a workgroup, shadow teams included. -/
def State.memberCount (s : State) (core w : Nat) : Nat :=
  (s.slotsOfWg core w).foldl (fun n k => n + (s.team core k).member.length) 0

def Wg.bar (g : Wg) (n : Nat) : Barrier := sget Barrier.empty g.nb n
def Wg.setBar (g : Wg) (n : Nat) (b : Barrier) : Wg := { g with nb := sput Barrier.empty g.nb n b }

/-- Complete the open phase when its arrivals reach the expected count. -/
def Barrier.settle (b : Barrier) (members : Nat) : Barrier :=
  match b.expect with
  | none => b
  | some e => if (if e = 0 then members else e) ≤ b.arrived then ⟨b.phase + 1, 0, none⟩ else b

/-- An arrival of `lanes` lanes with a count operand (08 R183): the first of a phase fixes its expected count. -/
def State.nbArrive (s : State) (core w n lanes count : Nat) : State :=
  s.modWg core w fun g =>
    let b := g.bar n
    let b1 : Barrier := { b with arrived := b.arrived + lanes, expect := some (b.expect.getD count) }
    g.setBar n (b1.settle (s.memberCount core w))

/-- Count-0 phases are judged again at every exit. -/
def State.nbRecheck (s : State) (core w : Nat) : State :=
  s.modWg core w fun g =>
    { g with nb := g.nb.foldl (fun d q => sput Barrier.empty d q.1 (q.2.settle (s.memberCount core w))) g.nb }

/-! ## The end of a team (01 R36, R39) -/

/-- Close the open matrix batch without a number (09 R204). -/
def Team.closeBatch (t : Team) : Team :=
  { t with batches := t.batches.map fun b => if b.closed then b else { b with closed := true } }

/-- Steps of a batch that are queued or running. -/
def CoreSt.stepsOf (c : CoreSt) (slot id : Nat) : List MStep :=
  (c.running.toList ++ c.mqueue).filter fun m => m.slot == slot && m.path == none && m.batch == id

/-- A batch that closed without a number is over once its steps are (09 R204). -/
def Team.dropEnded (t : Team) (c : CoreSt) (slot : Nat) : Team :=
  { t with batches := t.batches.filter fun b => !(b.closed && b.tl.isNone && (c.stepsOf slot b.id).isEmpty) }

/-- What a path reads in an accumulator cell: a batch's writes only once a `mwait` or `tlwait` has completed it (12 R286). -/
def Wg.accCell (g : Wg) (k : Nat) : Word :=
  (g.unseen.findSome? fun u => (u.cells.find? fun q => q.1 == k).map (·.2)).getD (sget 0 g.accs k)

/-- Cells that are written anew: what they held before a batch is no longer read. -/
def Wg.freshCells (g : Wg) (ks : Nat → Bool) : Wg :=
  { g with unseen := g.unseen.map fun u => { u with cells := u.cells.filter fun q => !ks q.1 } }

/-- The entries left when those that a test picks become visible: a cell that one of them wrote is no longer read as it stood before an
earlier batch. -/
def unseenAfter (f : Unseen → Bool) : List Unseen → List Unseen
  | [] => []
  | u :: l =>
    let hidden := fun (k : Nat) => !l.any fun v => f v && v.cells.any fun q => q.1 == k
    if f u then unseenAfter f l else { u with cells := u.cells.filter fun q => hidden q.1 } :: unseenAfter f l

/-- The batches that a wait completes become visible (12 R286). -/
def Wg.sees (g : Wg) (f : Unseen → Bool) : Wg := { g with unseen := unseenAfter f g.unseen }

/-- A team without member lanes drains: no path, its open batch closed, entries of its window discarded. -/
def Team.drain (t : Team) : Team := { t.closeBatch with life := .draining, member := [], paths := [], window := [] }

/-- A team that drains while every id it has held is resolved performs what it has deferred under them, as an `spjoin` would (10 R236;
log 41). -/
def State.flushDrained (s : State) (core slot : Nat) : State :=
  let t := s.team core slot
  let c := s.core core
  if t.life = .draining ∧ c.unresolved t.ids = [] ∧ (c.pen.any fun e => e.slot == slot && e.ids == []) = true then
    s.setTeam core slot { t with ownIds := [], inhIds := [], flushing := true }
  else s

/-- After lanes have left: a team without members drains, its shadow team's paths end with it (01 R36), and open phases
are judged again (08 R183).  DESIGN CHOICE (log 40): a shadow team that ends so while it holds an unresolved speculation id drains as
it is; nothing traps (01 R41 is about lanes that exit), and its own ids are squashed as it retires (log 41). -/
def State.afterExit (s : State) (core slot : Nat) : State :=
  let t := s.team core slot
  let c := s.core core
  let s1 :=
    if t.member = [] then
      let s0 := (s.setTeam core slot (t.drain.dropEnded c slot)).flushDrained core slot
      match t.partner with
      | some k =>
        let u := s0.team core k
        if !t.shadow && u.shadow && u.partner == some slot then
          (s0.modTeam core k fun u => u.drain.dropEnded c k).flushDrained core k
        else s0
      | none => s0
    else s
  s1.nbRecheck core t.w

/-! ## What a split and a join hand on (12 R264, R267) -/

/-- The posted stores of a path become those of other paths too. -/
def State.sharePosted (s : State) (core slot path : Nat) (others : List Nat) : State :=
  let f := fun (q : Posted) => if q.ownOf slot path then { q with paths := (q.paths ++ others).eraseDups } else q
  s.modCore core fun c => { c with posted := c.posted.map f }

/-! ## Splitting (01 R19, R21) -/

/-- The lowest index free among the live paths. -/
def freeIndex (used : List Nat) : Nat := ((List.range (used.length + 1)).find? fun i => !used.contains i).getD 0

/-- The groups of a split in successor order: each distinct address with the lanes that take it. -/
def splitGroups (order : List DWord) (succ : List (Nat × Option DWord)) : List (DWord × Mask) :=
  (order.eraseDups.map fun a => (a, (succ.filter fun q => q.2 == some a).map (·.1))).filter fun g => g.2 != []

/-- The group that continues in place: the most lanes, the earlier one on a tie. -/
def biggest : List (DWord × Mask) → Option (DWord × Mask)
  | [] => none
  | g :: l => match biggest l with
    | none => some g
    | some b => if g.2.length < b.2.length then some b else some g

/-- The part of a path's pending data that belongs to some lanes. -/
def Pend.restrict (d : Pend) (m : Mask) : Pend :=
  { d with vals := d.vals.filter fun q => m.contains q.1, poison := d.poison.filter fun l => m.contains l,
           due := d.due.filter fun q => m.contains q.1, far := d.far.filter fun q => m.contains q.1 }

/-- A path narrowed to a group that continues at an address, without a lookahead window. -/
def Path.into (p : Path) (g : DWord × Mask) (push : List (Nat × Nat)) : Path :=
  { p with pc := g.1, mask := g.2, stack := push ++ p.stack, wait := .none, window := 0,
           pend := (p.pend.map fun d => d.restrict g.2).filter fun d => d.vals != [], skipCmp := false, waited := 0,
           readyFor := 0, lostFor := 0, yielded := 0, forced := false, spres := none, code := none }

/-- Enter a new path at the lowest free index: on chip while the slot has fewer than 16 entries and no older path is spilled, else
spilled (01 R25, R26). -/
def Team.addPath (t : Team) (p : Path) : Team :=
  let used := t.livePaths
  let onchip := used.length < 16 && used.all fun i => (t.path i).onChip
  { t.setPath (freeIndex used) { p with onChip := onchip, entered := t.entries } with entries := t.entries + 1 }

/-- The split of 01 R19 and R21.  `succ` gives each lane's successor (none for exit), `order` the successor order.  Exit
lanes leave, the biggest group continues in place, the others become fragments in order, and a non-zero token pushes one
instance on every path that leaves.  A lookahead window stays with the path that continues in place, one instruction shorter (04 R91). -/
def State.split (s : State) (h : Here) (passes : Nat) (order : List DWord) (succ : List (Nat × Option DWord))
    (token : Nat) : State :=
  let s1 := s.count h.r passes
  let t := s1.team h.r.core h.r.slot
  let p := t.path h.r.path
  let gone := (succ.filter fun q => q.2 == none).map (·.1)
  let push := if token = 0 then [] else [(token, t.inst)]
  let t1 := { t with member := mdiff t.member gone, inst := if token = 0 then t.inst else t.inst + 1 }
  let groups := splitGroups order succ
  let t2 := match biggest groups with
    | none => t1.setPath h.r.path Path.empty
    | some g =>
      (groups.filter fun q => q.1 != g.1).foldl (fun t q => t.addPath (p.into q push))
        (t1.setPath h.r.path { p.into g push with window := p.window - 1 })
  let s2 := (s1.setTeam h.r.core h.r.slot t2).sharePosted h.r.core h.r.slot h.r.path
    (t2.livePaths.filter fun i => !t.livePaths.contains i)
  if gone = [] then s2 else s2.afterExit h.r.core h.r.slot

/-- Paths without an on-chip entry, and token-stack entries beyond the four of each path (01 R25, R26). -/
def Team.spilled (t : Team) : Nat × Nat :=
  let l := t.paths.filter fun q => q.2.live
  ((l.filter fun q => !q.2.onChip).length, l.foldl (fun n q => n + (q.2.stack.length - 4)) 0)

/-- Bytes of the private region that the spilled entries take: one or more each (log 25). -/
def Team.spillSize (t : Team) : Nat := let b := t.spilled; Config.spillBytes b.1 b.2 + b.1 + b.2

/-- A team has spilled more entries than before. -/
def Team.spillsMore (old new : Team) : Bool :=
  decide (old.spilled.1 < new.spilled.1) || decide (old.spilled.2 < new.spilled.2)

/-- The team as a split leaves it. -/
def State.splitTeam (s : State) (h : Here) (order : List DWord) (succ : List (Nat × Option DWord)) (token : Nat) : Team :=
  (s.split h 0 order succ token).team h.r.core h.r.slot

/-- A split would spill more, beyond the team's high-water mark (01 R26, 19 R336). -/
def State.splitOver (s : State) (h : Here) (order : List DWord) (succ : List (Nat × Option DWord)) (token : Nat) : Bool :=
  let t := s.splitTeam h order succ token
  h.t.spillsMore t && decide (h.t.privMark < t.spillSize)

/-- The exit of these lanes would empty the member mask of a team that holds an unresolved speculation id (01 R41, 06 R126, R128); a
team whose ids have all resolved may exit, and what it has deferred is performed as it drains (log 41). -/
def State.exitIllegal (s : State) (h : Here) (gone : Mask) : Bool :=
  gone != [] && mdiff h.t.member gone == [] && s.holdsUnresolved h.r.core h.r.slot

/-! ## Joining (01 R22) -/

/-- The paths that hold a token instance. -/
def Team.holders (t : Team) (tok inst : Nat) : List (Nat × Path) := t.paths.filter fun q => q.2.stack.contains (tok, inst)

/-- Every live path that holds the instance waits at its join; a path that is spilled has not arrived (01 R23), as far as the holders
can stand on chip together (log 46). -/
def Team.joinReady (t : Team) (tok inst : Nat) : Bool :=
  (t.holders tok inst).all fun q => q.2.wait == .join tok inst && (q.2.onChip || decide (16 < (t.holders tok inst).length))

/-- The paths that have arrived, by ascending index. -/
def Team.arrived (t : Team) (tok inst : Nat) : List (Nat × Path) := t.paths.filter fun q => q.2.wait == .join tok inst

/-- Merge the arrived paths: union of masks, lowest index, the instance popped, at the instruction after the join; the trap
record of the lowest merging path in a handler, else of the lowest (11 R241).  DESIGN CHOICE (log 40): where paths have arrived at
different `join` instructions with the token, the merged path goes on after the join of the lowest-indexed one (01 R22 and 06 R127 name
one join). -/
def Team.merge (t : Team) (tok inst : Nat) : Team :=
  match t.arrived tok inst with
  | [] => t
  | (i, p) :: rest =>
    let all := (i, p) :: rest
    let rec_ := ((all.find? fun q => q.2.inh).getD (i, p)).2
    let m : Path := { p with
      mask := all.foldl (fun m q => munion q.2.mask m) [], stack := p.stack.drop 1, pc := p.pc + 8, wait := .none,
      onChip := all.any fun q => q.2.onChip,
      pend := (all.map fun q => q.2.pend).flatten, busy := (all.map fun q => q.2.busy).flatten, window := 0,
      readyFor := 0, lostFor := 0, code := none,
      ahead := (all.map fun q => q.2.ahead).flatten,
      tcause := rec_.tcause, twin := rec_.twin, tpc := rec_.tpc, tresume := rec_.tresume, tinfo := rec_.tinfo,
      tlane := rec_.tlane, inh := rec_.inh }
    (rest.foldl (fun t q => t.setPath q.1 Path.empty) t).setPath i m

/-- Merge when every holder has arrived; otherwise nothing changes. -/
def State.tryMerge (s : State) (core slot tok inst : Nat) : State :=
  let t := s.team core slot
  if t.joinReady tok inst then
    match t.arrived tok inst with
    | [] => s
    | q :: rest => rest.foldl (fun s k => s.sharePosted core slot k.1 [q.1]) (s.setTeam core slot (t.merge tok inst))
  else s

end Sys2Proof.Machine
end

