-- ==== Sys2Proof/Machine/Access.lean ====
section
/-!
DEFINITION. Performing an access (08 R174, R175, R178), parking and resuming it (19 R332, R333), watchpoints (20 R351), and what
penumbra state does to reads, stores and held instructions (10 R232 to R234).
-/

namespace Sys2Proof.Machine

open Sys2Proof

/-! ## Faults and parking -/

/-- The lowest of some addresses, with the lane that formed it. -/
def lowestAcc : List LaneAcc → Nat × Nat
  | [] => (0, 0)
  | a :: l => l.foldl (fun b q => if q.va < b.1 then (q.va, q.lane) else b) (a.va, a.lane)

def lowestLane (l : List LaneAcc) : Nat := leastOf (l.map (·.lane))

/-- The faults of a list of lanes with their translations: (va, cause, base, psz). -/
def faultsOf (l : List (LaneAcc × TRes)) (fatal : Bool) : List (Nat × Nat × Nat × Nat) :=
  l.filterMap fun q => match q.2 with
    | .bad f cause base psz => if f = fatal then some (q.1.va, cause, base, psz) else none
    | .ok .. => none

/-- Write one record per page for a list of faults (19 R330). -/
def State.postFaults (s : State) (h : Here) (src kind token : Nat) (l : List (Nat × Nat × Nat × Nat)) : State :=
  (byPage l).foldl (fun s q => s.postFault h.r.core
    (faultWords s q.1 token h.g.vi h.r.core h.r.slot h.r.path 0 src kind q.2.1 q.2.2.2)) s

/-- Park the path (08 R174 step 6, 19 R332): a wait-table entry and a record for each page, the unfinished lanes kept with
the path, stall reason 12. -/
def State.park (s : State) (h : Here) (src kind : Nat) (faults : List (Nat × Nat × Nat × Nat)) (lanes : List LaneAcc)
    (op : AccOp) (at_ resume : DWord) : State :=
  let step := fun (acc : List Nat × State) (q : Nat × Nat × Nat × Nat) =>
    let j := acc.2.joinWait h.r.core h.g.vi q.2.2.1 fun e => { e with slots := minsert h.r.slot e.slots }
    (acc.1 ++ [j.1], j.2.postFault h.r.core
      (faultWords j.2 q.1 j.1 h.g.vi h.r.core h.r.slot h.r.path 0 src kind q.2.1 q.2.2.2))
  let a := (byPage faults).foldl step ([], s)
  a.2.modPath h.r fun p => { p with wait := .parked, parked := some ⟨a.1.eraseDups, lanes, op, at_, resume⟩ }

/-- A fault that finds the fault ring without room keeps its access waiting under reason 12 (19 R331). -/
def faulting (s : State) (h : Here) (n : Nat) (k : Res) : Res :=
  if s.faultRoom h.r.core n then k else .next (s.waitFor h.r 12)

/-- All lanes of a path at one address: the unfinished mask of a team-uniform access (06 R139). -/
def Here.allLanes (h : Here) (va : Nat) : List LaneAcc := h.p.mask.map fun l => ⟨l, va, 0, 0⟩

/-- The outcome of one translation for a team-uniform instruction of `len` bytes: go on, trap MEM_FATAL, or park with all
lanes and execute it again at the replay (06 R139, 08 R182). -/
def uniformFault (s : State) (h : Here) (len src kind va : Nat) (r : TRes) (k : Nat → Nat → Bool → Nat → Nat → Res) : Res :=
  match r with
  | .ok tgt pa w base size => k tgt pa w base size
  | .bad true cause base psz =>
    faulting s h 1 <|
      .next ((s.postFaults h src kind 0 [(va, cause, base, psz)]).trapHere h.r len tcMemFatal va (leastOf h.p.mask))
  | .bad false cause base psz =>
    faulting s h 1 <|
      .next (s.park h src kind [(va, cause, base, psz)] (h.allLanes va) .again h.p.pc (h.p.pc + BitVec.ofNat 64 len))

/-- The spill area of a team in its private region, line by line, with the translations of a write or a read (01 R25, R26, 19 R336). -/
def State.spillLines (s : State) (h : Here) (n : Nat) (write : Bool) : List (LaneAcc × TRes) :=
  if h.t.privBase = 0 then []
  else (List.range (ceilDiv n 64)).map fun i =>
    (⟨leastOf h.p.mask, h.t.privBase + 64 * i, 0, 0⟩, s.translate h.r.core h.g.vi { h.t with xt := [] } (h.t.privBase + 64 * i) write)

/-- A path's spilled entries are stored in the team's private region (01 R25, R26): the entries stand in the state, and the bytes of the
area, which the spec does not lay out, become free values (log 25). -/
def State.spillStore (s : State) (r : PathRef) : State :=
  let t := s.team r.core r.slot
  let vi := (s.wg r.core t.w).vi
  let n := if t.privBase = 0 then 0 else t.spillSize
  (List.range (ceilDiv n 64)).foldl (fun s i =>
    match s.translate r.core vi { t with xt := [] } (t.privBase + 64 * i) true with
    | .ok tgt pa .. => let f := s.freeBytes (min 64 (n - 64 * i)); f.2.storeAt r tgt pa f.1
    | .bad .. => s) s

/-- After a split: what it spills is stored. -/
def State.spillAfter (s : State) (h : Here) : State :=
  if h.t.spillsMore (s.team h.r.core h.r.slot) then s.spillStore h.r else s

/-- A spill beyond the high-water mark (19 R336): cause 0x04 at the mark, from SRC 5; the path parks at its instruction of `len`
bytes and executes it again at the replay. -/
def spillFault (s : State) (h : Here) (len : Nat) : Res :=
  let va := h.t.privBase + h.t.privMark
  let leaf := match s.walk va 5 0 (fld (s.vi h.g.vi).ptroot.toNat 12 40 * 2 ^ 12) with
    | .ok (level, _) => (va / leafSize level * leafSize level, pszOf (leafSize level))
    | .error _ => (va / 2 ^ 16 * 2 ^ 16, 3)
  faulting s h 1 <|
    .next (s.park h 5 1 [(va, 0x04, leaf.1, leaf.2)] (h.allLanes va) .again h.p.pc (h.p.pc + BitVec.ofNat 64 len))

/-- Go on when every line of some spill area translates; otherwise fault from SRC 5 as any access does (19 R328, R330), the path standing
at its instruction of `len` bytes. -/
def spillAccess (s : State) (h : Here) (len kind : Nat) (lines : List (LaneAcc × TRes)) (k : Res) : Res :=
  let fatal := faultsOf lines true
  let soft := faultsOf lines false
  let low := leastOf h.p.mask
  let first := fun (l : List (Nat × Nat × Nat × Nat)) => (l.head?.map (·.1)).getD 0
  if fatal != [] then
    faulting s h (byPage fatal).length <| .next ((s.postFaults h 5 kind 0 fatal).trapHere h.r len tcMemFatal (first fatal) low)
  else if soft != [] then
    faulting s h (byPage soft).length <|
      .next (s.park h 5 kind soft (h.allLanes (first soft)) .again h.p.pc (h.p.pc + BitVec.ofNat 64 len))
  else k

/-- A split that leaves the team as `t`: what it spills has to lie below the high-water mark, in pages that take the store (01 R26, 19
R336). -/
def spillGate (s : State) (h : Here) (len : Nat) (t : Team) (k : Res) : Res :=
  if !h.t.spillsMore t then k
  else if h.t.privMark < t.spillSize then spillFault s h len
  else spillAccess s h len 1 (s.spillLines h t.spillSize true) k

/-- The line of the spill area that holds a path's fifth token-stack entry, which a pop brings back (01 R25); where in the area it
lies is not given (log 25). -/
def Here.popLine (h : Here) : Nat := (h.t.spillSize - 1) / 64

/-- A pop below the fourth entry performs one load from the private region (01 R25). -/
def popGate (s : State) (h : Here) (len : Nat) (k : State → Res) : Res :=
  if h.p.stack.length ≤ 4 then k s
  else
    let lines := (s.spillLines h h.t.spillSize false).drop h.popLine
    spillAccess s h len 0 lines <| k <| lines.foldl (fun s q => match q.2 with
      | .ok tgt pa .. => (s.loadAt h.r tgt pa 64).2
      | .bad .. => s) s

/-- An uncorrectable word that is read is logged (19 R337, R338) and raises vector 3 (21 R357). -/
def State.logRead (s : State) (h : Here) (src kind tgt va : Nat) : State :=
  let s1 := s.postFault h.r.core
    (faultWords s va 0 h.g.vi h.r.core h.r.slot h.r.path 0 src kind (if tgt = 4 then 0x23 else 0x22) 3)
  { s1 with irqs := s1.irqs ++ [(0, 3)] }

/-- The same for a path's own access. -/
def State.logBad (s : State) (h : Here) (tgt va : Nat) : State := s.logRead h 0 0 tgt va

/-- A release waits until the path's earlier scratchpad accesses are performed, and what else its scope awaits (12 R276, R278,
R280); at `.sys` and `.fab` also until what the L1 holds for a lost pool window has been written off (21 R361). -/
def releasing (s : State) (h : Here) (scope : Nat) (k : Res) : Res :=
  let lost := (s.core h.r.core).l1.dirty.filter s.poolLost
  if (s.core h.r.core).unperformed h.r.slot h.r.path scope then .next (s.stallFor h.r 2)
  else if 4 ≤ scope ∧ lost ≠ [] then .next ((s.sendKeys h.r.core lost).stallFor h.r 2)
  else k

/-- The lowest executing lane, and without one the lowest active lane (11 R241, log 36). -/
def lowestOf (h : Here) (e : Mask) : Nat := leastOf (if e = [] then h.p.mask else e)

/-! ## Penumbra state -/

/-- The unresolved ids that tag the lines of a run of scratchpad bytes. -/
def State.tagsOf (s : State) (core k n : Nat) : List Nat :=
  if n = 0 then []
  else
    let c := s.core core
    c.unresolved (((List.range ((k + n - 1) / 64 - k / 64 + 1)).map fun i => sget [] c.tags (k / 64 + i)).flatten.eraseDups)

/-- What a read of tagged lines does to a team (10 R232). -/
inductive Inherit where
  | clear (s : State)
  | wait
  | illegal
deriving DecidableEq, Repr

/-- A path of the team waits in `spres` on the slot of an own id. -/
def State.covered (s : State) (core slot id : Nat) : Bool :=
  (s.team core slot).paths.any fun q =>
    match q.2.spres with
    | some f => (sget Fs.empty (s.core core).fs f).id == id
    | none => false

/-- Inherit the ids of lines read, before any of their data is used (10 R232). -/
def State.inherit (s : State) (core slot : Nat) (ids : List Nat) : Inherit :=
  let t := s.team core slot
  let new := (ids.eraseDups).filter fun x => !t.ids.contains x
  if new = [] then .clear s
  else if t.ids.length + new.length ≤ 4 then .clear (s.setTeam core slot { t with inhIds := t.inhIds ++ new })
  else if t.ownIds.length = 4 ∧ !(t.paths.any fun q => q.2.spres.isSome) then .illegal
  else .wait

/-- Perform a read of runs (slice, key, length) of scratchpad by a team: wait under reason 13 for another core's tags,
inherit this core's (10 R232). -/
def reading (s : State) (h : Here) (len low : Nat) (runs : List (Nat × Nat × Nat)) (k : State → Res) : Res :=
  if runs.any fun q => q.1 != h.r.core && s.tagsOf q.1 q.2.1 q.2.2 != [] then .next (s.waitFor h.r 13)
  else
    let ids := (runs.map fun q => if q.1 = h.r.core then s.tagsOf h.r.core q.2.1 q.2.2 else []).flatten
    match s.inherit h.r.core h.r.slot ids with
    | .clear s1 => k s1
    | .wait => .next (s.waitFor h.r 13)
    | .illegal => trapIssue s h len tcSpecIllegal 0 low

/-- Free entries of the penumbra buffer (10 R234). -/
def CoreSt.penFree (c : CoreSt) : Nat := 1024 - c.pen.foldl (fun n e => n + e.lines) 0

/-- Record a deferred operation under the ids of a list that have not resolved: one that has committed no longer holds it back. -/
def State.defer (s : State) (r : PathRef) (ids : List Nat) (lines : Nat) (op : DefOp) : State :=
  s.modCore r.core fun c =>
    { c with pen := c.pen ++ [⟨c.nextOp, r.slot, r.path, c.unresolved ids, lines, op⟩], nextOp := c.nextOp + 1 }

/-- Record a deferred operation of `lines` entries, or wait while a commit is in progress, or trap (10 R234). -/
def deferOp (s : State) (h : Here) (len low lines : Nat) (op : DefOp) (k : State → Res) : Res :=
  let c := s.core h.r.core
  if lines ≤ c.penFree then
    k (s.defer h.r h.t.ids lines op)
  else if s.committing h.r.core then .next (s.stallFor h.r 13)
  else trapIssue s h len tcSpecIllegal 0 low

/-- An instruction that is held in penumbra state (10 R233): outside it, or once its ids have committed, it is performed; when
one was squashed it completes with no effect; it traps when the team's own resolution would wait behind it. -/
def heldGate (s : State) (h : Here) (len low : Nat) (k : Res) : Res :=
  match h.p.wait with
  | .heldDone true => k
  | .heldDone false => .next (s.finish h.r len 0)
  | .held _ => .next s
  | _ =>
    if !h.t.pen then k
    else if h.t.ownIds.all fun x => s.covered h.r.core h.r.slot x then
      .next (s.modPath h.r fun p => { p with wait := .held h.t.ids, window := 0 })
    else trapIssue s h len tcSpecIllegal 0 low

/-- A deferred store or `erel` has bytes in a run. -/
def DefOp.within (o : DefOp) (k n : Nat) : Bool :=
  match o with
  | .store bs _ => bs.any fun q => decide (k ≤ q.1) && decide (q.1 < k + n)
  | .erel tgt pa .. => overlap (pKey tgt pa) 8 k n
  | _ => false

/-- A deferred operation of the path's team that no unresolved id holds back stores to some runs. -/
def State.storesDue (s : State) (r : PathRef) (runs : List (Nat × Nat)) : Bool :=
  (s.core r.core).pen.any fun e => e.slot == r.slot && e.ids == [] && runs.any fun q => e.op.within q.1 q.2

/-- A held atomic whose ids have committed is performed before what its team has deferred (12 R298), but for earlier stores to its own
bytes, which go first (12 R267; log 48). -/
def afterStores (s : State) (h : Here) (runs : List (Nat × Nat)) (k : Res) : Res :=
  if h.p.wait == .heldDone true && s.storesDue h.r runs then
    .next (if h.t.flushing then s else s.modTeam h.r.core h.r.slot fun t => { t with flushing := true })
  else k

/-- Every id of a held instruction has resolved: whether all committed. -/
def CoreSt.heldVerdict (c : CoreSt) (ids : List Nat) : Option Bool :=
  if ids.any fun x => c.idState x == .unresolved then none else some (ids.all fun x => c.idState x != .squashed)

/-! ## Places -/

/-- Where a lane's access goes: a window address is placed without translation (08 R168), others are translated. -/
def State.place (s : State) (h : Here) (va : Nat) (write : Bool) : TRes :=
  match windowOf va with
  | some sa =>
    match s.spPlace h.g.vi h.r.core sa with
    | some q => .ok 4 (q.1 * 2 ^ 22 + q.2) true 0 0
    | none => .bad true 0x01 0 3
  | none => s.translate h.r.core h.g.vi h.t va write

/-- A watchpoint comparator matches an access of n bytes (20 R351): its number. -/
def State.watchHit (s : State) (core vi va n : Nat) (rd wr : Bool) : Option Nat :=
  let c := s.core core
  (List.range 4).find? fun i =>
    let w := (sget 0 c.wp i).toNat
    let k := (sget 0 c.wpctl i).toNat
    let lg := k % 16
    let base := w % 2 ^ 57
    tbit w 63 && fld w 57 6 == vi && (rd && tbit k 4 || wr && tbit k 5) && 3 ≤ lg && lg ≤ 12 && base % 2 ^ lg == 0 &&
      overlap base (2 ^ lg) va n

/-- Split a rank's lanes, in ascending order, into memory-pipe passes of at most four granules a bank (08 R170): each pass with its
lanes and granules. `l` gives each lane the offsets in the slice that it names; `ls` and `gs` are the current pass. -/
def bankParts : List (Nat × List Nat) → List Nat → List Nat → List (List Nat × List Nat)
  | [], ls, gs => [(ls, gs)]
  | (lane, offs) :: l, ls, gs =>
    let new := ((offs.map (· / 16)).eraseDups).filter fun g => !gs.contains g
    if new.all fun g => ((new ++ gs).filter fun x => x % 32 == g % 32).length ≤ 4 then bankParts l (ls ++ [lane]) (new ++ gs)
    else (ls, gs) :: bankParts l [lane] (offs.map (· / 16)).eraseDups

/-- The passes of a memory instruction (01 R14, 08 R170, 11 R248): one for each rank of the active mask, more where a rank is split.
`places` are the lanes' accesses (lane, target, physical address); `idle` lanes get a value without an access, in the first pass of their
rank. -/
def memParts (core : Nat) (mask idle : Mask) (places : List (Nat × Nat × Nat)) : List (List Nat × List Nat) :=
  ((ranks mask).map fun r =>
    let mine := places.filter fun q => q.1 / 32 == r && q.2.1 == 4 && q.2.2 / 2 ^ 22 == core
    bankParts ((mine.map (·.1)).eraseDups.map fun l => (l, (mine.filter fun q => q.1 == l).map fun q => q.2.2 % 2 ^ 22))
      (idle.filter fun l => l / 32 == r) []).flatten

/-- Complete a memory-pipe instruction with lanes: its passes are noted for the issue cycle (08 R170). -/
def State.finishMem (s : State) (r : PathRef) (len : Nat) (parts : List (List Nat × List Nat)) : State :=
  (s.modCore r.core fun c => { c with banks := parts }).finish r len parts.length

/-! ## Performing lanes (08 R174 steps 3 to 6) -/

/-- The new value of an atomic (08 R178). -/
def atomNew (op : AtomOp) (ty : Ty) (old data exp : Nat) : Nat :=
  let w := ty.bits
  match op with
  | .add => if ty = .f32 then (rne32 (fadd (f32 old) (f32 data)).1).1 else (old + data) % 2 ^ w
  | .min =>
    if ty = .f32 then (fround .f32 .rne 0 false (fminmax false (f32 old) (f32 data)).1).1
    else if intOf ty old ≤ intOf ty data then old else data
  | .max =>
    if ty = .f32 then (fround .f32 .rne 0 false (fminmax true (f32 old) (f32 data)).1).1
    else if intOf ty data ≤ intOf ty old then old else data
  | .and => old &&& data
  | .or => old ||| data
  | .xor => old ^^^ data
  | .exch => data
  | .cas => if old = exp then data else old

def AccOp.writes : AccOp → Bool
  | .load .. => false
  | .store _ | .atom .. => true
  | .again | .compare _ | .spill _ => false

def AccOp.kind : AccOp → Nat
  | .load .. | .again | .compare _ => 0
  | .store _ | .spill _ => 1
  | .atom .. => 2

def AccOp.ty : AccOp → Ty
  | .load ty .. | .store ty | .atom _ ty .. => ty
  | .again | .compare _ | .spill _ => .b32

/-- The vector registers that an access writes. -/
def AccOp.dests : AccOp → List Nat
  | .load ty dst _ | .atom _ ty _ _ dst _ => if ty.bytes = 8 then [dst, dst + 1] else [dst]
  | _ => []

/-- A value in a lane's register: elements under 32 bits in the low bits, higher bits 0 (07 R142). -/
def laneVal (ty : Ty) (bs : List Byte) : DWord := BitVec.ofNat 64 (ofBytes (bs.take ty.bytes))

/-- Is the atomic's address outside its space (08 R177)? -/
def AccOp.wrongSpace (op : AccOp) (tgt : Nat) : Bool :=
  match op with
  | .atom _ _ _ _ _ space => if space = 2 then tgt != 3 else tgt == 3
  | _ => false

/-- Perform one lane at its place: the value it returns, whether it is poisoned, and the state. Stores of a team in penumbra state
outside its own allocation are collected instead (10 R233). An atomic follows the path's own posted stores to its bytes (12 R267);
one that reads an uncorrectable word is logged as a load is, and its bytes stay uncorrectable (log 33). -/
def performLane (s : State) (h : Here) (op : AccOp) (a : LaneAcc) (tgt pa : Nat) : DWord × Bool × State :=
  let n := op.ty.bytes
  match op with
  | .load ty _ _ =>
    let q := s.loadAt h.r tgt pa n
    let bad := q.2.loadBad h.r tgt pa n
    (laneVal ty q.1, bad, if bad then q.2.logBad h tgt a.va else q.2)
  | .store _ =>
    let s1 := s.storeElem h.r tgt pa (bytesOf n a.data.toNat)
    (0, false, if tgt = 4 then s1.tagLines (pa / 2 ^ 22) (pKey tgt pa) n h.t.ids else s1)
  | .atom aop ty _ _ _ _ =>
    let k := pKey tgt pa
    let s1 := if tgt < 3 then (s.l1Drop h.r.core (lineOf k)).performPosted h.r.core (fun q => q.slot == linkSlot) k n
      else s.performPosted h.r.core (fun q => q.ownOf h.r.slot h.r.path) k n
    let old := s1.mnat (pKey tgt pa) n
    let new := atomNew aop ty old a.data.toNat a.exp.toNat
    let bad := s1.mbad k n
    let marks := s1.memPoison.filter fun a => decide (k ≤ a) && decide (a < k + n)
    let s2 := if !bad then s1.mput (pKey tgt pa) (bytesOf n new)
      else
        let s3 := (s1.mput (pKey tgt pa) (bytesOf n new)).logRead h 0 2 tgt a.va
        { s3 with memPoison := marks.foldl (fun l b => minsert b l) s3.memPoison }
    (BitVec.ofNat 64 old, bad, if tgt = 4 then s2.tagLines (pa / 2 ^ 22) (pKey tgt pa) n h.t.ids else s2)
  | .again | .compare _ | .spill _ => (0, false, s)

/-- The bytes a deferred store holds, lane after lane (10 R233). -/
def defBytes (n : Nat) (l : List (LaneAcc × Nat × Nat)) : List (Nat × Byte) :=
  (l.map fun q => (List.range n).map fun i =>
    (pKey q.2.1 q.2.2 + i, BitVec.ofNat 8 (q.1.data.toNat / 2 ^ (8 * i)))).flatten

/-- Distinct 64-byte lines of a list of addresses (10 R234). -/
def lineCount (l : List (Nat × Byte)) : Nat := (l.map fun q => q.1 / 64).eraseDups.length

/-- Of lanes that write one place with one store, only the highest (12 R267). -/
def lastWins : List (LaneAcc × Nat × Nat) → List (LaneAcc × Nat × Nat)
  | [] => []
  | q :: l => if l.any fun k => k.2 == q.2 then lastWins l else q :: lastWins l

/-- The result of performing lanes: poisoned lanes too. -/
def performAll (s : State) (h : Here) (op : AccOp) (l : List (LaneAcc × Nat × Nat)) :
    List (Nat × DWord) × List Nat × State :=
  l.foldl (fun acc q =>
    let v := performLane acc.2.2 h op q.1 q.2.1 q.2.2
    (acc.1 ++ [(q.1.lane, v.1)], (if v.2.1 then acc.2.1 ++ [q.1.lane] else acc.2.1), v.2.2)) ([], [], s)

/-- Add the destination data of a load or atomic to the path's pending list (11 R253). -/
def State.addPend (s : State) (r : PathRef) (op : AccOp) (vals : List (Nat × DWord)) (poison : List Nat) : State :=
  match op with
  | .load ty dst reason =>
    if vals = [] then s else s.modPath r fun p => { p with pend := p.pend ++ [⟨dst, vals, ty.bytes == 8, reason, poison, [], []⟩] }
  | .atom _ ty _ _ dst space =>
    if vals = [] then s
    else s.modPath r fun p => { p with pend := p.pend ++ [⟨dst, vals, ty.bytes == 8, if space = 1 then 3 else 2, poison, [], []⟩] }
  | _ => s

/-- Note the lanes of the newest data on their way that come from pooled memory (21 R361). -/
def State.markFar (s : State) (r : PathRef) (l : List (LaneAcc × Nat × Nat)) : State :=
  let far := (l.filter fun q => q.2.1 == 2).map fun q => (q.1.lane, pKey 2 q.2.2, s.time3)
  if far = [] then s
  else s.modPath r fun p => { p with pend := p.pend.modify (p.pend.length - 1) fun d => { d with far := far } }

/-- Steps 3 to 6 of 08 R174 on a list of lanes.  `fullK` is taken when a fault finds no room for its records (19 R331), `fatalK`
answers a fatal fault (records already written), `doneK` goes on after the lanes that succeed, parked when some remain.  Fault
address records name `at_` and `resume`.  The acquire of an atomic follows its last lane (12 R274). -/
def accessLanes (s : State) (h : Here) (op : AccOp) (lanes : List LaneAcc) (at_ resume : DWord)
    (fullK : Res) (fatalK : State → Nat → Nat → Res) (doneK : State → Res) : Res :=
  let tr := lanes.map fun a => (a, s.place h a.va op.writes)
  let fatal := faultsOf tr true
  let outside := (tr.filter fun q => match q.2 with
    | .ok tgt .. => op.wrongSpace tgt
    | .bad .. => false).map (·.1)
  let failing := (tr.filter fun q => match q.2 with | .bad f .. => f | .ok .. => false).map (·.1) ++ outside
  let records := (byPage (if failing != [] then fatal else faultsOf tr false)).length
  if records != 0 && !s.faultRoom h.r.core records then fullK
  else if failing != [] then
    let low := lowestAcc failing
    fatalK (s.postFaults h 0 op.kind 0 fatal) low.1 (lowestLane failing)
  else
    let good := tr.filterMap fun q => match q.2 with
      | .ok tgt pa .. => some (q.1, tgt, pa)
      | .bad .. => none
    let rest := (tr.filter fun q => match q.2 with | .bad .. => true | .ok .. => false).map (·.1)
    let s1 := tr.foldl (fun s q => if (windowOf q.1.va).isSome then s else s.tlbKeep h.r.core h.g.vi q.1.va q.2) s
    let n := op.ty.bytes
    let ownHere := fun (q : LaneAcc × Nat × Nat) =>
      q.2.1 == 4 && q.2.2 / 2 ^ 22 == h.r.core && h.g.spLo ≤ q.2.2 % 2 ^ 22 && q.2.2 % 2 ^ 22 + n ≤ h.g.spHi
    let deferred : List (LaneAcc × Nat × Nat) := match op with
      | .store _ => if h.t.pen then good.filter fun q => !ownHere q else []
      | _ => []
    let now : List (LaneAcc × Nat × Nat) := match op with
      | .store _ => lastWins (if h.t.pen then good.filter fun q => ownHere q else good)
      | _ => good
    let a := performAll s1 h op now
    let s2 := if op.dests = [] then a.2.2 else (a.2.2.addPend h.r op a.1 a.2.1).markFar h.r now
    let after := fun (s3 : State) =>
      if rest = [] then doneK (match op with | .atom _ _ o scope _ _ => s3.acqAct h.r.core o scope | _ => s3)
      else
        match doneK s3 with
        | .next s4 => .next (s4.park h 0 op.kind (faultsOf tr false) rest op at_ resume)
        | r => r
    if deferred = [] then after s2
    else
      let bs := defBytes n (lastWins deferred)
      after (s2.defer h.r h.t.ids (lineCount bs) (.store bs false))

/-- A load, store or atomic (08 R174).  `lanes` hold the addresses as the instruction formed them, `scratch` says that they
are scratchpad addresses. -/
def access (s : State) (h : Here) (len ahead : Nat) (scratch : Bool) (op : AccOp) (lanes : List LaneAcc) : Res :=
  let n := op.ty.bytes
  let hold : List Pend := match op with
    | .load ty dst reason => [⟨dst, [], ty.bytes == 8, reason, [], [], []⟩]
    | .atom _ ty _ _ dst space => [⟨dst, [], ty.bytes == 8, if space = 1 then 3 else 2, [], [], []⟩]
    | _ => []
  let passes0 := passesOf h.p.mask
  let trapA := fun (s1 : State) (cause info lane : Nat) =>
    trapAccess (if h.p.pendTrap.isSome then s else s1) h len passes0 ahead cause info lane hold
  let sa := fun (a : LaneAcc) => if scratch then some a.va else windowOf a.va
  -- step 1
  let mis := lanes.filter fun a => a.va % n != 0
  if mis != [] then trapA s tcAlign (lowestAcc mis).1 (lowestLane mis)
  else
    -- step 2
    let peer := match op with | .atom _ _ _ _ _ space => space == 2 | _ => false
    let win := lanes.filter fun a => (sa a).isSome
    let oob := if peer then win else win.filter fun a => !s.spLegal h.g h.r.core ((sa a).getD 0) n
    let low := if peer then lowestAcc oob else lowestAcc (oob.map fun a => { a with va := (sa a).getD 0 })
    if oob != [] then trapA s (if peer then tcMemFatal else tcScratchBound) low.1 (lowestLane oob)
    else
      -- watchpoints, by window address
      let full := lanes.map fun a => if scratch then { a with va := windowBase + a.va } else a
      let isAtom := match op with | .atom .. => true | _ => false
      let hits := full.filterMap fun a =>
        (s.watchHit h.r.core h.g.vi a.va n (!op.writes || isAtom) op.writes).map fun i => (a, i)
      if hits != [] ∧ !h.p.skipCmp then
        let low := lowestAcc (hits.map (·.1))
        let num := ((hits.find? fun q => q.1.va == low.1).map (·.2)).getD 0
        if h.p.pendTrap.isSome then .next (s.deliverPending h.r)
        else .next ((s.count h.r passes0).takeTrap h.r 2 num
          ⟨tcWatch, BitVec.ofNat 64 low.1, lowestLane (hits.map (·.1)), h.p.pc, h.p.pc + BitVec.ofNat 64 len, 0⟩)
      else
        -- tagged lines
        let runs := full.filterMap fun a => (windowOf a.va).bind fun v => (s.spPlace h.g.vi h.r.core v).map fun q =>
          (q.1, spKey q.1 q.2, n)
        let blocked := isAtom && runs.any fun q => (s.tagsOf q.1 q.2.1 q.2.2).any fun x => q.1 != h.r.core || !h.t.ids.contains x
        if blocked then .next (s.waitFor h.r 13)
        else
          reading s h len (lowestOf h (lanes.map (·.lane))) (if op.writes then [] else runs) fun s0 =>
            let h0 := s0.hereAt h.r
            let newLines := match op with
              | .store _ =>
                if h0.t.pen then
                  ((full.filter fun a => match windowOf a.va with
                    | some v => !s0.spOwn h.g h.r.core v n
                    | none => true).map fun a => a.va / 64).eraseDups.length
                else 0
              | _ => 0
            let c := s0.core h.r.core
            if c.penFree < newLines then
              (if s.committing h.r.core then .next (s0.stallFor h.r 13)
               else trapIssue s0 h0 len tcSpecIllegal 0 (lowestOf h (lanes.map (·.lane))))
            else
              let places := full.filterMap fun a => match s0.place h0 a.va op.writes with
                | .ok tgt pa .. => some (a.lane, tgt, pa)
                | .bad .. => some (a.lane, 0, 0)
              accessLanes s0 h0 op full h.p.pc (h.p.pc + BitVec.ofNat 64 len) (.next (s0.waitFor h.r 12))
                (fun s1 va lane => trapA s1 tcMemFatal va lane)
                fun s1 =>
                  let s2 := s1.finishMem h.r len (memParts h.r.core h.p.mask [] places)
                  .next (match op with
                    | .store _ => s2
                    | _ => s2.modPath h.r fun p => p.openWindow h.p.window ahead op.dests)

/-- The replay of a parked access (19 R333, R343): only its unfinished lanes, from step 3; lanes of a store in penumbra state need
entries of the buffer as at issue (10 R234).  A trap that waits from an earlier instruction of a window goes first.  `fatal` is a
replay with FATAL set. -/
def State.resumeParked (s : State) (r : PathRef) (fatal : Bool) : Res :=
  let h := s.hereAt r
  match h.p.parked with
  | none => .next s
  | some k =>
    let s1 := s.modPath r fun p => { p with parked := none, wait := .none }
    let trapW := fun (s2 : State) (cause va lane : Nat) => Host.Outcome.next (if h.p.pendTrap.isSome then s2.deliverPending r
      else s2.takeTrap r 0 0 ⟨cause, BitVec.ofNat 64 va, lane, k.at_, k.resume, 0⟩)
    let trapK := fun (s2 : State) (va lane : Nat) => trapW s2 tcMemFatal va lane
    let lines := match k.op with
      | .store _ => if h.t.pen then ((k.lanes.filter fun a => (windowOf a.va).isNone).map fun a => a.va / 64).eraseDups.length else 0
      | _ => 0
    if !fatal && (s.core r.core).penFree < lines then
      (if s.committing r.core then .next (s.modPath r fun p => { p with wait := .retry 13 })
       else trapW s1 tcSpecIllegal 0 (lowestLane k.lanes))
    else if fatal then
      match k.op with
      | .compare f => .next (s1.modPath r fun p => { p with wait := .compareFail f (lowestAcc k.lanes).1 })
      | _ => trapK s1 (lowestAcc k.lanes).1 (lowestLane k.lanes)
    else
      match k.op with
      | .again => .next s1
      | .compare f => .next (s1.modPath r fun p => { p with wait := .compare f })
      | .spill w => .next (s1.modPath r fun p => { p with wait := w })
      | op => accessLanes s1 (s1.hereAt r) op k.lanes k.at_ k.resume (.next s) trapK fun s2 => .next s2

end Sys2Proof.Machine
end

