-- ==== Sys2Proof/Machine/Control.lean ====
section
/-!
DEFINITION. The control group (06 R115 to R131) but for the prism.
-/

namespace Sys2Proof.Machine

open Sys2Proof

/-- The target of a control instruction (04 R84): a signed 20-bit offset in units of 8 bytes. -/
def targetOf (pc : DWord) (tgt : Nat) : DWord := pc + BitVec.ofInt 64 (8 * sext tgt 20)

/-- `bra` (06 R119). -/
def execBra (x : Ctl) (s : State) : Res :=
  onPath s fun h => .next ((s.count h.r 0).goto h.r (targetOf h.p.pc x.tgt))

/-- Split by the successors of lanes, unless the spill does not fit (01 R19, R26). -/
def splitTo (s : State) (h : Here) (order : List DWord) (succ : Nat → DWord) (token : Nat) : Res :=
  let l := h.p.mask.map fun l => (l, some (succ l))
  spillGate s h 8 (s.splitTeam h order l token) (.next ((s.split h 0 order l token).spillAfter h))

/-- The lanes' choice of a two-way branch, split in the order next, target (06 R117). -/
def branch (s : State) (h : Here) (x : Ctl) (taken : Nat → Bool) : Res :=
  let next := h.p.pc + 8
  let tgt := targetOf h.p.pc x.tgt
  splitTo s h [next, tgt] (fun l => if taken l then tgt else next) x.token

/-- `brc` (06 R120): AUX bit 0 is the sense, bit 1 the kind. -/
def execBrc (x : Ctl) (s : State) : Res :=
  onPath s fun h => branch s h x fun l =>
    (if tbit x.aux 1 then h.t.gget x.opnd else h.t.pred x.opnd l) != tbit x.aux 0

/-- A lane's test of `brv` (06 R121): non-zero bits, or a value other than ±0 after input flushing. -/
def brvTest (fm : Word) (float : Bool) (v : Word) : Bool :=
  if float then
    match flushIn fm .f32 v.toNat with
    | .num a => a.num != 0
    | _ => true
  else v != 0

/-- `brv` (06 R121). -/
def execBrv (x : Ctl) (s : State) : Res :=
  onPath s fun h => needClean s h 8 h.p.mask [x.opnd] [] <|
    branch s h x fun l => brvTest h.t.fmode (tbit x.aux 1) (h.t.vget x.opnd l) != tbit x.aux 0

/-- `brx` (06 R122): AUX holds count − 1. -/
def execBrx (x : Ctl) (s : State) : Res :=
  onPath s fun h => needClean s h 8 h.p.mask [x.opnd] [] <|
    let next := h.p.pc + 8
    let entry := fun (k : Nat) => targetOf h.p.pc x.tgt + BitVec.ofNat 64 (8 * k)
    let succ := fun l =>
      let k := (h.t.vget x.opnd l).toNat
      if k < x.aux + 1 then entry k else next
    splitTo s h (next :: (List.range (x.aux + 1)).map entry) succ x.token

/-- `call` (06 R124): every active lane gets the offset of the instruction after the call. -/
def execCall (x : Ctl) (s : State) : Res :=
  onPath s fun h =>
    let v := h.offset h.p.pc + 8
    let t := h.t.vputs x.opnd (h.p.mask.map fun l => (l, v))
    .next (((s.putTeam h t).count h.r 0).goto h.r (targetOf h.p.pc x.tgt))

/-- `ret` (06 R125).  INFO of its ALIGN and MEM_FATAL is the offset that the register holds (log 49). -/
def execRet (x : Ctl) (s : State) : Res :=
  onPath s fun h => needClean s h 8 h.p.mask [x.opnd] [] <|
    let low := leastOf h.p.mask
    let v := h.t.vget x.opnd low
    if h.p.mask.any fun l => h.t.vget x.opnd l != v then trapIssue s h 8 tcIllegalConvergence 0 low
    else if v.toNat % 8 ≠ 0 then trapIssue s h 8 tcAlign v.toNat low
    else if h.g.codeSize ≤ v.toNat then trapIssue s h 8 tcMemFatal v.toNat low
    else .next ((s.count h.r 0).goto h.r (BitVec.ofNat 64 (h.g.code + v.toNat)))

/-- `join` (06 R127, 01 R22): once the path's scratchpad stores are performed (12 R276) it arrives, and the paths merge when every
holder of the instance has arrived. -/
def execJoin (x : Ctl) (s : State) : Res :=
  onPath s fun h =>
    match h.p.stack with
    | (tok, inst) :: _ =>
      if tok = x.token then
        if h.p.wait = .join tok inst then .next (s.tryMerge h.r.core h.r.slot tok inst)
        else releasing s h 0 <| popGate s h 8 fun s1 => .next (((s1.count h.r 0).modPath h.r fun p =>
          { p with wait := .join tok inst, window := 0, skipCmp := false }).tryMerge h.r.core h.r.slot tok inst)
      else trapIssue s h 8 tcIllegalConvergence 0 (leastOf h.p.mask)
    | [] => trapIssue s h 8 tcIllegalConvergence 0 (leastOf h.p.mask)

/-- `exit` (06 R128): lanes whose guard holds leave; the others continue at next. -/
def execExit (x : Ctl) (s : State) : Res :=
  onPath s fun h =>
    let e := h.execLanes x.guard
    let next := h.p.pc + 8
    if s.exitIllegal h e then trapIssue s h 8 tcSpecIllegal 0 (leastOf e)
    else .next (s.split h 0 [next] (h.p.mask.map fun l => (l, if e.contains l then none else some next)) 0)

/-- `loop` (06 R123). -/
def execLoop (x : Ctl) (s : State) : Res :=
  onPath s fun h => needClean s h 8 [] [] [x.opnd] <|
    let v := h.t.sgetr x.opnd - 1
    let pc := if v = 0 then h.p.pc + 8 else targetOf h.p.pc x.tgt
    .next (((s.putTeam h (h.t.sputr x.opnd v)).count h.r 0).goto h.r pc)

/-- `nop` (06 R129). -/
def execNop (_x : Ctl) (s : State) : Res := onPath s fun h => .next (s.finish h.r 8 0)

/-- The key of an instruction cache line: interface and virtual line address. -/
def icKey (vi va : Nat) : Nat := vi * 2 ^ 57 + va / 64 * 64

/-- `ipref` (06 R130): asks the cluster's instruction cache for lines, the first that of the target; a target outside the image is
ignored.  No architectural effect. -/
def execIpref (x : Ctl) (s : State) : Res :=
  onPath s fun h =>
    let target := (targetOf h.p.pc x.tgt).toNat
    let inside := decide (h.g.code ≤ target) && decide (target < h.g.code + h.g.codeSize)
    let want := if inside then (List.range (x.aux + 1)).map fun i => target / 64 * 64 + 64 * i else []
    let s1 := s.modCluster (clusterOf h.r.core) fun c =>
      { c with icmiss := want.foldl (fun l a => if c.icache.contains (icKey h.g.vi a) then l
                                                else minsert (icKey h.g.vi a) l) c.icmiss }
    .next (s1.finish h.r 8 0)

/-- `yield` (06 R131): the path ranks youngest of its class until it issues again, and not in the next cycle. -/
def execYield (_x : Ctl) (s : State) : Res :=
  onPath s fun h => .next ((s.finish h.r 8 0).modPath h.r fun p => { p with yielded := 2 })

/-- JOIN_MERGE (01 R22): the paths waiting at the joins of an instance merge once every holder has arrived or ended. -/
def execJoinMerge (core slot tok inst : Nat) (s : State) : Res := .next (s.tryMerge core slot tok inst)

end Sys2Proof.Machine
end

