-- ==== Sys2Proof/Machine/Alu.lean ====
section
/-!
DEFINITION. The arithmetic of one lane (07 R142 to R152), shared by the vector instructions, the W-pair and the prism.
Patterns go in as numbers; the result is the pattern, with higher bits 0, and the flags.
-/

namespace Sys2Proof.Machine

open Sys2Proof

/-- Round an exact float result into its type, nearest even, and flush it (07 R143). -/
def fout (fm : Word) (t : Ty) (v : FVal × Flags) : Nat × Flags :=
  let r := fround t .rne 0 false v.1
  flushOut fm t (r.1, r.2 ||| v.2)

/-- Negate the second operand of a subtraction; a NaN stays as it is. -/
def aluAdd (fm : Word) (t : Ty) (a b : Nat) : Nat × Flags :=
  if t.isInt then ((a + b) % 2 ^ 32, 0) else fout fm t (fadd (flushIn fm t a) (flushIn fm t b))

def aluSub (fm : Word) (t : Ty) (a b : Nat) : Nat × Flags :=
  if t.isInt then (wrapN 32 ((a : Int) - b), 0)
  else fout fm t (fadd (flushIn fm t a) (flushIn fm t b).negate)

def aluMul (fm : Word) (t : Ty) (a b : Nat) : Nat × Flags :=
  if t.isInt then (a * b % 2 ^ 32, 0) else fout fm t (fmul (flushIn fm t a) (flushIn fm t b))

/-- bits(A × B, 63, 32), read signed for `.i32` and unsigned for `.n32`. -/
def aluMulh (t : Ty) (a b : Nat) : Nat := wrapN 64 (intOf t a * intOf t b) / 2 ^ 32

def aluMad (fm : Word) (t : Ty) (a b c : Nat) : Nat × Flags :=
  if t.isInt then ((a * b + c) % 2 ^ 32, 0)
  else fout fm t (fmad (flushIn fm t a) (flushIn fm t b) (flushIn fm t c))

def aluNeg (fm : Word) (t : Ty) (a : Nat) : Nat × Flags :=
  if t.isInt then (wrapN 32 (-(a : Int)), 0)
  else
    let v := flushIn fm t a
    ((fround t .rne 0 false v.negate).1, nvOf [v])

def aluAbs (fm : Word) (t : Ty) (a : Nat) : Nat × Flags :=
  if t.isInt then (wrapN 32 ((intOf t a).natAbs : Int), 0)
  else
    let v := flushIn fm t a
    ((fround t .rne 0 false v.absv).1, nvOf [v])

/-- Minimum or maximum (07 R146, R147); float results are a chosen operand, never inexact. -/
def aluMinMax (fm : Word) (mx : Bool) (t : Ty) (a b : Nat) : Nat × Flags :=
  if t.isInt then
    (if (if mx then intOf t a ≤ intOf t b else intOf t b ≤ intOf t a) then b else a, 0)
  else
    let v := fminmax mx (flushIn fm t a) (flushIn fm t b)
    ((fround t .rne 0 false v.1).1, v.2)

def aluNot (a : Nat) : Nat := 2 ^ 32 - 1 - a % 2 ^ 32
def aluAndn (a b : Nat) : Nat := a &&& aluNot b

/-- Shifts take bits 5:0 of B (07 R146). -/
def aluShl (a b : Nat) : Nat := let n := b % 64; if 32 ≤ n then 0 else a * 2 ^ n % 2 ^ 32
def aluShr (a b : Nat) : Nat := let n := b % 64; if 32 ≤ n then 0 else a / 2 ^ n
def aluSra (a b : Nat) : Nat := wrapN 32 (sext a 32 / ((2 ^ min (b % 64) 31 : Nat) : Int))
def aluRot (a b : Nat) : Nat := let n := b % 32; a * 2 ^ n % 2 ^ 32 + a / 2 ^ (32 - n) % 2 ^ n

/-- Bit-field extraction and insertion (07 R148). -/
def aluBfe (t : Ty) (a ctl : Nat) : Nat :=
  let o := ctl % 32
  let w := min (fld ctl 8 6) (32 - o)
  if w = 0 then 0
  else
    let x := fld a o w
    if t = .i32 then wrapN 32 (sext x w) else x

def aluBfi (a b ctl : Nat) : Nat :=
  let o := ctl % 32
  let w := min (fld ctl 8 6) (32 - o)
  b - fld b o w * 2 ^ o + a % 2 ^ w * 2 ^ o

/-- Byte j as the type's byte (07 R150). -/
def byteAs (signed : Bool) (x j : Nat) : Int := let b := fld x (8 * j) 8; if signed then sext b 8 else b

def aluDot4 (t : Ty) (a b c : Nat) : Nat × Flags :=
  let sg := t == .i32
  satInt t ((List.range 4).foldl (fun n j => n + byteAs sg a j * byteAs sg b j) (intOf t c))

def aluSad (a b c : Nat) : Nat × Flags :=
  satInt .n32 ((List.range 4).foldl (fun n j => n + (byteAs false a j - byteAs false b j).natAbs) (c : Int))

/-- The class mask of a raw pattern (07 R151). -/
def aluClass (t : Ty) (a : Nat) : Nat :=
  let f := t.fmt
  let neg := a / f.signBit % 2 == 1
  match fdecode t a with
  | .inf n => if n then 2 ^ 0 else 2 ^ 7
  | .nan s => if s then 2 ^ 8 else 2 ^ 9
  | .num _ =>
    let mag := a % f.signBit
    if mag = 0 then (if neg then 2 ^ 3 else 2 ^ 4)
    else if mag < 2 ^ f.m then (if neg then 2 ^ 2 else 2 ^ 5)
    else if neg then 2 ^ 1 else 2 ^ 6

/-- Round to an integral value of the same format (07 R152): the sign stays, IX is never set. -/
def aluRound (fm : Word) (t : Ty) (mode : RMode) (a : Nat) : Nat × Flags :=
  let v := flushIn fm t a
  match v with
  | .num x =>
    ((fround t .rne 0 false (.num ⟨x.neg, (roundNat mode x.neg 0 x.num x.den).1, 1⟩)).1, 0)
  | _ => ((fround t .rne 0 false v).1, nvOf [v])

/-- Convert an element (07 R154) under a scale, none for no scale: the exact product, then one rounding. The value before
scaling enters `%amax`. -/
def aluCvt (fm : Word) (dt st : Ty) (mode : RMode) (rnd : Nat) (scale : Option FVal) (a : Nat) : Nat × Flags :=
  let x := flushIn fm st a
  let y := match scale with
    | some k => fmul x k
    | none => (x, nvOf [x])
  let r := roundTo dt mode rnd y.1
  flushOut fm dt (r.1, r.2 ||| y.2)

end Sys2Proof.Machine
end

