-- ==== Sys2Proof/Machine/Vector.lean ====
section
/-!
DEFINITION. Vector integer, float and logic instructions (07 R146 to R152).
-/

namespace Sys2Proof.Machine

open Sys2Proof

/-- Write a vector register and OR flags, lane by lane. -/
def Team.vresults (t : Team) (d : Nat) (l : List (Nat × Nat × Flags)) : Team :=
  (t.vputs d (l.map fun q => (q.1, BitVec.ofNat 32 q.2.1))).ffOrs (l.map fun q => (q.1, q.2.2))

/-- A vector instruction that writes vD: in each executing lane a value and flags from its sources (07 R142 to R145). -/
def vectorOp (x : Args) (s : State) (srcs : List (LSel × Nat)) (f : Here → Nat → Nat × Flags) : Res :=
  onPath s fun h =>
    let e := h.execLanes x.guard
    needClean s h (argsLen x) e (readRegs x srcs) [] <|
      .next ((s.putTeam h (h.t.vresults x.d (e.map fun l => (l, f h l)))).finish h.r (argsLen x) (passesOf h.p.mask))

/-- A source in a lane as a number. -/
def Here.na (h : Here) (x : Args) (l : Nat) : Nat := (h.vsrc x .a x.a l).toNat
def Here.nb (h : Here) (x : Args) (l : Nat) : Nat := (h.vsrc x .b x.b l).toNat
def Here.nc (h : Here) (x : Args) (l : Nat) : Nat := (h.vsrc x .c x.c l).toNat

def vA (x : Args) : List (LSel × Nat) := [(.a, x.a)]
def vAB (x : Args) : List (LSel × Nat) := [(.a, x.a), (.b, x.b)]
def vABC (x : Args) : List (LSel × Nat) := [(.a, x.a), (.b, x.b), (.c, x.c)]

/-- `vadd` (07 R146). -/
def execVadd (x : Args) (s : State) : Res :=
  vectorOp x s (vAB x) fun h l => aluAdd h.t.fmode x.ty (h.na x l) (h.nb x l)

/-- `vsub` (07 R146). -/
def execVsub (x : Args) (s : State) : Res :=
  vectorOp x s (vAB x) fun h l => aluSub h.t.fmode x.ty (h.na x l) (h.nb x l)

/-- `vmul` (07 R146). -/
def execVmul (x : Args) (s : State) : Res :=
  vectorOp x s (vAB x) fun h l => aluMul h.t.fmode x.ty (h.na x l) (h.nb x l)

/-- `vmulh` (07 R146). -/
def execVmulh (x : Args) (s : State) : Res :=
  vectorOp x s (vAB x) fun h l => (aluMulh x.ty (h.na x l) (h.nb x l), 0)

/-- `vmad` (07 R146). -/
def execVmad (x : Args) (s : State) : Res :=
  vectorOp x s (vABC x) fun h l => aluMad h.t.fmode x.ty (h.na x l) (h.nb x l) (h.nc x l)

/-- `vneg` (07 R146). -/
def execVneg (x : Args) (s : State) : Res := vectorOp x s (vA x) fun h l => aluNeg h.t.fmode x.ty (h.na x l)

/-- `vabs` (07 R146). -/
def execVabs (x : Args) (s : State) : Res := vectorOp x s (vA x) fun h l => aluAbs h.t.fmode x.ty (h.na x l)

/-- `vmin` (07 R146, R147). -/
def execVmin (x : Args) (s : State) : Res :=
  vectorOp x s (vAB x) fun h l => aluMinMax h.t.fmode false x.ty (h.na x l) (h.nb x l)

/-- `vmax` (07 R146, R147). -/
def execVmax (x : Args) (s : State) : Res :=
  vectorOp x s (vAB x) fun h l => aluMinMax h.t.fmode true x.ty (h.na x l) (h.nb x l)

/-- `vand` (07 R146). -/
def execVand (x : Args) (s : State) : Res := vectorOp x s (vAB x) fun h l => (h.na x l &&& h.nb x l, 0)

/-- `vor` (07 R146). -/
def execVor (x : Args) (s : State) : Res := vectorOp x s (vAB x) fun h l => (h.na x l ||| h.nb x l, 0)

/-- `vxor` (07 R146). -/
def execVxor (x : Args) (s : State) : Res := vectorOp x s (vAB x) fun h l => (h.na x l ^^^ h.nb x l, 0)

/-- `vnot` (07 R146). -/
def execVnot (x : Args) (s : State) : Res := vectorOp x s (vA x) fun h l => (aluNot (h.na x l), 0)

/-- `vandn` (07 R146). -/
def execVandn (x : Args) (s : State) : Res := vectorOp x s (vAB x) fun h l => (aluAndn (h.na x l) (h.nb x l), 0)

/-- `vshl` (07 R146). -/
def execVshl (x : Args) (s : State) : Res := vectorOp x s (vAB x) fun h l => (aluShl (h.na x l) (h.nb x l), 0)

/-- `vshr` (07 R146). -/
def execVshr (x : Args) (s : State) : Res := vectorOp x s (vAB x) fun h l => (aluShr (h.na x l) (h.nb x l), 0)

/-- `vsra` (07 R146). -/
def execVsra (x : Args) (s : State) : Res := vectorOp x s (vAB x) fun h l => (aluSra (h.na x l) (h.nb x l), 0)

/-- `vrot` (07 R146). -/
def execVrot (x : Args) (s : State) : Res := vectorOp x s (vAB x) fun h l => (aluRot (h.na x l) (h.nb x l), 0)

/-- `vpop` (07 R146). -/
def execVpop (x : Args) (s : State) : Res := vectorOp x s (vA x) fun h l => (popCount (h.na x l) 32, 0)

/-- `vclz` (07 R146). -/
def execVclz (x : Args) (s : State) : Res := vectorOp x s (vA x) fun h l => (clz32 (h.na x l), 0)

/-- `vbfe` (07 R148). -/
def execVbfe (x : Args) (s : State) : Res := vectorOp x s (vAB x) fun h l => (aluBfe x.ty (h.na x l) (h.nb x l), 0)

/-- `vbfi` (07 R148). -/
def execVbfi (x : Args) (s : State) : Res :=
  vectorOp x s (vABC x) fun h l => (aluBfi (h.na x l) (h.nb x l) (h.nc x l), 0)

/-- `vcmp` (07 R149). -/
def execVcmp (c : Cond) (x : Args) (s : State) : Res :=
  onPath s fun h =>
    let e := h.execLanes x.guard
    needClean s h (argsLen x) e (readRegs x (vAB x)) [] <|
      let r := e.map fun l => (l, condOn h.t.fmode c x.ty (h.na x l) (h.nb x l))
      let t := (h.t.setPreds x.d (r.map fun q => (q.1, q.2.1))).ffOrs (r.map fun q => (q.1, q.2.2))
      .next ((s.putTeam h t).finish h.r (argsLen x) (passesOf h.p.mask))

/-- `vsel` (07 R146): SRCC names the predicate. Poison counts in the source a lane does not take too. -/
def execVsel (x : Args) (s : State) : Res :=
  vectorOp x s (vAB x) fun h l => (if h.t.pred x.c l then h.na x l else h.nb x l, 0)

/-- `vmov` (07 R146). -/
def execVmov (x : Args) (s : State) : Res := vectorOp x s (vA x) fun h l => (h.na x l, 0)

/-- `vdot4` (07 R150). -/
def execVdot4 (x : Args) (s : State) : Res :=
  vectorOp x s (vABC x) fun h l => aluDot4 x.ty (h.na x l) (h.nb x l) (h.nc x l)

/-- `vsad` (07 R150). -/
def execVsad (x : Args) (s : State) : Res :=
  vectorOp x s (vABC x) fun h l => aluSad (h.na x l) (h.nb x l) (h.nc x l)

/-- `vclass` (07 R151). -/
def execVclass (x : Args) (s : State) : Res := vectorOp x s (vA x) fun h l => (aluClass x.ty (h.na x l), 0)

/-- `vround` (07 R152): MOD gives the direction. -/
def execVround (x : Args) (s : State) : Res :=
  vectorOp x s (vA x) fun h l => aluRound h.t.fmode x.ty (RMode.ofCode x.md) (h.na x l)

end Sys2Proof.Machine
end

