-- ==== Sys2Proof/Machine/Prism.lean ====
section
/-!
DEFINITION. The prism (01 R28 to R31, 04 R97 to R103, 06 R126) and the W-pair (04 R93 to R96).
-/

namespace Sys2Proof.Machine

open Sys2Proof

/-! ## One operation of the pair subset, by lane -/

/-- The `%amax` update of a conversion (03 R76). -/
def Team.amaxOf (t : Team) (st : Ty) (a : Nat) : Team := { t with amax := amaxStep t.amax (flushIn t.fmode st a) }

/-- The result of a pair operation other than a compare (04 R94). -/
def pairAlu (fm : Word) (op : PairOp) (t t2 : Ty) (a b c : Nat) : Nat × Flags :=
  match op with
  | .add => aluAdd fm t a b
  | .sub => aluSub fm t a b
  | .mul => aluMul fm t a b
  | .mad => aluMad fm t a b c
  | .min => aluMinMax fm false t a b
  | .max => aluMinMax fm true t a b
  | .neg => aluNeg fm t a
  | .abs => aluAbs fm t a
  | .and => (a &&& b, 0)
  | .or => (a ||| b, 0)
  | .xor => (a ^^^ b, 0)
  | .not => (aluNot a, 0)
  | .andn => (aluAndn a b, 0)
  | .shl => (aluShl a b, 0)
  | .shr => (aluShr a b, 0)
  | .sra => (aluSra a b, 0)
  | .mov | .cmp => (a, 0)
  | .cvt => aluCvt fm t t2 .rne 0 none a

/-- A source of a sub-operation in a lane. -/
def Here.pairSrc (h : Here) (scalar : Bool) (r l : Nat) : Nat := (if scalar then h.t.sgetr r else h.t.vget r l).toNat

/-- The value and flags of a sub-operation in a lane; a compare gives 1 or 0. -/
def Here.subVal (h : Here) (x : SubOp) (l : Nat) : Nat × Flags :=
  let a := h.pairSrc x.ka x.a l
  let b := h.pairSrc x.kb x.b l
  if x.op = .cmp then
    let r := condOn h.t.fmode ((Cond.ofCode x.cond).getD .eq) x.ty a b
    (bit r.1, r.2)
  else pairAlu h.t.fmode x.op x.ty x.ty2 a b (h.pairSrc x.kc x.c l)

/-- Write the results of a sub-operation. -/
def Team.subWrite (t : Team) (x : SubOp) (l : List (Nat × Nat × Flags)) : Team :=
  if x.op = .cmp then (t.setPreds x.d (l.map fun q => (q.1, q.2.1 == 1))).ffOrs (l.map fun q => (q.1, q.2.2))
  else t.vresults x.d l

/-- The `%amax` updates of a sub-operation (07 R154). -/
def Team.subAmax (t : Team) (h : Here) (x : SubOp) : Team :=
  if x.op = .cvt then h.p.mask.foldl (fun t l => t.amaxOf x.ty2 (h.pairSrc x.ka x.a l)) t else t

/-- The scalar sources of a sub-operation. -/
def subSsources (x : SubOp) : List Nat :=
  (if x.ka then [x.a] else []) ++ (if 1 < x.op.sources && x.kb then [x.b] else []) ++
  (if 2 < x.op.sources && x.kc then [x.c] else [])

/-- W_PAIR (04 R96): both read all their sources before either writes. -/
def execWPair (x y : SubOp) (s : State) : Res :=
  onPath s fun h =>
    needClean s h 16 h.p.mask (x.vsources ++ y.vsources) (subSsources x ++ subSsources y) <|
      let rx := h.p.mask.map fun l => (l, h.subVal x l)
      let ry := h.p.mask.map fun l => (l, h.subVal y l)
      let t := (((h.t.subWrite x rx).subWrite y ry).subAmax h x).subAmax h y
      .next ((s.putTeam h t).finish h.r 16 (2 * passesOf h.p.mask))

/-! ## The prism -/

/-- Operand B of a test (04 R99): an immediate is extended by sign, and converted for `.f32`. -/
def Here.testB (h : Here) (x : Prism) (t : PTest) (l : Nat) : Nat :=
  match t.bkind with
  | 0 => (h.t.vget t.b l).toNat
  | 1 => (h.t.sgetr t.b).toNat
  | 2 => if t.tty = .f32 then (rne32 (.num (.ofInt (sext t.b 8)))).1 else wrapN 32 (sext t.b 8)
  | _ => x.lit.toNat

/-- Whether a test holds in a lane, with its flags. -/
def Here.testVal (h : Here) (x : Prism) (t : PTest) (l : Nat) : Bool × Flags :=
  condOn h.t.fmode t.cond t.tty (h.t.vget t.a l).toNat (h.testB x t l)

/-- The value of an arc operation (04 R102, 01 R30). -/
def arcAlu (fm : Word) (op : ArcOp) (a b : Nat) : Nat × Flags :=
  match op with
  | .mov => (a, 0)
  | .addI => aluAdd fm .i32 a b
  | .subI => aluSub fm .i32 a b
  | .mulI => aluMul fm .i32 a b
  | .and => (a &&& b, 0)
  | .or => (a ||| b, 0)
  | .xor => (a ^^^ b, 0)
  | .not => (aluNot a, 0)
  | .shl => (aluShl a b, 0)
  | .shr => (aluShr a b, 0)
  | .sra => (aluSra a b, 0)
  | .minI => aluMinMax fm false .i32 a b
  | .maxI => aluMinMax fm true .i32 a b
  | .minN => aluMinMax fm false .n32 a b
  | .maxN => aluMinMax fm true .n32 a b
  | .negI => aluNeg fm .i32 a
  | .absI => aluAbs fm .i32 a
  | .addF => aluAdd fm .f32 a b
  | .subF => aluSub fm .f32 a b
  | .mulF => aluMul fm .f32 a b
  | .minF => aluMinMax fm false .f32 a b
  | .maxF => aluMinMax fm true .f32 a b
  | .negF => aluNeg fm .f32 a
  | .absF => aluAbs fm .f32 a
  | .pset => (1, 0)
  | .pclr => (0, 0)
  | .cvtFI => aluCvt fm .f32 .i32 .rne 0 none a
  | .cvtIF => aluCvt fm .i32 .f32 .rne 0 none a

/-- The value of an arc in a lane on the registers as they stood before the prism. -/
def Here.arcVal (h : Here) (x : Prism) (r : PArc) (l : Nat) : Nat × Flags :=
  let a := if r.lf && r.op.sources == 1 then x.lit.toNat else (h.t.vget r.a l).toNat
  let b := if r.lf then x.lit.toNat else (h.t.vget r.b l).toNat
  arcAlu h.t.fmode r.op a b

/-- A walk of a lane through the tree (06 R126): the arcs crossed, root first, the flags of the tests, and the leaf's slot. -/
def Here.walkTree (h : Here) (x : Prism) (l : Nat) : Nat → Nat → List PArc × Flags × Nat
  | 0, _ => ([], 0, 0)
  | fuel + 1, n =>
    let t := h.testVal x (x.tests.getD n PTest.zero) l
    let edge := 2 * n + (if t.1 then 0 else 1)
    let arc := ((x.arcs.take x.arcn).find? fun r => r.edge == edge).toList
    if x.has (edge + 1) then
      let w := h.walkTree x l fuel (edge + 1)
      (arc ++ w.1, t.2 ||| w.2.1, w.2.2)
    else (arc, t.2, leafSlot (edge + 1))

/-- The writes of a lane: arcs from root to leaf, the deeper one last. -/
def Team.arcWrites (t : Team) (h : Here) (x : Prism) (l : Nat) (arcs : List PArc) : Team :=
  arcs.foldl (fun t r =>
    let v := h.arcVal x r l
    let t1 := match r.op with
      | .pset => t.setPred r.dst l true
      | .pclr => t.setPred r.dst l false
      | _ => t.vput r.dst l (BitVec.ofNat 32 v.1)
    t1.ffOr l v.2) t

/-- The successor of a leaf code (04 R103): none for exit. -/
def Here.leafSucc (h : Here) (x : Prism) (code : Nat) : Option DWord :=
  match code with
  | 0 => some (h.p.pc + 64)
  | 1 => some (targetOf h.p.pc x.tgtA)
  | 2 => some (targetOf h.p.pc x.tgtB)
  | _ => none

/-- `prism` (06 R126): every lane evaluates the tree on the values before the prism, all writes take effect, and the path
splits in the order next, A, B. It reads no poison trap: it has exactly two kinds of trap (01 R30). -/
def execPrism (x : Prism) (s : State) : Res :=
  onPath s fun h =>
    let e := h.execLanes x.guard
    let walks := e.map fun l => (l, h.walkTree x l 3 0)
    let leaf := fun (w : Nat × List PArc × Flags × Nat) => (w.1, h.leafSucc x (x.leaf.getD w.2.2.2 0))
    let succ := h.p.mask.map fun l =>
      match walks.find? fun w => w.1 == l with
      | some w => leaf w
      | none => (l, some (h.p.pc + 64))
    let gone := (succ.filter fun q => q.2 == none).map (·.1)
    if s.exitIllegal h gone then trapIssue s h 64 tcSpecIllegal 0 (leastOf gone)
    else
      let order := [h.p.pc + 64, targetOf h.p.pc x.tgtA, targetOf h.p.pc x.tgtB]
      let t := walks.foldl (fun t w => (t.arcWrites h x w.1 w.2.1).ffOr w.1 w.2.2.1) h.t
      spillGate s h 64 (s.splitTeam h order succ x.token) <|
        .next (((s.putTeam h t).split h (passesOf h.p.mask) order succ x.token).spillAfter h)

end Sys2Proof.Machine
end

