-- ==== Sys2Proof/Machine/Convert.lean ====
section
/-!
DEFINITION. Conversion and quantisation (07 R154 to R161, 03 R63 to R66, R69, R75 to R78).
-/

namespace Sys2Proof.Machine

open Sys2Proof

/-- Advance the generator of a lane for one element rounded under `.rst` (03 R69): its 16 random bits. -/
def Team.rstStep (t : Team) (mode : RMode) (lane : Nat) : Nat × Team :=
  if mode = .rst then
    let g := rstNext (sget 0 t.rst lane)
    (g.toNat % 2 ^ 16, { t with rst := sput 0 t.rst lane g })
  else (0, t)

/-- The optional scalar operand of 09 R193: 0 for none, 0x80 + N for sN. -/
def optScalar (f : Nat) : Option Nat := if 0x80 ≤ f then some (f - 0x80) else none

/-- The scale of a conversion (07 R154): a literal, a scalar register, or none. -/
def Here.cvtScale (h : Here) (x : Args) : Option FVal :=
  match x.lit with
  | some l => some (f32 l.val.toNat)
  | none => (optScalar x.b).map fun n => f32 (h.t.sgetr n).toNat

/-- `vcvt` (07 R154): lanes ascend, each rounds once, and `%amax` collects the unscaled magnitudes. -/
def execVcvt (x : Args) (s : State) : Res :=
  onPath s fun h =>
    let e := h.execLanes x.guard
    let st := Ty.ofCode x.ext
    let mode := RMode.ofCode x.md
    let sregs := if x.lit.isSome then [] else (optScalar x.b).toList
    needClean s h (argsLen x) e [x.a] sregs <|
      let t := e.foldl (fun t l =>
        let a := (h.t.vget x.a l).toNat
        let g := t.rstStep mode l
        let v := aluCvt h.t.fmode x.ty st mode g.1 (h.cvtScale x) a
        ((g.2.amaxOf st a).vput x.d l (BitVec.ofNat 32 v.1)).ffOr l v.2) h.t
      .next ((s.putTeam h t).finish h.r (argsLen x) (passesOf h.p.mask))

/-- `vpack` (07 R155): a is rounded first. -/
def execVpack (x : Args) (s : State) : Res :=
  onPath s fun h =>
    let e := h.execLanes x.guard
    let st := Ty.ofCode x.ext
    let mode := RMode.ofCode x.md
    let z := x.ty.bits
    needClean s h 8 e ([x.a, x.b] ++ (if z = 16 then [] else [x.c])) [] <|
      let t := e.foldl (fun t l =>
        let g1 := t.rstStep mode l
        let a := aluCvt h.t.fmode x.ty st mode g1.1 none (h.t.vget x.a l).toNat
        let g2 := g1.2.rstStep mode l
        let b := aluCvt h.t.fmode x.ty st mode g2.1 none (h.t.vget x.b l).toNat
        let c := if z = 16 then 0 else (h.t.vget x.c l).toNat
        (g2.2.vput x.d l (BitVec.ofNat 32 (c * 2 ^ (2 * z) + b.1 * 2 ^ z + a.1))).ffOr l (a.2 ||| b.2)) h.t
      .next ((s.putTeam h t).finish h.r 8 (passesOf h.p.mask))

/-- `vunpack` (07 R156): exact, subnormals kept. -/
def execVunpack (x : Args) (s : State) : Res :=
  let st := Ty.ofCode x.ext
  vectorOp x s (vA x) fun h l => aluCvt 0 x.ty st .rne 0 none (fld (h.na x l) (st.bits * x.b) st.bits)

/-! ## Block scales (03 R75) -/

/-- Insert into an ascending list. -/
def insertI (x : Int) : List Int → List Int
  | [] => [x]
  | a :: l => if x ≤ a then x :: a :: l else a :: insertI x l

/-- The exponents of the elements of a block that are non-zero and finite. -/
def blockExps (fm : Word) (l : List Nat) : List Int :=
  l.filterMap fun a => match flushIn fm .f32 a with
    | .num v => if v.num = 0 then none else some (flog2 v.num v.den)
    | _ => none

/-- The exponent chosen for a block: the smallest e for which enough elements have an exponent at most e. -/
def blockExp (fm : Word) (l : List Nat) : Option Int :=
  let es := (blockExps fm l).foldr insertI []
  let t := max 1 (ceilDiv (es.length * min 1024 (fld fm.toNat 5 11)) 1024)
  es[t - 1]?

/-- emax of an MX type. -/
def mxEmax : Ty → Int
  | .e4m3 => 8
  | .e5m2 => 15
  | _ => 2

/-- The scale code of an MX block. -/
def mxCode (t : Ty) (e : Option Int) : Nat :=
  match e with
  | none => 127
  | some e => (clampI 0 254 (e - mxEmax t + 127)).toNat

/-- The scale code of a Q4N block under super-scale S, and whether S is unusable. -/
def q4nCode (S : FVal) (e : Option Int) : Nat × Bool :=
  match S with
  | .num v =>
    if v.neg || v.num == 0 then (0, true)
    else
      match e with
      | none => (0, false)
      | some e =>
        let q := scale2 v.den v.num (e + 9)
        (min 255 (ceilDiv q.1 q.2), false)
  | _ => (0, true)

/-- `vqscale` (07 R157): blocks of 32 lanes for MX, of 64 for Q4N; every executing lane gets its block's code.  A
signalling NaN source sets no NV (log 49). -/
def execVqscale (x : Args) (s : State) : Res :=
  onPath s fun h =>
    let e := h.execLanes x.guard
    let q4 := x.ty == .q4n
    needClean s h 8 e [x.a] (if q4 then [x.b] else []) <|
      let n := if q4 then 64 else 32
      let S := f32 (h.t.sgetr x.b).toNat
      let code := fun (l : Nat) =>
        let el := (e.filter fun k => k / n == l / n).map fun k => (h.t.vget x.a k).toNat
        let ex := blockExp h.t.fmode el
        if q4 then (let c := q4nCode S ex; (c.1, if c.2 then flNV else 0)) else (mxCode x.ty ex, 0)
      .next ((s.putTeam h (h.t.vresults x.d (e.map fun l => (l, code l)))).finish h.r 8 (passesOf h.p.mask))

/-- Encode an element under an MX scale code (07 R158). -/
def mxEncode (t : Ty) (v : FVal) (e : Nat) : Nat × Flags :=
  if e % 256 = 255 then (match t.fmt.nan with | some p => (p, nvOf [v]) | none => (0, flNV))
  else
    let w := match v with
      | .num y => FVal.num (y.mul (.scaled false 1 ((127 : Int) - ((e % 256 : Nat) : Int))))
      | _ => v
    let r := fround t .rne 0 true w
    (r.1, r.2 ||| nvOf [v])

/-- S × c / 256, held exactly (03 R64, 07 R158). -/
def q4nScale (S : FVal) (c : Nat) : FVal := (fmul S (.num ⟨false, c % 256, 256⟩)).1

/-- `vqenc` (07 R158). -/
def execVqenc (x : Args) (s : State) : Res :=
  onPath s fun h =>
    let e := h.execLanes x.guard
    let q4 := x.ty == .q4n
    needClean s h 8 e [x.a, x.b] (if q4 then [x.c] else []) <|
      let S := f32 (h.t.sgetr x.c).toNat
      let one := fun (l : Nat) =>
        let v := flushIn h.t.fmode .f32 (h.t.vget x.a l).toNat
        let c := (h.t.vget x.b l).toNat % 256
        if q4 then q4nEncode v (q4nScale S c) else mxEncode x.ty v c
      .next ((s.putTeam h (h.t.vresults x.d (e.map fun l => (l, one l)))).finish h.r 8 (passesOf h.p.mask))

/-- `vqdec` (07 R159). -/
def execVqdec (x : Args) (s : State) : Res :=
  onPath s fun h =>
    let e := h.execLanes x.guard
    let st := Ty.ofCode x.ext
    let q4 := st == .q4n
    needClean s h 8 e [x.a, x.b] (if q4 then [x.c] else []) <|
      let S := f32 (h.t.sgetr x.c).toNat
      let one := fun (l : Nat) =>
        let p := (h.t.vget x.a l).toNat
        let c := (h.t.vget x.b l).toNat % 256
        fout h.t.fmode x.ty (if q4 then q4nValue S c p else mxValue st p c)
      .next ((s.putTeam h (h.t.vresults x.d (e.map fun l => (l, one l)))).finish h.r 8 (passesOf h.p.mask))

/-- `amaxrd` (07 R160): reads and clears `%amax` in one step, and in one pass, since it touches no lane (log 49). -/
def execAmaxrd (x : Args) (s : State) : Res :=
  onPath s fun h =>
    .next ((s.putTeam h ({ h.t with amax := 0 }.sputr x.d h.t.amax)).finish h.r 8 1)

/-- `vdrop` (07 R161): lanes ascend, a dropped element becomes +0, no flag and no flushing. -/
def execVdrop (x : Args) (s : State) : Res :=
  onPath s fun h =>
    let e := h.execLanes x.guard
    needClean s h 8 e [x.a] [] <|
      let t := e.foldl (fun t l =>
        let a := h.t.vget x.a l
        let v := valueOf x.ty a.toNat
        if dropped h.t.sthr v then (t.dropStep v).vput x.d l 0
        else t.vput x.d l (if x.ty = .f32 then a else BitVec.ofNat 32 (a.toNat % 2 ^ 16))) h.t
      .next ((s.putTeam h t).finish h.r 8 (passesOf h.p.mask))

end Sys2Proof.Machine
end

