-- ==== Sys2Proof/Machine/CrossLane.lean ====
section
/-!
DEFINITION. The cross-lane instructions (07 R162 to R167) and the tree of 03 R82.
-/

namespace Sys2Proof.Machine

open Sys2Proof

/-- Byte k of a word as a number. -/
def wordByte (w : Word) (k : Nat) : Nat := fld w.toNat (8 * k) 8

/-- `vperm` (07 R163): a table of 16 bytes from the even and the odd lane; a lane that does not execute gives 0. -/
def execVperm (x : Args) (s : State) : Res :=
  onPath s fun h =>
    let e := h.execLanes x.guard
    needClean s h (argsLen x) e (readRegs x [(.a, x.a)] ++ [x.b, x.b + 1]) [] <|
      let tbl := fun (l k : Nat) =>
        let src := l / 2 * 2 + k / 8
        if e.contains src then wordByte (h.t.vget (x.b + k / 4 % 2) src) (k % 4) else 0
      let one := fun (l : Nat) =>
        (List.range 4).foldl (fun n j => n + tbl l (fld (h.na x l) (4 * j) 4) * 2 ^ (8 * j)) 0
      .next ((s.putTeam h (h.t.vresults x.d (e.map fun l => (l, one l, 0)))).finish h.r (argsLen x) (passesOf h.p.mask))

/-- The source position of `vshfl` (07 R164): none outside the rank or for a reserved mode. -/
def shflSrc (l ctl : Nat) : Option Nat :=
  let i := ctl % 32
  let p := l % 32
  match fld ctl 5 3 with
  | 0 => some i
  | 1 => some (p ^^^ i)
  | 2 => if i ≤ p then some (p - i) else none
  | 3 => if p + i < 32 then some (p + i) else none
  | _ => none

/-- `vshfl` (07 R164). -/
def execVshfl (x : Args) (s : State) : Res :=
  onPath s fun h =>
    let e := h.execLanes x.guard
    needClean s h (argsLen x) e (readRegs x [(.a, x.a), (.b, x.b)]) [] <|
      let one := fun (l : Nat) =>
        let src := match shflSrc l (h.nb x l) with
          | some p => if e.contains (l / 32 * 32 + p) then l / 32 * 32 + p else l
          | none => l
        (h.t.vget x.a src).toNat
      .next ((s.putTeam h (h.t.vresults x.d (e.map fun l => (l, one l, 0)))).finish h.r (argsLen x) (passesOf h.p.mask))

/-- `vpush` (07 R165): the highest source wins, SRCC's predicate reports a collision. -/
def execVpush (x : Args) (s : State) : Res :=
  onPath s fun h =>
    let e := h.execLanes x.guard
    needClean s h (argsLen x) e (readRegs x [(.a, x.a), (.b, x.b)]) [] <|
      let dest := fun (l : Nat) => l / 32 * 32 + h.nb x l % 32
      let srcs := fun (t : Nat) => e.filter fun l => dest l == t
      let vals := e.filterMap fun t => ((srcs t).getLast?).map fun l => (t, h.vsrc x .a x.a l)
      let t := (h.t.vputs x.d vals).setPreds x.c (e.map fun t => (t, decide (2 ≤ (srcs t).length)))
      .next ((s.putTeam h t).finish h.r (argsLen x) (passesOf h.p.mask))

/-- `vbcast` (07 R162). -/
def execVbcast (x : Args) (s : State) : Res :=
  onPath s fun h =>
    let e := h.execLanes x.guard
    needClean s h (argsLen x) e [] (readRegs x [(.a, x.a)]) <|
      let v := h.ssrc x .a x.a
      .next ((s.putTeam h (h.t.vputs x.d (e.map fun l => (l, v)))).finish h.r (argsLen x) (passesOf h.p.mask))

/-! ## The tree of 03 R82 -/

/-- One combination (07 R166): wrapping integer add, `rne32` float add under `%fmode`, exact minimum and maximum.  The
flush acts at every combination (log 49). -/
def redStep (fm : Word) (op : RedOp) (t : Ty) (a b : Nat) : Nat × Flags :=
  match op with
  | .add => aluAdd fm t a b
  | .min => aluMinMax fm false t a b
  | .max => aluMinMax fm true t a b
  | .and => (a &&& b, 0)
  | .or => (a ||| b, 0)
  | .xor => (a ^^^ b, 0)

/-- A node: its value and the flags below it, none when absent. -/
abbrev Node := Option (Nat × Flags)

def redNode (fm : Word) (op : RedOp) (t : Ty) (a b : Node) : Node :=
  match a, b with
  | some x, some y =>
    let r := redStep fm op t x.1 y.1
    some (r.1, x.2 ||| y.2 ||| r.2)
  | some x, none => some x
  | none, y => y

/-- The next level: node i combines nodes 2i and 2i + 1. -/
def redLevel (fm : Word) (op : RedOp) (t : Ty) : List Node → List Node
  | a :: b :: l => redNode fm op t a b :: redLevel fm op t l
  | l => l

/-- The root over 2^n positions. -/
def redRoot (fm : Word) (op : RedOp) (t : Ty) : Nat → List Node → Node
  | 0, l => l.headD none
  | n + 1, l => redRoot fm op t n (redLevel fm op t l)

/-- The tree over the positions base to base + 2^n − 1 with the present lanes up to `last`; one present lane alone passes as it
is, not flushed (log 49). -/
def Here.redTree (h : Here) (op : RedOp) (x : Args) (e : Mask) (base n last : Nat) : Node :=
  redRoot h.t.fmode op x.ty n ((List.range (2 ^ n)).map fun i =>
    if e.contains (base + i) && base + i ≤ last then some ((h.t.vget x.a (base + i)).toNat, 0) else none)

/-- The base and height of the tree of a lane: its rank, or the team's W positions. -/
def Here.redSpan (h : Here) (team : Bool) (l : Nat) : Nat × Nat :=
  if team then (0, Nat.log2 h.t.width) else (l / 32 * 32, 5)

/-- `vred` (07 R166). -/
def execVred (team : Bool) (op : RedOp) (x : Args) (s : State) : Res :=
  vectorOp x s (vA x) fun h l =>
    let b := h.redSpan team l
    (h.redTree op x (h.execLanes x.guard) b.1 b.2 (b.1 + 2 ^ b.2)).getD (0, 0)

/-- `vscan` (07 R166): the tree with every position above the lane absent. -/
def execVscan (team : Bool) (op : RedOp) (x : Args) (s : State) : Res :=
  vectorOp x s (vA x) fun h l =>
    let b := h.redSpan team l
    (h.redTree op x (h.execLanes x.guard) b.1 b.2 l).getD (0, 0)

/-- `vballot` (07 R167). -/
def execVballot (x : Args) (s : State) : Res :=
  vectorOp x s [] fun h l =>
    (maskWord ((h.execLanes x.guard).filter fun k => h.t.pred x.a k) (l / 32), 0)

/-- `vballot.team` (07 R167): a count. -/
def execVballotTeam (x : Args) (s : State) : Res :=
  onPath s fun h =>
    let n := ((h.execLanes x.guard).filter fun k => h.t.pred x.a k).length
    .next ((s.putTeam h (h.t.sputr x.d (BitVec.ofNat 32 n))).finish h.r 8 (passesOf h.p.mask))

/-- `vid` (07 R162). -/
def execVid (x : Args) (s : State) : Res := vectorOp x s [] fun _ l => (l, 0)

end Sys2Proof.Machine
end

