-- ==== Sys2Proof/Machine/Scalar.lean ====
section
/-!
DEFINITION. Scalar integer and address instructions, control registers, translation registers (06 R132 to R140).
-/

namespace Sys2Proof.Machine

open Sys2Proof

/-- A scalar instruction that writes sD: it reads `srcs`, changes nothing else and goes on. -/
def scalarOp (x : Args) (s : State) (srcs : List (LSel × Nat)) (f : Here → Word) : Res :=
  onPath s fun h => needClean s h (argsLen x) [] [] (readRegs x srcs) <|
    .next ((s.putTeam h (h.t.sputr x.d (f h))).finish h.r (argsLen x) 0)

/-- The two usual sources. -/
def sAB (x : Args) : List (LSel × Nat) := [(.a, x.a), (.b, x.b)]

def Here.sa (h : Here) (x : Args) : Word := h.ssrc x .a x.a
def Here.sb (h : Here) (x : Args) : Word := h.ssrc x .b x.b
def Here.sc (h : Here) (x : Args) : Word := h.ssrc x .c x.c

/-- `sadd` (06 R133). -/
def execSadd (x : Args) (s : State) : Res := scalarOp x s (sAB x) fun h => h.sa x + h.sb x

/-- `ssub` (06 R133). -/
def execSsub (x : Args) (s : State) : Res := scalarOp x s (sAB x) fun h => h.sa x - h.sb x

/-- `smul` (06 R133): the low 32 bits. -/
def execSmul (x : Args) (s : State) : Res := scalarOp x s (sAB x) fun h => h.sa x * h.sb x

/-- `smulh` (06 R133): bits 63:32, signed for `.i32`. -/
def execSmulh (x : Args) (s : State) : Res :=
  scalarOp x s (sAB x) fun h => BitVec.ofNat 32 (aluMulh x.ty (h.sa x).toNat (h.sb x).toNat)

/-- `smad` (06 R133). -/
def execSmad (x : Args) (s : State) : Res :=
  scalarOp x s (sAB x ++ [(.c, x.c)]) fun h => h.sa x * h.sb x + h.sc x

/-- `sand` (06 R133). -/
def execSand (x : Args) (s : State) : Res := scalarOp x s (sAB x) fun h => h.sa x &&& h.sb x

/-- `sor` (06 R133). -/
def execSor (x : Args) (s : State) : Res := scalarOp x s (sAB x) fun h => h.sa x ||| h.sb x

/-- `sxor` (06 R133). -/
def execSxor (x : Args) (s : State) : Res := scalarOp x s (sAB x) fun h => h.sa x ^^^ h.sb x

/-- `snot` (06 R133). -/
def execSnot (x : Args) (s : State) : Res := scalarOp x s [(.a, x.a)] fun h => ~~~(h.sa x)

/-- `sshl` (06 R133): n is bits 5:0 of B, 0 from 32 on. -/
def execSshl (x : Args) (s : State) : Res :=
  scalarOp x s (sAB x) fun h => BitVec.ofNat 32 (aluShl (h.sa x).toNat (h.sb x).toNat)

/-- `sshr` (06 R133). -/
def execSshr (x : Args) (s : State) : Res :=
  scalarOp x s (sAB x) fun h => BitVec.ofNat 32 (aluShr (h.sa x).toNat (h.sb x).toNat)

/-- `ssra` (06 R133): shifts by at most 31. -/
def execSsra (x : Args) (s : State) : Res :=
  scalarOp x s (sAB x) fun h => BitVec.ofNat 32 (aluSra (h.sa x).toNat (h.sb x).toNat)

/-- `smin` (06 R133). -/
def execSmin (x : Args) (s : State) : Res :=
  scalarOp x s (sAB x) fun h => BitVec.ofNat 32 (aluMinMax 0 false x.ty (h.sa x).toNat (h.sb x).toNat).1

/-- `smax` (06 R133). -/
def execSmax (x : Args) (s : State) : Res :=
  scalarOp x s (sAB x) fun h => BitVec.ofNat 32 (aluMinMax 0 true x.ty (h.sa x).toNat (h.sb x).toNat).1

/-- `spop` (06 R133). -/
def execSpop (x : Args) (s : State) : Res :=
  scalarOp x s [(.a, x.a)] fun h => BitVec.ofNat 32 (popCount (h.sa x).toNat 32)

/-- `sclz` (06 R133): 32 for zero. -/
def execSclz (x : Args) (s : State) : Res :=
  scalarOp x s [(.a, x.a)] fun h => BitVec.ofNat 32 (clz32 (h.sa x).toNat)

/-- `scmp` (06 R134): subnormals honoured whatever `%fmode` holds, no flag. -/
def execScmp (c : Cond) (x : Args) (s : State) : Res :=
  onPath s fun h => needClean s h (argsLen x) [] [] (readRegs x (sAB x)) <|
    .next ((s.putTeam h (h.t.gput x.d (condOn 0 c x.ty (h.sa x).toNat (h.sb x).toNat).1)).finish h.r (argsLen x) 0)

/-- `ssel` (06 R133): SRCC names the guard register. -/
def execSsel (x : Args) (s : State) : Res :=
  scalarOp x s (sAB x) fun h => if h.t.gget x.c then h.sa x else h.sb x

/-- `smov` (06 R133). -/
def execSmov (x : Args) (s : State) : Res := scalarOp x s [(.a, x.a)] fun h => h.sa x

/-- `sli` (06 R133): W-literal only. -/
def execSli (x : Args) (s : State) : Res := scalarOp x s [(.a, x.a)] fun h => h.sa x

/-- A scalar instruction that writes the pair dD. -/
def pairOp (x : Args) (s : State) (regs : List Nat) (f : Here → DWord) : Res :=
  onPath s fun h => needClean s h (argsLen x) [] [] regs <|
    .next ((s.putTeam h (h.t.dput x.d (f h))).finish h.r (argsLen x) 0)

/-- Registers of two pair sources. -/
def dRegs (x : Args) : List Nat :=
  pairRegs x.a ++ (if (litFor x .b).isSome then [] else pairRegs x.b)

/-- `dadd` (06 R133): the literal is extended by sign for `.i64` and by zero for `.n64`. -/
def execDadd (x : Args) (s : State) : Res :=
  pairOp x s (dRegs x) fun h => h.t.dget x.a + h.dsrc x .b x.b (x.ty == .i64)

/-- `dsub` (06 R133). -/
def execDsub (x : Args) (s : State) : Res :=
  pairOp x s (dRegs x) fun h => h.t.dget x.a - h.dsrc x .b x.b (x.ty == .i64)

/-- `dmov` (06 R133). -/
def execDmov (x : Args) (s : State) : Res := pairOp x s (pairRegs x.a) fun h => h.t.dget x.a

/-- `slea` (06 R135): dA + ext(sB) × k + sext(disp), where the type gives the extension and k. -/
def execSlea (x : Args) (s : State) : Res :=
  pairOp x s (pairRegs x.a ++ [x.b]) fun h =>
    let b := h.t.sgetr x.b
    let e : DWord := if x.ty.isSigned then b.signExtend 64 else b.setWidth 64
    h.t.dget x.a + e * BitVec.ofNat 64 x.ty.bytes + dispOf x

/-! ## Control registers (06 R136 to R138) -/

def Wg.tile (g : Wg) (n : Nat) : Tile := sget Tile.empty g.tiles n
def Wg.setTile (g : Wg) (n : Nat) (t : Tile) : Wg := { g with tiles := sput Tile.empty g.tiles n t }

/-- The value of a control register for the issuing path; a lane-owned one gives its lowest active lane. -/
def Here.creg (h : Here) (n : Nat) : Word :=
  let low := leastOf h.p.mask
  if n = 0x00 then BitVec.ofNat 32 low
  else if n = 0x01 then BitVec.ofNat 32 h.r.path
  else if n = 0x02 then BitVec.ofNat 32 h.t.index
  else if n = 0x03 then BitVec.ofNat 32 h.g.wg
  else if n = 0x04 then BitVec.ofNat 32 h.g.lcore
  else if n = 0x05 then BitVec.ofNat 32 h.t.width
  else if n = 0x06 then BitVec.ofNat 32 (h.g.lcore * 2 ^ 22 + h.g.spLo)
  else if n = 0x07 then BitVec.ofNat 32 (h.g.spGran * 0x4000)
  else if n ≤ 0x0C then BitVec.ofNat 32 (h.g.grp.getD (n - 0x08) 0)
  else if n = 0x10 then (h.t.ffGet low).setWidth 32
  else if n = 0x11 then h.t.tfRead
  else if n = 0x12 then h.t.fmode
  else if n = 0x13 then h.t.amax
  else if n = 0x14 then h.t.sthr
  else if n = 0x15 then h.t.sdrop
  else if n = 0x16 then h.t.scnt
  else
    let t := h.g.tile ((n - 0x40) / 4)
    match (n - 0x40) % 4 with
    | 0 => t.width
    | 1 => t.rows
    | 2 => t.cols
    | _ => t.scale

/-- A control register that only reads (06 R138). -/
def cregReadOnly (n : Nat) : Bool := n ≤ 0x0C

/-- Write a team-owned or lane-owned control register (06 R137; reserved bits are discarded: 03 R70, R72, R73). -/
def Team.setCreg (t : Team) (mask : Mask) (n : Nat) (v : Word) : Team :=
  if n = 0x10 then { t with ff := mask.foldl (fun d l => sput 0 d l (v.setWidth 6)) t.ff }
  else if n = 0x11 then { t with tf := v &&& 0x3F00#32 }
  else if n = 0x12 then { t with fmode := v &&& 0xFFFFFFE3#32 }.seedRst
  else if n = 0x13 then { t with amax := v }
  else if n = 0x14 then { t with sthr := v }
  else if n = 0x15 then { t with sdrop := v }
  else if n = 0x16 then { t with scnt := v }
  else t

/-- Write a field of a tile's control state (09 R196). -/
def Tile.setCreg (t : Tile) (k : Nat) (v : Word) : Tile :=
  match k with
  | 0 => { t with width := v &&& 0x1F#32 }
  | 1 => { t with rows := v &&& 0x7F#32 }
  | 2 => { t with cols := v &&& 0x3FF#32 }
  | _ => { t with scale := v &&& 0x7#32 }

/-- A queued or running matrix step reads the tile (06 R137, 09 R206). -/
def State.tileBusy (s : State) (core w tile : Nat) : Bool :=
  let c := s.core core
  (c.running.toList ++ c.mqueue).any fun m => m.w == w && (m.ta == tile || m.tb == tile)

/-- `sget` (06 R136). -/
def execSget (x : Args) (s : State) : Res := scalarOp x s [] fun h => h.creg x.a

/-- `sset` (06 R137): DST names the register. -/
def execSset (x : Args) (s : State) : Res :=
  onPath s fun h =>
    if cregReadOnly x.d then trapIssue s h (argsLen x) tcPrivilege 0 (leastOf h.p.mask)
    else needClean s h (argsLen x) [] [] (readRegs x [(.a, x.a)]) <|
      if x.d < 0x40 then
        .next ((s.putTeam h (h.t.setCreg h.p.mask x.d (h.sa x))).finish h.r (argsLen x) 0)
      else
        let n := (x.d - 0x40) / 4
        if s.tileBusy h.r.core h.t.w n then .next (s.waitFor h.r 4)
        else
          let g := h.g.setTile n ((h.g.tile n).setCreg ((x.d - 0x40) % 4) (h.sa x))
          .next ((s.setWg h.r.core h.t.w g).finish h.r (argsLen x) 0)

/-- `sxlat` (06 R139): translates once; a limit of 0 writes an invalid entry without translating. -/
def execSxlat (x : Args) (s : State) : Res :=
  onPath s fun h => needClean s h (argsLen x) [] [] (pairRegs x.a ++ readRegs x [(.b, x.b)]) <|
    let va := (h.t.dget x.a).toNat
    let lim := (h.sb x).toNat
    let put := fun (s : State) (e : Xt) =>
      (s.modTeam h.r.core h.r.slot fun t => { t with xt := sput Xt.empty t.xt x.d e }).finish h.r (argsLen x) 0
    if 2 ^ 57 ≤ va then
      uniformFault s h (argsLen x) 4 0 va (.bad true 0x07 (va / 2 ^ 16 * 2 ^ 16) 3) fun _ _ _ _ _ => .next s
    else if lim = 0 then .next (put s Xt.empty)
    else
      uniformFault s h (argsLen x) 4 0 va (s.walkVa h.g.vi h.t va false) fun tgt pa w base size =>
        .next (put s ⟨true, va, tgt, pa, min lim (base + size - va), w, base, size⟩)

end Sys2Proof.Machine
end

