-- ==== Sys2Proof/Machine/Memory.lean ====
section
/-!
DEFINITION. Loads, stores, atomics, fences and entry consistency (08 R171 to R182).
-/

namespace Sys2Proof.Machine

open Sys2Proof

/-! ## Addresses (08 R172) -/

/-- The base register of a pair base and its three parts: pair, SE, IXP. -/
def pairBase (x : Args) : Nat × Bool × Bool := (x.a % 64, tbit x.a 6, tbit x.a 7)

/-- The index offset of a lane. -/
def Here.idxOff (h : Here) (x : Args) (se : Bool) (lane : Nat) : DWord :=
  (h.t.vget x.b lane).signExtend 64 * BitVec.ofNat 64 (if se then x.ty.bytes else 1)

/-- A displacement only where the literal is one: in an atomic it is the data. -/
def Here.vaOf (h : Here) (x : Args) (disp : DWord) (lane : Nat) : Nat :=
  let b := pairBase x
  (h.t.dget b.1 + (if b.2.2 then h.idxOff x b.2.1 lane else 0) + disp).toNat

/-- A scratchpad address: 32 bits. -/
def Here.saOf (h : Here) (x : Args) (disp : DWord) (lane : Nat) : Nat :=
  ((h.t.sgetr (x.a % 128)).setWidth 64 + h.idxOff x (tbit x.a 7) lane + disp).toNat % 2 ^ 32

/-- The vector registers of an element operand (08 R173). -/
def elemRegs (t : Ty) (r : Nat) : List Nat := if t.bytes = 8 then [r, r + 1] else [r]

/-- An element operand in a lane. -/
def Here.elem (h : Here) (t : Ty) (r lane : Nat) : DWord :=
  if t.bytes = 8 then h.t.vget64 r lane else (h.t.vget r lane).setWidth 64

/-- Vector and scalar registers that form the address. -/
def pairAddrRegs (x : Args) : List Nat × List Nat :=
  (if (pairBase x).2.2 then [x.b] else [], pairRegs (pairBase x).1)

def padAddrRegs (x : Args) : List Nat × List Nat := ([x.b], [x.a % 128])

/-! ## Loads and stores -/

/-- A load from peer memory by a team in penumbra state is held (10 R233). -/
def peerHeld (s : State) (h : Here) (len : Nat) (lanes : List LaneAcc) (k : Res) : Res :=
  if lanes.any fun a => match s.place h a.va false with
    | .ok tgt .. => tgt == 3
    | .bad .. => false
  then heldGate s h len (lowestOf h (lanes.map (·.lane))) k else k

/-- `ld` (08 R174). -/
def execLd (x : Args) (s : State) : Res :=
  onPath s fun h =>
    let e := h.execLanes x.guard
    let lanes := e.map fun l => (⟨l, h.vaOf x (dispOf x) l, 0, 0⟩ : LaneAcc)
    needClean s h (argsLen x) e (pairAddrRegs x).1 (pairAddrRegs x).2 <|
      peerHeld s h (argsLen x) lanes <| access s h (argsLen x) x.ext false (.load x.ty x.d 2) lanes

/-- `st` (08 R174). -/
def execSt (x : Args) (s : State) : Res :=
  onPath s fun h =>
    let e := h.execLanes x.guard
    let lanes := e.map fun l => (⟨l, h.vaOf x (dispOf x) l, h.elem x.ty x.d l, 0⟩ : LaneAcc)
    needClean s h (argsLen x) e ((pairAddrRegs x).1 ++ elemRegs x.ty x.d) (pairAddrRegs x).2 <|
      access s h (argsLen x) 0 false (.store x.ty) lanes

/-- `lds` (08 R174). -/
def execLds (x : Args) (s : State) : Res :=
  onPath s fun h =>
    let e := h.execLanes x.guard
    let lanes := e.map fun l => (⟨l, h.saOf x (dispOf x) l, 0, 0⟩ : LaneAcc)
    needClean s h (argsLen x) e (padAddrRegs x).1 (padAddrRegs x).2 <|
      access s h (argsLen x) x.ext true (.load x.ty x.d 3) lanes

/-- `sts` (08 R174). -/
def execSts (x : Args) (s : State) : Res :=
  onPath s fun h =>
    let e := h.execLanes x.guard
    let lanes := e.map fun l => (⟨l, h.saOf x (dispOf x) l, h.elem x.ty x.d l, 0⟩ : LaneAcc)
    needClean s h (argsLen x) e ((padAddrRegs x).1 ++ elemRegs x.ty x.d) (padAddrRegs x).2 <|
      access s h (argsLen x) 0 true (.store x.ty) lanes

/-- `pref` (08 R176): asks the L1 for the lines of aligned lanes that translate into cached memory; it never traps. -/
def execPref (x : Args) (s : State) : Res :=
  onPath s fun h =>
    let e := h.execLanes x.guard
    let step := fun (s : State) (l : Nat) =>
      let va := h.vaOf x (dispOf x) l
      if va % x.ty.bytes ≠ 0 ∨ (windowOf va).isSome then s
      else match s.translate h.r.core h.g.vi h.t va false with
        | .ok tgt pa .. => if tgt < 3 then s.l1Fill h.r.core (lineOf (pKey tgt pa)) else s
        | .bad .. => s
    .next ((e.foldl step s).finish h.r (argsLen x) (passesOf h.p.mask))

/-! ## Atomics (08 R177, R178) -/

/-- The data operand of an atomic in a lane: a literal extends to the type (04 R92). -/
def Here.atomData (h : Here) (x : Args) (lane : Nat) : DWord :=
  match litFor x .c with
  | some v => if x.ty.isSigned then v.signExtend 64 else v.setWidth 64
  | none => h.elem x.ty x.c lane

/-- The registers an atomic reads beside its address: data, and the expected value of a compare-and-swap. -/
def atomRegs (op : AtomOp) (x : Args) : List Nat :=
  (if (litFor x .c).isSome then [] else elemRegs x.ty x.c) ++ (if op = .cas then elemRegs x.ty x.d else [])

/-- The instruction is not held yet: it first waits for tags that are not its team's to clear (10 R232). -/
def Wait.awaitsTags : Wait → Bool
  | .held _ | .heldDone _ => false
  | _ => true

/-- The three atomics: held in penumbra state, a release before, an acquire after the last lane (12 R274). -/
def atomicOp (op : AtomOp) (o : Order) (x : Args) (s : State) (space : Nat) (addr : Here → Nat → Nat)
    (regs : List Nat × List Nat) : Res :=
  onPath s fun h =>
    let e := h.execLanes x.guard
    let lanes := e.map fun l => (⟨l, addr h l, h.atomData x l, h.elem x.ty x.d l⟩ : LaneAcc)
    let runs := (if space = 1 then lanes.map (·.va) else lanes.filterMap fun a => windowOf a.va).filterMap fun sa =>
      s.spPlace h.g.vi h.r.core sa
    let tagged := runs.any fun q => (s.tagsOf q.1 (spKey q.1 q.2) x.ty.bytes).any fun i => q.1 != h.r.core || !h.t.ids.contains i
    let bytes := lanes.filterMap fun a => match s.place h (if space = 1 then windowBase + a.va else a.va) true with
      | .ok tgt pa .. => some (pKey tgt pa, x.ty.bytes)
      | .bad .. => none
    needClean s h (argsLen x) e (regs.1 ++ atomRegs op x) regs.2 <|
      if h.p.wait.awaitsTags && tagged then .next (s.waitFor h.r 13)
      else heldGate s h (argsLen x) (lowestOf h e) <| afterStores s h bytes <|
        let go := access (s.relAct h.r.core o x.md) h (argsLen x) x.ext (space == 1) (.atom op x.ty o x.md x.d space) lanes
        if orderRel o then releasing s h x.md go else go

/-- `atom` (08 R178). -/
def execAtom (op : AtomOp) (o : Order) (x : Args) (s : State) : Res :=
  atomicOp op o x s 0 (fun h l => h.vaOf x 0 l) (pairAddrRegs x)

/-- `atoms` (08 R178). -/
def execAtoms (op : AtomOp) (o : Order) (x : Args) (s : State) : Res :=
  atomicOp op o x s 1 (fun h l => h.saOf x 0 l) (padAddrRegs x)

/-- `ratom` (08 R178). -/
def execRatom (op : AtomOp) (o : Order) (x : Args) (s : State) : Res :=
  atomicOp op o x s 2 (fun h l => h.vaOf x 0 l) (pairAddrRegs x)

/-! ## Fences (08 R179) -/

/-- `fence`: waits for the path's earlier accesses, then releases and acquires; a release is held in penumbra state. -/
def execFence (o : Order) (x : Args) (s : State) : Res :=
  onPath s fun h =>
    let go : Res :=
      releasing s h x.md <| .next (((s.relAct h.r.core o x.md).acqAct h.r.core o x.md).finish h.r 8 0)
    if orderRel o then heldGate s h 8 (leastOf h.p.mask) go else go

/-! ## Entry consistency (08 R180 to R182) -/

/-- The entry of an object of the workgroup's interface. -/
def CoreSt.bindOf (c : CoreSt) (vi obj : Nat) : Option Bind := c.binds.find? fun b => b.vi == vi && b.obj == obj

/-- The addresses of a region at which its space is judged: its first and last byte and every 64 KiB between. -/
def regionPoints (base len : Nat) : List Nat :=
  if len = 0 then []
  else (base :: ((List.range (len / 2 ^ 16 + 1)).map fun i => (base / 2 ^ 16 + 1 + i) * 2 ^ 16)).filter (· < base + len) ++
    [base + len - 1]

/-- The space of a target (08 R168): host and pooled memory are one, numbered 1. -/
def spaceOf (tgt : Nat) : Nat := if tgt = 2 then 1 else tgt

/-- The spaces in which a region's bytes lie, of the addresses that translate.  DESIGN CHOICE (log 49): `ebind` judges these, and
for bytes that do not translate or that the host owns it neither traps nor parks (08 R180, R182). -/
def State.regionSpaces (s : State) (h : Here) (base len : Nat) : List Nat :=
  ((regionPoints base len).filterMap fun va => match s.place h va false with
    | .ok tgt .. => some (spaceOf tgt)
    | .bad .. => none).eraseDups

/-- The runs of cached memory that a region covers, as far as it translates. -/
def State.regionRuns (s : State) (h : Here) (base len : Nat) : List (Nat × Nat) :=
  (regionPoints base len).filterMap fun va => match s.place h va false with
    | .ok tgt pa .. => if tgt < 3 then some (pKey tgt pa, min (base + len - va) (2 ^ 16 - va % 2 ^ 16)) else none
    | .bad .. => none

/-- The runs of the region bound to an object (08 R180). -/
def State.boundRuns (s : State) (h : Here) (obj : Nat) : List (Nat × Nat) :=
  match (s.core h.r.core).bindOf h.g.vi obj with
  | some b => s.regionRuns h b.base b.len
  | none => []

/-- Every resident L1 line that some runs touch; a line covered in part counts whole. -/
def State.runLines (s : State) (core : Nat) (runs : List (Nat × Nat)) : List Nat :=
  (runs.map fun q => s.l1Touched core q.1 q.2).flatten.eraseDups

/-- `ebind` (08 R180). -/
def execEbind (x : Args) (s : State) : Res :=
  onPath s fun h =>
    let low := leastOf h.p.mask
    needClean s h (argsLen x) [] [] (pairRegs x.a ++ pairRegs x.b ++ readRegs x [(.c, x.c)]) <|
      let obj := (h.t.dget x.a).toNat
      let base := (h.t.dget x.b).toNat
      let len := (h.ssrc x .c x.c).toNat
      if obj % 8 ≠ 0 then trapIssue s h (argsLen x) tcAlign obj low
      else if 1 < (s.regionSpaces h base len).length then trapIssue s h (argsLen x) tcMemFatal base low
      else
        let c := s.core h.r.core
        let done := fun (l : List Bind) => Host.Outcome.next ((s.setCore h.r.core { c with binds := l }).finish h.r (argsLen x) 0)
        match c.bindOf h.g.vi obj with
        | some _ => done (c.binds.map fun b =>
            if b.vi = h.g.vi ∧ b.obj = obj then { b with base := base, len := len, holders := minsert h.t.w b.holders } else b)
        | none =>
          if 64 ≤ c.binds.length then .next (s.waitFor h.r 15)
          else done (c.binds ++ [⟨h.g.vi, obj, base, len, [h.t.w]⟩])

/-- A workgroup leaves an entry; an entry without holders is freed (08 R180). -/
def leaveBind (w : Nat) (b : Bind) : Option Bind :=
  let l := b.holders.filter (· != w)
  if l = [] then none else some { b with holders := l }

/-- `eunbind` (08 R180): no effect when the workgroup does not hold the object. -/
def execEunbind (x : Args) (s : State) : Res :=
  onPath s fun h => needClean s h 8 [] [] (pairRegs x.a) <|
    let obj := (h.t.dget x.a).toNat
    if obj % 8 ≠ 0 then trapIssue s h 8 tcAlign obj (leastOf h.p.mask)
    else
      let c := s.core h.r.core
      .next ((s.setCore h.r.core { c with binds := c.binds.filterMap fun b =>
        if b.vi = h.g.vi ∧ b.obj = obj then leaveBind h.t.w b else some b }).finish h.r 8 0)

/-- The checks of an access to a sync object: aligned (08 R180), legal in scratchpad (R169), `.fab` for peer memory (R182), and
translated; a scratchpad object's tags are read like any others (10 R232). -/
def objectAt (s : State) (h : Here) (len kind obj scope : Nat) (rd : Bool) (k : State → Nat → Nat → Res) : Res :=
  let low := leastOf h.p.mask
  if obj % 8 ≠ 0 then trapIssue s h len tcAlign obj low
  else
    match windowOf obj with
    | some sa =>
      match s.spPlace h.g.vi h.r.core sa with
      | some q =>
        if s.spLegal h.g h.r.core sa 8 then
          reading s h len low (if rd then [(q.1, spKey q.1 q.2, 8)] else []) fun s1 => k s1 4 (q.1 * 2 ^ 22 + q.2)
        else trapIssue s h len tcScratchBound sa low
      | none => trapIssue s h len tcScratchBound sa low
    | none =>
      let r := s.translate h.r.core h.g.vi h.t obj (kind != 0)
      uniformFault s h len 0 kind obj r fun tgt pa _ _ _ =>
        if tgt = 3 ∧ scope ≠ 5 then trapIssue s h len tcIllegalEncoding 0 low
        else k (s.tlbKeep h.r.core h.g.vi obj r) tgt pa

/-- Read a sync object with acquire order at a scope (08 R181 step 1): at `.cl` and wider the L1's copy does not serve. -/
def State.readObject (s : State) (r : PathRef) (tgt pa scope : Nat) : DWord × State :=
  let s1 := if tgt < 3 ∧ 2 ≤ scope then s.l1Drop r.core (lineOf (pKey tgt pa)) else s
  let q := s1.loadAt r tgt pa 8
  (BitVec.ofNat 64 (ofBytes q.1), q.2)

/-- Read a sync object for a path; an uncorrectable word is logged (19 R337). -/
def State.acquireObject (s : State) (h : Here) (tgt pa obj scope : Nat) : DWord × State :=
  let q := s.readObject h.r tgt pa scope
  (q.1, if q.2.loadBad h.r tgt pa 8 then q.2.logBad h tgt obj else q.2)

/-- Invalidate the L1 lines of a bound region's runs, at `.cl` and wider (08 R181 step 2). -/
def State.dropRuns (s : State) (core scope : Nat) (runs : List (Nat × Nat)) : State :=
  if 2 ≤ scope then (s.runLines core runs).foldl (fun s l => s.l1Drop core l) s else s

/-- Write back the L1 lines of a bound region's runs, at `.cl` and wider (08 R182 step 1). -/
def State.cleanRuns (s : State) (core scope : Nat) (runs : List (Nat × Nat)) : State :=
  if 2 ≤ scope then (s.runLines core runs).foldl (fun s l => s.l1Release core scope l) s else s

/-- `eacq` (08 R181): the path waits under reason 2 until both steps are done, and dD is written then. -/
def execEacq (x : Args) (s : State) : Res :=
  onPath s fun h => needClean s h 8 [] [] (pairRegs x.a) <|
    let obj := (h.t.dget x.a).toNat
    objectAt s h 8 0 obj x.md true fun s1 tgt pa =>
      let q := s1.acquireObject h tgt pa obj x.md
      let s3 := (q.2.dropRuns h.r.core x.md (s.boundRuns h obj)).modTeam h.r.core h.r.slot fun t => t.dput x.d q.1
      .next ((s3.finish h.r 8 0).modPath h.r fun p => { p with wait := .pause 2 })

/-- Store a sync object with release order at a scope (08 R182 step 2): at `.cl` and wider the write reaches memory. -/
def State.writeObject (s : State) (r : PathRef) (tgt pa : Nat) (v : DWord) (scope : Nat) : State :=
  let k := pKey tgt pa
  let s1 := s.storeAt r tgt pa (bytesOf 8 v.toNat)
  if tgt < 3 then
    let s2 := s1.modCore r.core fun c => { c with l1 := { c.l1 with whole := minsert k c.l1.whole } }
    if 2 ≤ scope then s2.l1Release r.core scope (lineOf k) else s2
  else s1

/-- `erel` (08 R182): deferred in penumbra state (10 R233). -/
def execErel (x : Args) (s : State) : Res :=
  onPath s fun h => needClean s h (argsLen x) [] [] (pairRegs x.a ++ (if x.lit.isSome then [] else pairRegs x.b)) <|
    let obj := (h.t.dget x.a).toNat
    let v := h.dsrc x .b x.b false
    objectAt s h (argsLen x) 1 obj x.md false fun s1 tgt pa =>
      if h.t.pen then
        deferOp s1 h (argsLen x) (leastOf h.p.mask) 1 (.erel tgt pa obj v x.md) fun s2 => .next (s2.finish h.r (argsLen x) 0)
      else releasing s1 h x.md <|
        .next (((s1.cleanRuns h.r.core x.md (s.boundRuns h obj)).writeObject h.r tgt pa v x.md).finish h.r (argsLen x) 0)

end Sys2Proof.Machine
end

