-- ==== Sys2Proof/Machine/Sync.lean ====
section
/-!
DEFINITION. Named barriers, tree barriers, timelines, rings, the shadow queue and fibres (08 R183 to R192), with the events
that complete them.
-/

namespace Sys2Proof.Machine

open Sys2Proof

/-! ## Named barriers (08 R183, R184) -/

/-- Phase `ph` has completed: wrap(P − ph) lies between 1 and 2^31 − 1. -/
def phaseDone (p ph : Word) : Bool := let d := (p - ph).toNat; 1 ≤ d && d < 2 ^ 31

/-- `nbarr` (08 R184): in penumbra state its arrival is deferred (10 R233). -/
def execNbarr (x : Args) (s : State) : Res :=
  onPath s fun h => needClean s h (argsLen x) [] [] (readRegs x [(.b, x.b)]) <|
    let e := h.execLanes x.guard
    let lanes := e.length
    let count := (h.ssrc x .b x.b).toNat
    let passes := passesOf h.p.mask
    let put := fun (s : State) =>
      ((s.modTeam h.r.core h.r.slot fun t => t.sputr x.d (h.g.bar x.a).phase).finish h.r (argsLen x) passes)
    if h.t.pen then deferOp s h (argsLen x) (lowestOf h e) 1 (.nbarr x.a lanes count) fun s1 => .next (put s1)
    else releasing s h 1 <| .next (put (s.nbArrive h.r.core h.t.w x.a lanes count))

/-- Wait for a phase of a barrier, and go on once it has completed. -/
def phaseWait (s : State) (h : Here) (len passes n : Nat) (ph : Word) : Res :=
  if phaseDone ((s.wg h.r.core h.t.w).bar n).phase ph then .next (s.complete h.r h.p.wait len passes)
  else .next (s.begins h.r h.p.wait passes (.barrier n ph))

/-- `nbwait` (08 R184): the phase is read when the wait begins. -/
def execNbwait (x : Args) (s : State) : Res :=
  onPath s fun h =>
    match h.p.wait with
    | .barrier n ph => phaseWait s h (argsLen x) 0 n ph
    | _ => needClean s h (argsLen x) [] [] (readRegs x [(.b, x.b)]) <|
        phaseWait s h (argsLen x) 0 x.a (h.ssrc x .b x.b)

/-- `nbsync` (08 R184): one arrival for each execution, then the wait for the phase it arrived in. -/
def execNbsync (x : Args) (s : State) : Res :=
  onPath s fun h =>
    match h.p.wait with
    | .barrier n ph => phaseWait s h (argsLen x) (passesOf h.p.mask) n ph
    | _ => needClean s h (argsLen x) [] [] (readRegs x [(.b, x.b)]) <|
        heldGate s h (argsLen x) (lowestOf h (h.execLanes x.guard)) <| releasing s h 1 <|
          let s1 := s.nbArrive h.r.core h.t.w x.a (h.execLanes x.guard).length (h.ssrc x .b x.b).toNat
          phaseWait s1 h (argsLen x) (passesOf h.p.mask) x.a (h.g.bar x.a).phase

/-! ## Tree barriers (08 R186) -/

/-- A declared level n of a workgroup, 3 to 7. -/
def Wg.level (g : Wg) (n : Nat) : Option Level := if n < 3 then none else g.levels[n - 3]?

def Wg.treeBar (g : Wg) (n : Nat) : TreeBar := sget TreeBar.empty g.tree n

/-- `tbar` (08 R186): write back, arrive with the path's lanes, wait for the phase, then invalidate (12 R274). -/
def execTbar (x : Args) (s : State) : Res :=
  onPath s fun h =>
    let low := leastOf h.p.mask
    match h.g.level x.a with
    | none => trapIssue s h 8 tcIllegalEncoding 0 low
    | some lv =>
      if lv.dom = 0 ∨ 4 < lv.dom then trapIssue s h 8 tcIllegalEncoding 0 low
      else if h.t.shadow then trapIssue s h 8 tcIllegalConvergence 0 low
      else
        match h.p.wait with
        | .tree _ ph =>
          if (h.g.treeBar x.a).phase = ph then .next s
          else .next ((s.acqAct h.r.core .acq lv.scope).complete h.r h.p.wait 8 0)
        | _ => heldGate s h 8 low <| releasing s h lv.scope <|
            let b := h.g.treeBar x.a
            let lanes := h.p.mask.foldl (fun l k => minsert (h.r.slot * 1024 + k) l) b.lanes
            let s1 := (s.relAct h.r.core .rel lv.scope).modWg h.r.core h.t.w fun g =>
              { g with tree := sput TreeBar.empty g.tree x.a { b with lanes := lanes } }
            .next (s1.begins h.r h.p.wait 0 (.tree x.a b.phase))

/-- Every member lane of every compute team of a context has arrived at a level. -/
def State.treeArrived (s : State) (core w n : Nat) : Bool :=
  let b := (s.wg core w).treeBar n
  (s.slotsOfWg core w).all fun k =>
    let t := s.team core k
    t.shadow || t.member.all fun l => b.lanes.contains (k * 1024 + l)

/-- Two workgroups of one launch in one group at level n. -/
def Wg.sameGroup (a b : Wg) (n : Nat) : Bool := a.sameLaunch b && a.grp.getD (n - 3) 0 == b.grp.getD (n - 3) 0

/-- TREE_BARRIER_COMPLETE (18 R323): once every workgroup of the group has arrived, the phase completes at each of them. A
saved workgroup has not arrived, and a phase in which no lane has arrived stays open. -/
def execTreeBarrierComplete (core w level : Nat) (s : State) : Res :=
  let g := s.wg core w
  let group := s.wgs.filter fun q => q.2.sameGroup g level
  let away := s.saves.any fun v => ({ v.wg with used := true } : Wg).sameGroup g level && v.vi == g.vi
  let some1 := group.any fun q => (q.2.treeBar level).lanes != []
  if (g.level level).isSome && !away && some1 && group.all fun q => s.treeArrived (q.1 / 16) (q.1 % 16) level then
    .next { s with wgs := s.wgs.map fun q =>
      if q.2.sameGroup g level then
        (q.1, { q.2 with tree := sput TreeBar.empty q.2.tree level ⟨(q.2.treeBar level).phase + 1, []⟩ })
      else q }
  else .next s

/-- Waits of an instruction that a barrier timeout applies to, once it waits for its synchronisation (08 R185). -/
def Wait.timed : Wait → Bool
  | .barrier .. | .tree .. | .timeline .. => true
  | _ => false

/-- A word is a single `nbwait`, `nbsync`, `tbar` or `tlwait` (05 R113). -/
def waitsWord (w : Nat) : Bool := decide (w % 4 < 2) && decide (0x7E ≤ fld w 2 8) && decide (fld w 2 8 ≤ 0x81)

/-- A path waits at an instruction that a barrier timeout applies to (08 R185): for its synchronisation, for its ids to resolve
(10 R233), or for what it releases (12 R276). -/
def State.timedAt (s : State) (r : PathRef) : Bool :=
  match (s.path r).wait with
  | .held _ | .heldDone _ | .retry _ => waitsWord (s.wordAt r 8)
  | w => w.timed

/-- The lanes that execute the single instruction of a word at a path: those its guard, bits 19:16, leaves (04 R85, R86). -/
def Here.guardLanes (h : Here) (w : Nat) : Mask := h.execLanes (guardOf (fld w 16 4))

/-- BARRIER_TIMEOUT (08 R185): a path that has waited T ticks at such an instruction traps. -/
def execBarrierTimeout (core slot path : Nat) (s : State) : Res :=
  let r : PathRef := ⟨core, slot, path⟩
  let h := s.hereAt r
  if h.p.live && s.timedAt r && h.p.eclipse.isNone && h.g.timeout != 0 && 3 * h.g.timeout ≤ h.p.waited then
    .next (s.trapHere r (s.lenAt r) tcBarrierTimeout 0 (lowestOf h (h.guardLanes (s.wordAt r 8))))
  else .next s

/-! ## Timelines (08 R187) -/

def Wg.timeline (g : Wg) (n : Nat) : Timeline := sget Timeline.empty g.tl n

/-- C: the largest n such that every operation numbered n or below has completed. -/
def Timeline.completed (t : Timeline) : Nat :=
  ((List.range t.issued).takeWhile fun i => (sget OpStatus.empty t.ops (i + 1)).done).length

/-- The acquire of a wait: memory that completed operations wrote leaves the L1 (09 R194). -/
def State.tlAcquire (s : State) (core w n : Nat) (v : Nat) : State :=
  let t := (s.wg core w).timeline n
  let s1 := (t.ranges.filter fun q => q.1 ≤ v).foldl (fun s q => (s.l1Touched core q.2.1 q.2.2).foldl (fun s l => s.l1Drop core l) s) s
  s1.modWg core w fun g =>
    { g.sees fun u => u.tl == n && decide (u.num ≤ v) with
      tl := smod Timeline.empty g.tl n fun t => { t with ranges := t.ranges.filter fun q => decide (v < q.1) } }

/-- Wait until C has reached a value. -/
def timelineWait (s : State) (h : Here) (len n : Nat) (v : DWord) : Res :=
  if v.toNat ≤ (h.g.timeline n).completed then .next ((s.tlAcquire h.r.core h.t.w n v.toNat).complete h.r h.p.wait len 0)
  else .next (s.begins h.r h.p.wait 0 (.timeline n v))

/-- `tlwait` (08 R187). -/
def execTlwait (x : Args) (s : State) : Res :=
  onPath s fun h =>
    match h.p.wait with
    | .timeline n v => timelineWait s h (argsLen x) n v
    | _ => needClean s h (argsLen x) [] [] (if x.lit.isSome then [] else pairRegs x.b) <|
        timelineWait s h (argsLen x) x.a (h.dsrc x .b x.b false)

/-- `tlread` (08 R187). -/
def execTlread (x : Args) (s : State) : Res :=
  onPath s fun h =>
    .next ((s.putTeam h (h.t.dput x.d (BitVec.ofNat 64 (h.g.timeline x.a).completed))).finish h.r 8 0)

/-! ## Rings (08 R188, R189) -/

/-- The ring of the issuing path's cluster, when it is configured for the path's replay. -/
def State.ringOf (s : State) (h : Here) (n : Nat) : Ring :=
  let r := sget Ring.empty (s.cluster (clusterOf h.r.core)).ring n
  if r.vi = h.g.vi ∧ r.replay = h.g.replay then r else Ring.empty

def State.setRing (s : State) (cluster n : Nat) (r : Ring) : State :=
  s.modCluster cluster fun c => { c with ring := sput Ring.empty c.ring n r }

/-- A consumer workgroup is resident on a core. -/
def State.consumerOn (s : State) (r : Ring) (core : Nat) : Bool :=
  (List.range 16).any fun w =>
    let g := s.wg core w
    g.used && g.vi == r.vi && g.replay == r.replay && g.node == r.cons

def State.ringLive (s : State) (cluster : Nat) (r : Ring) : Bool := r.cmask.any fun c => s.consumerOn r (cluster * 4 + c)

def Ring.slotAt (r : Ring) (k : Nat) : RingSlot := sget RingSlot.empty r.slot k

/-- The scratchpad key of a word of a slot in a consumer's copy. -/
def ringKey (core : Nat) (r : Ring) (slot off : Nat) : Nat := spKey core (r.area + slot * r.z + off)

/-- Fill the next slot: the words in every consumer's copy, then RING_SLOT_PUBLISH publishes it. -/
def State.ringFill (s : State) (cluster n : Nat) (r : Ring) (vals : List (Nat × Word)) : State :=
  let s1 := r.cmask.foldl (fun s c => vals.foldl (fun s q =>
    s.mput (ringKey (cluster * 4 + c) r r.wp (4 * q.1)) (bytesOf 4 q.2.toNat)) s) s
  s1.setRing cluster n
    { r with slot := sput RingSlot.empty r.slot r.wp ⟨true, false, r.cmask⟩, wp := (r.wp + 1) % r.slots }

/-- `rput` (08 R188).  A ring that is not configured has no Z: step 1 does not apply to it (log 49). -/
def execRput (x : Args) (s : State) : Res :=
  onPath s fun h =>
    let e := h.execLanes x.guard
    needClean s h 8 e [x.b] [] <|
      let cl := clusterOf h.r.core
      let r := s.ringOf h x.a
      let beyond := e.filter fun l => decide (r.z ≤ 4 * l)
      if r.slots ≠ 0 ∧ beyond ≠ [] then trapIssue s h 8 tcScratchBound (4 * leastOf beyond) (leastOf beyond)
      else if !s.ringLive cl r then trapIssue s h 8 tcRingNocons x.a (lowestOf h e)
      else
        let vals := e.map fun l => (l, h.t.vget x.b l)
        let passes := passesOf h.p.mask
        if h.t.pen then deferOp s h 8 (lowestOf h e) 1 (.rput x.a vals) fun s1 => .next (s1.finish h.r 8 passes)
        else releasing s h 2 <|
          if (r.slotAt r.wp).full then .next (s.waitFor h.r 8)
          else .next ((s.ringFill cl x.a r vals).finish h.r 8 passes)

/-- RING_SLOT_PUBLISH (08 R188): every copy of a filled slot is written. -/
def execRingSlotPublish (cluster ring slot : Nat) (s : State) : Res :=
  let r := sget Ring.empty (s.cluster cluster).ring ring
  if (r.slotAt slot).full then
    .next (s.setRing cluster ring { r with slot := smod RingSlot.empty r.slot slot fun k => { k with published := true } })
  else .next s

/-- The slot at this core's cursor holds data for it. -/
def Ring.takeable (r : Ring) (c : Nat) : Bool :=
  let k := r.slotAt (sget 0 r.cursor c)
  k.published && k.mask.contains c

/-- `rtake` (08 R189). -/
def execRtake (x : Args) (s : State) : Res :=
  onPath s fun h =>
    let e := h.execLanes x.guard
    let r := s.ringOf h x.a
    let c := h.r.core % 4
    if !r.cmask.contains c then trapIssue s h 8 tcRingNocons x.a (lowestOf h e)
    else if !r.takeable c then .next (s.waitFor h.r 8)
    else
      let slot := sget 0 r.cursor c
      let inside := e.filter fun l => decide (4 * l < r.z)
      let va := fun (l : Nat) => windowBase + h.g.lcore * 2 ^ 22 + r.area + slot * r.z + 4 * l
      let hit := if h.p.skipCmp then none
        else inside.findSome? fun l => (s.watchHit h.r.core h.g.vi (va l) 4 true false).map fun i => (l, i)
      match hit with
      | some q =>
        if h.p.pendTrap.isSome then .next (s.deliverPending h.r)
        else .next ((s.count h.r (passesOf h.p.mask)).takeTrap h.r 2 q.2
          ⟨tcWatch, BitVec.ofNat 64 (va q.1), q.1, h.p.pc, h.p.pc + 8, 0⟩)
      | none =>
        reading s h 8 (lowestOf h e) (inside.map fun l => (h.r.core, ringKey h.r.core r slot (4 * l), 4)) fun s1 =>
          let vals := e.map fun l => (l, if inside.contains l then
            BitVec.ofNat 64 (s1.mnat (ringKey h.r.core r slot (4 * l)) 4) else 0)
          let bad := inside.filter fun l => s1.mbad (ringKey h.r.core r slot (4 * l)) 4
          let s2 := bad.foldl (fun s l => s.logBad h 4 (va l)) s1
          let places := inside.map fun l => (l, 4, ringKey h.r.core r slot (4 * l) % 2 ^ 52)
          .next ((s2.addPend h.r (.load .b32 x.d 3) vals bad).finishMem h.r 8
            (memParts h.r.core h.p.mask (e.filter fun l => !inside.contains l) places))

/-- `rdone` (08 R189): held in penumbra state (10 R233). -/
def execRdone (x : Args) (s : State) : Res :=
  onPath s fun h =>
    let r := s.ringOf h x.a
    let c := h.r.core % 4
    if !r.cmask.contains c then trapIssue s h 8 tcRingNocons x.a (leastOf h.p.mask)
    else heldGate s h 8 (leastOf h.p.mask) <|
      if !r.takeable c then .next (s.waitFor h.r 8)
      else
        let slot := sget 0 r.cursor c
        let left := (r.slotAt slot).mask.filter (· != c)
        let k : RingSlot := if left = [] then RingSlot.empty else { r.slotAt slot with mask := left }
        .next ((s.setRing (clusterOf h.r.core) x.a
          { r with slot := sput RingSlot.empty r.slot slot k, cursor := sput 0 r.cursor c ((slot + 1) % r.slots) }).finish h.r 8 0)

/-! ## The shadow queue (08 R190, 01 R36) -/

/-- The shadow team of a compute team still has a member lane. -/
def State.shadowAlive (s : State) (core slot k : Nat) : Bool :=
  let t := s.team core k
  t.shadow && t.partner == some slot && t.member != []

/-- Append an entry to the window that a compute team holds. -/
def State.queuePut (s : State) (core slot : Nat) (v : Sparse Word) : State :=
  s.modTeam core slot fun t => { t with window := t.window ++ [v] }

/-- `qput` (08 R190). -/
def execQput (x : Args) (s : State) : Res :=
  onPath s fun h =>
    match h.t.partner with
    | none => trapIssue s h 8 tcIllegalEncoding 0 (lowestOf h (h.execLanes x.guard))
    | some k =>
      if !h.t.shadow then trapIssue s h 8 tcIllegalEncoding 0 (lowestOf h (h.execLanes x.guard))
      else
        let e := h.execLanes x.guard
        needClean s h 8 e [x.a] [] <|
          let v := e.foldl (fun d l => sput 0 d l (h.t.vget x.a l)) []
          let passes := passesOf h.p.mask
          if h.t.pen then deferOp s h 8 (lowestOf h e) 1 (.qput v) fun s1 => .next (s1.finish h.r 8 passes)
          else releasing s h 1 <|
            if 8 ≤ (s.team h.r.core k).window.length then .next (s.waitFor h.r 8)
            else .next ((s.queuePut h.r.core k v).finish h.r 8 passes)

/-- `qtake` (08 R190). -/
def execQtake (x : Args) (s : State) : Res :=
  onPath s fun h =>
    match h.t.partner with
    | none => trapIssue s h 8 tcIllegalEncoding 0 (lowestOf h (h.execLanes x.guard))
    | some k =>
      if h.t.shadow then trapIssue s h 8 tcIllegalEncoding 0 (lowestOf h (h.execLanes x.guard))
      else
        match h.t.window with
        | [] =>
          if s.shadowAlive h.r.core h.r.slot k then .next (s.waitFor h.r 8)
          else trapIssue s h 8 tcRingNocons 0 (lowestOf h (h.execLanes x.guard))
        | v :: rest =>
          let t := { h.t with window := rest }.vputs x.d ((h.execLanes x.guard).map fun l => (l, sget 0 v l))
          .next ((s.putTeam h t).finish h.r 8 (passesOf h.p.mask))

/-! ## Fibres (08 R191, R192) -/

def Team.fibre (t : Team) (n : Nat) : Fibre := sget Fibre.empty t.fb n
def Team.setFibre (t : Team) (n : Nat) (f : Fibre) : Team := { t with fb := sput Fibre.empty t.fb n f }

/-- Coordinate size and value type of a descriptor. -/
def Fibre.csize (f : Fibre) : Nat := if fld f.fmt.toNat 4 2 = 1 then 2 else 4
def Fibre.vt (f : Fibre) : Ty := Ty.ofCode (f.fmt.toNat % 16)

/-- The checks of `fbopen` (08 R191). -/
def Fibre.ok (f : Fibre) : Bool :=
  let v := f.fmt.toNat
  v / 2 ^ 6 == 0 && (fld v 4 2 == 1 || fld v 4 2 == 2) &&
  [Ty.f32, .f16, .bf16, .e4m3, .e5m2, .i8, .i16, .i32].contains f.vt &&
  f.cbase.toNat % f.csize == 0 && f.vbase.toNat % f.vt.bytes == 0

/-- `fbopen` (08 R191, R192).  DESIGN CHOICE (log 49): with a guard that leaves no lane it still replaces the descriptor, which is the
team's, and judges it. -/
def execFbopen (x : Args) (s : State) : Res :=
  onPath s fun h =>
    let e := h.execLanes x.guard
    needClean s h 8 e [x.b, x.c] (groupRegs x.a 3) <|
      let old := h.t.fibre x.d
      let f : Fibre :=
        { cbase := h.t.sgetr x.a, vbase := h.t.sgetr (x.a + 1), fmt := h.t.sgetr (x.a + 2),
          cur := e.foldl (fun d l => sput 0 d l (h.t.vget x.b l)) old.cur,
          fin := e.foldl (fun d l => sput 0 d l (h.t.vget x.c l)) old.fin }
      if !f.ok then trapIssue s h 8 tcLayoutMisalign 0 (lowestOf h e)
      else .next ((s.putTeam h (h.t.setFibre x.d f)).finish h.r 8 (passesOf h.p.mask))

def Fibre.c (f : Fibre) (l : Nat) : Word := sget 0 f.cur l
def Fibre.e (f : Fibre) (l : Nat) : Word := sget 0 f.fin l

/-- `fbnext` (08 R192). -/
def execFbnext (x : Args) (s : State) : Res :=
  onPath s fun h =>
    let f := h.t.fibre x.a
    let cur := (h.execLanes x.guard).foldl (fun d l => if f.c l < f.e l then sput 0 d l (f.c l + 1) else d) f.cur
    .next ((s.putTeam h (h.t.setFibre x.a { f with cur := cur })).finish h.r 8 (passesOf h.p.mask))

/-- `fbend` (08 R192). -/
def execFbend (x : Args) (s : State) : Res :=
  onPath s fun h =>
    let f := h.t.fibre x.a
    let t := h.t.setPreds x.d ((h.execLanes x.guard).map fun l => (l, decide (f.e l ≤ f.c l)))
    .next ((s.putTeam h t).finish h.r 8 (passesOf h.p.mask))

/-- A value widened: exactly to FP32, or extended by sign. -/
def widen (t : Ty) (v : Nat) : Word :=
  if t = .f32 then BitVec.ofNat 32 v
  else BitVec.ofNat 32 (aluCvt 0 (if t.isInt then .i32 else .f32) t .rne 0 none v).1

/-- `fbget` (08 R192): a coordinate and a value in each lane whose cursor is before its end. -/
def execFbget (x : Args) (s : State) : Res :=
  onPath s fun h =>
    let e := h.execLanes x.guard
    let f := h.t.fibre x.a
    let on := e.filter fun l => decide (f.c l < f.e l)
    let n := f.vt.bytes
    let ca := fun (l : Nat) => f.cbase.toNat + (f.c l).toNat * f.csize
    let va := fun (l : Nat) => f.vbase.toNat + (f.c l).toNat * n
    let accs := (on.map fun l => (l, ca l, f.csize)) ++ on.map fun l => (l, va l, n)
    let lane := fun (q : Nat × Nat × Nat) => (⟨q.1, q.2.1, 0, 0⟩ : LaneAcc)
    let trapA := fun (cause : Nat) (l : List (Nat × Nat × Nat)) =>
      trapAccess s h 8 (passesOf h.p.mask) 0 cause (lowestAcc (l.map lane)).1 (lowestLane (l.map lane)) []
    let mis := accs.filter fun q => q.2.1 % q.2.2 != 0
    let oob := accs.filter fun q => !s.spLegal h.g h.r.core q.2.1 q.2.2
    if mis ≠ [] then trapA tcAlign mis
    else if oob ≠ [] then trapA tcScratchBound oob
    else
      let hits := if h.p.skipCmp then []
        else accs.filterMap fun q => (s.watchHit h.r.core h.g.vi (windowBase + q.2.1) q.2.2 true false).map fun i => (q, i)
      match hits with
      | hit :: _ =>
        let low := lowestAcc (hits.map fun k => lane k.1)
        if h.p.pendTrap.isSome then .next (s.deliverPending h.r)
        else .next ((s.count h.r (passesOf h.p.mask)).takeTrap h.r 2 (((hits.find? fun k => k.1.2.1 == low.1).getD hit).2)
          ⟨tcWatch, BitVec.ofNat 64 (windowBase + low.1), lowestLane (hits.map fun k => lane k.1), h.p.pc, h.p.pc + 8, 0⟩)
      | [] => fbRead s h x e on ca va f
where
  /-- The reads of `fbget` and its two destinations. -/
  fbRead (s : State) (h : Here) (x : Args) (e on : Mask) (ca va : Nat → Nat) (f : Fibre) : Res :=
    let n := f.vt.bytes
    let key := fun (a : Nat) => match s.spPlace h.g.vi h.r.core a with
      | some q => (q.1, spKey q.1 q.2)
      | none => (h.r.core, 0)
    let runs := (on.map fun l => ((key (ca l)).1, (key (ca l)).2, f.csize)) ++ on.map fun l => ((key (va l)).1, (key (va l)).2, n)
    reading s h 8 (lowestOf h e) runs fun s1 =>
      let c := s1.core h.r.core
      let get := fun (a m : Nat) => ofBytes ((List.range m).map fun i =>
        c.overlay h.r.slot h.r.path ((key a).2 + i) (s1.mget ((key a).2 + i)))
      let cv := e.map fun l => (l, if on.contains l then BitVec.ofNat 64 (get (ca l) f.csize) else 0xFFFFFFFF#64)
      let vv := e.map fun l => (l, if on.contains l then (widen f.vt (get (va l) n)).setWidth 64 else 0#64)
      let badC := on.filter fun l => s1.seenBad h.r (key (ca l)).2 f.csize
      let badV := on.filter fun l => s1.seenBad h.r (key (va l)).2 n
      let s2 := badC.foldl (fun s l => s.logBad h 4 (windowBase + ca l)) s1
      let s3 := badV.foldl (fun s l => s.logBad h 4 (windowBase + va l)) s2
      let places := (on.map fun l => [(l, 4, (key (ca l)).2 % 2 ^ 52), (l, 4, (key (va l)).2 % 2 ^ 52)]).flatten
      .next (((s3.addPend h.r (.load .b32 x.d 3) cv badC).addPend h.r (.load .b32 (x.d + 1) 3) vv badV).finishMem h.r 8
        (memParts h.r.core h.p.mask (e.filter fun l => !on.contains l) places))

/-- `fbclose` (08 R192). -/
def execFbclose (x : Args) (s : State) : Res :=
  onPath s fun h => .next ((s.putTeam h (h.t.setFibre x.a Fibre.empty)).finish h.r 8 0)

end Sys2Proof.Machine
end

