-- ==== Sys2Proof/Machine/Tiles.lean ====
section
/-!
DEFINITION. Layout words (04 R104 to R106), tiles (09 R195 to R200), the order of an instruction's checks (R383), tile loads and
stores, and the zero flag.
-/

namespace Sys2Proof.Machine

open Sys2Proof

/-! ## Layout words (04 R104, R105) -/

/-- The layout word in three scalar registers. -/
def Here.layout (h : Here) (n : Nat) : Layout :=
  let b := (h.t.sgetr n).toNat
  let w1 := (h.t.sgetr (n + 1)).toNat
  let w2 := (h.t.sgetr (n + 2)).toNat
  ⟨b, fld w1 0 20, fld w1 20 12 + fld w2 0 8 * 2 ^ 12, fld w2 8 20, fld w2 28 4⟩

/-- M of the swizzled modes 1 to 3. -/
def Layout.group (l : Layout) : Nat := 4 * 2 ^ l.mode

def Layout.swizzled (l : Layout) : Bool := 1 ≤ l.mode && l.mode ≤ 3

/-- The offset of element (i2, i1, i0) from BASE, for elements of the given bits (04 R105). -/
def Layout.off (l : Layout) (bits i2 i1 i0 : Nat) : Nat :=
  let off0 := if bits = 4 then i0 / 2 else i0 * l.s0
  if l.swizzled then i2 * l.s2 + i1 * l.s1 + (fld off0 4 16 ^^^ i1 % l.group) * 16 + off0 % 16
  else if l.mode = 4 then i2 * l.s2 + i0 * l.s1 + (if bits = 4 then i1 / 2 else i1 * l.s0)
  else i2 * l.s2 + i1 * l.s1 + off0

/-- The nibble of a 4-bit element within its byte. -/
def Layout.nib (l : Layout) (i1 i0 : Nat) : Nat := (if l.mode = 4 then i1 else i0) % 2

/-- Bytes that an element of the given bits touches. -/
def zOf (bits : Nat) : Nat := if bits = 4 then 1 else bits / 8

/-- Checks 1 and 2 of 04 R106. -/
def Layout.misaligned (l : Layout) (bits : Nat) : Bool :=
  let z := zOf bits
  4 < l.mode || l.base % z != 0 || l.s1 % z != 0 || l.s2 % z != 0 || (if bits = 4 then l.s0 != 0 else l.s0 % z != 0) ||
  (l.swizzled && (l.base % 16 != 0 || (bits != 4 && l.s0 != z) || l.s1 % (16 * l.group) != 0))

/-- The end of the highest byte that a row of a swizzled layout reaches, for rows with i1 mod M = r: the highest granule
lies in the last group of 32. -/
def swizzleTop (z lastOff r : Nat) : Nat :=
  let q := min (lastOff / 16) 65535
  (List.range 32).foldl (fun m i =>
    let g := q / 32 * 32 + i
    if q < g then m else max m ((g ^^^ r) * 16 + (if g = lastOff / 16 then lastOff % 16 + z else 16))) 0

/-- The length of the run from BASE to the last byte of an extent; 0 when it is empty. -/
def Layout.span (l : Layout) (bits n2 n1 n0 : Nat) : Nat :=
  if n2 = 0 ∨ n1 = 0 ∨ n0 = 0 then 0
  else if l.swizzled then
    let lastOff := if bits = 4 then (n0 - 1) / 2 else (n0 - 1) * l.s0
    (List.range (min n1 l.group)).foldl (fun m r =>
      max m ((n2 - 1) * l.s2 + ((n1 - 1 - r) / l.group * l.group + r) * l.s1 + swizzleTop (zOf bits) lastOff r)) 0
  else l.off bits (n2 - 1) (n1 - 1) (n0 - 1) + zOf bits

/-- The lowest address of a run of scratchpad bytes that lies outside the one allocation of the launch which holds its first
byte (check 3 of 04 R106). -/
def State.spanFail (s : State) (g : Wg) (core sa n : Nat) : Option Nat :=
  if n = 0 then none
  else match s.spPlace g.vi core sa with
    | none => some sa
    | some q => match s.allocAt g q.1 q.2 1 sa with
      | none => some sa
      | some w => if q.2 + n ≤ (s.wg q.1 w).spHi then none else some (sa + ((s.wg q.1 w).spHi - q.2))

/-- Go on when a run of scratchpad bytes is within reach; otherwise SCRATCH_BOUND. -/
def spanCheck (s : State) (h : Here) (len sa n : Nat) (k : Res) : Res :=
  match s.spanFail h.g h.r.core sa n with
  | some a => trapIssue s h len tcScratchBound a (leastOf h.p.mask)
  | none => k

/-- The checks of a layout word with an extent (04 R106). -/
def layoutCheck (s : State) (h : Here) (len : Nat) (l : Layout) (bits n2 n1 n0 : Nat) (k : Res) : Res :=
  if l.misaligned bits then trapIssue s h len tcLayoutMisalign 0 (leastOf h.p.mask)
  else spanCheck s h len l.base (l.span bits n2 n1 n0) k

/-- The slice and offset of a layout's BASE. -/
def State.layPlace (s : State) (g : Wg) (core : Nat) (l : Layout) : Nat × Nat := (s.spPlace g.vi core l.base).getD (core, 0)

/-! ## Runs of bytes -/

/-- Add bytes to a list of runs, newest first, joining a run that they continue. -/
def addRun (l : List (Nat × Nat)) (k n : Nat) : List (Nat × Nat) :=
  match l with
  | (a, m) :: r => if a + m = k then (a, m + n) :: r else (k, n) :: l
  | [] => [(k, n)]

/-- Bytes by ascending key as runs, none of which leaves its 64-byte line.  DESIGN CHOICE (log 13): `tst` stores and posts such
runs, of up to 64 bytes, each of which lands whole (09 R199). -/
def byteRuns : List (Nat × Byte) → List (Nat × List Byte)
  | [] => []
  | (k, b) :: l => match byteRuns l with
    | (k', bs) :: r => if k' = k + 1 ∧ k' % 64 ≠ 0 then (k, b :: bs) :: r else (k, [b]) :: (k', bs) :: r
    | [] => [(k, [b])]

/-- What a path sees at a scratchpad key. -/
def State.seen (s : State) (r : PathRef) (k : Nat) : Byte := (s.core r.core).overlay r.slot r.path k (s.mget k)

/-! ## Tiles (09 R195 to R197) -/

/-- Bits of an element of a tile format; 0x10 is INT4 (09 R196). -/
def fmtBits (f : Nat) : Nat :=
  if f = 0x0E ∨ f = 0x0F ∨ f = 0x10 then 4
  else if f = 0x01 ∨ f = 0x0C ∨ f = 0x0D then 8
  else if f = 0x0A ∨ f = 0x0B then 16
  else 32

def fmtValid (f : Nat) : Bool := f == 0x01 || f == 0x03 || (0x09 ≤ f && f ≤ 0x10)

def Tile.fmtCode (t : Tile) : Nat := t.width.toNat
def Tile.nrows (t : Tile) : Nat := t.rows.toNat
def Tile.ncols (t : Tile) : Nat := t.cols.toNat
def Tile.bits (t : Tile) : Nat := fmtBits t.fmtCode
def Tile.axis (t : Tile) : Nat := fld t.scale.toNat 2 1
def Tile.mode (t : Tile) : Nat := fld t.scale.toNat 0 2
def Tile.blk (t : Tile) : Nat := if t.mode = 1 then 32 else 64

/-- The control state is valid (09 R197). -/
def Tile.valid (t : Tile) : Bool :=
  fmtValid t.fmtCode && (1 ≤ t.nrows && t.nrows ≤ 64) && (1 ≤ t.ncols && t.ncols * t.bits ≤ 2048) &&
  (t.bits != 4 || t.ncols % 2 == 0) && t.mode ≤ 2 && ((t.mode == 2) == (t.fmtCode == 0x0F)) &&
  (t.mode != 1 || (0x0C ≤ t.fmtCode && t.fmtCode ≤ 0x0E)) &&
  (t.mode == 0 || (if t.axis = 0 then t.ncols else t.nrows) % t.blk == 0)

/-- All (row, column) places of the extent, rows ascending. -/
def Tile.cells (t : Tile) : List (Nat × Nat) :=
  ((List.range t.nrows).map fun i => (List.range t.ncols).map fun j => (i, j)).flatten

/-- The byte of element (i, j) (09 R195). -/
def Tile.place (t : Tile) (i j : Nat) : Nat := i * 256 + j * t.bits / 8

/-- The pattern of element (i, j). -/
def Tile.elem (t : Tile) (i j : Nat) : Nat :=
  let o := t.place i j
  if t.bits = 4 then (sget 0 t.data o).toNat / 16 ^ (j % 2) % 16
  else ofBytes ((List.range (zOf t.bits)).map fun k => sget 0 t.data (o + k))

/-- Put the nibble n of a byte. -/
def nibblePut (b : Byte) (n v : Nat) : Byte :=
  let x := b.toNat
  BitVec.ofNat 8 (if n = 0 then x / 16 * 16 + v % 16 else x % 16 + v % 16 * 16)

/-- Write the pattern of element (i, j); the bytes are poisoned no longer. -/
def Tile.putElem (t : Tile) (i j v : Nat) : Tile :=
  let o := t.place i j
  let z := zOf t.bits
  let bs := if t.bits = 4 then [nibblePut (sget 0 t.data o) (j % 2) v] else bytesOf z v
  { t with data := memPuts t.data o bs, poison := t.poison.filter fun k => !(decide (o ≤ k) && decide (k < o + z)) }

/-- The scale block of element (i, j), and the number of blocks (09 R197). -/
def Tile.block (t : Tile) (i j : Nat) : Nat :=
  if t.axis = 0 then i * (t.ncols / t.blk) + j / t.blk else j * (t.nrows / t.blk) + i / t.blk

def Tile.blocks (t : Tile) : Nat := t.nrows * t.ncols / t.blk

/-- Offsets of the super-scales, and the length of the scale bytes in scratchpad (09 R198). -/
def Tile.superOff (t : Tile) : Nat := 4 * ceilDiv t.blocks 4
def Tile.superCount (t : Tile) : Nat := if t.mode = 2 then ceilDiv t.blocks 256 else 0
def Tile.scaleBytes (t : Tile) : Nat := if t.mode = 2 then t.superOff + 4 * t.superCount else t.blocks

/-- The value of a pattern in a tile format. -/
def fmtValue (f p : Nat) : FVal := if f = 0x10 then .num (.ofInt (sext p 4)) else valueOf (Ty.ofCode f) p

/-- Round to nearest even into a tile format. -/
def fmtRound (f : Nat) (v : FVal) : Nat × Flags :=
  if f = 0x10 then iroundIn 4 (-8) 7 .rne 0 v else roundTo (Ty.ofCode f) .rne 0 v

/-- The decoded operand element (i, j) with the flags of its decoding (09 R201, 03 R64, R66). -/
def Tile.operand (t : Tile) (i j : Nat) : FVal × Flags :=
  let p := t.elem i j
  let b := t.block i j
  let c := (sget 0 t.codes b).toNat
  if t.mode = 1 then mxValue (Ty.ofCode t.fmtCode) p c
  else if t.mode = 2 then
    let v := q4nValue (f32 (sget 0 t.supers (b / 256)).toNat) c p
    let r := rne32 v.1
    (f32 r.1, v.2 ||| r.2)
  else (fmtValue t.fmtCode p, 0)

/-- A byte of the extent is poisoned (19 R337). -/
def Tile.poisonedData (t : Tile) : Bool :=
  t.poison.any fun k => k / 256 < t.nrows && k % 256 < ceilDiv (t.ncols * t.bits) 8

/-- The numbers of the bytes of a tile's stores (09 R195): 16 KiB of elements, then 1,024 scale codes, then four super-scales. -/
def codeByte : Nat := 16384
def superByte : Nat := 17408
def tileStore : Nat := 17424

/-- A scale code or super-scale in use is poisoned (22 R377). -/
def Tile.poisonedScale (t : Tile) : Bool :=
  t.mode != 0 && t.poison.any fun k =>
    codeByte ≤ k && k < codeByte + t.blocks || superByte ≤ k && k < superByte + 4 * t.superCount

/-- What an instruction reads of a tile is poisoned: elements, and scales where it has them. -/
def Tile.poisoned (t : Tile) : Bool := t.poisonedData || t.poisonedScale

/-- Bytes of the scale store are written anew, and some arrive poisoned. -/
def Tile.scaleLoaded (t : Tile) (bad : List Nat) : Tile :=
  let new := fun (k : Nat) => codeByte ≤ k && k < codeByte + t.blocks || superByte ≤ k && k < superByte + 4 * t.superCount
  { t with poison := t.poison.filter (fun k => !new k) ++ bad }

/-! ## The order of the checks (09 R383) -/

/-- The waits for a tile that an instruction writes: an unfinished step reads it (09 R206), or a load of it is not whole. -/
def Here.tileHeld (h : Here) (s : State) (n : Nat) : Bool := s.tileBusy h.r.core h.t.w n || (h.g.tile n).loading

/-- The collective rule (01 R17). -/
def collective (s : State) (h : Here) (len : Nat) (k : Res) : Res :=
  if h.p.mask = h.t.member then k else trapIssue s h len tcIllegalConvergence 0 (leastOf h.p.mask)

/-- The validity of a tile (09 R197). -/
def tileOk (s : State) (h : Here) (len n : Nat) (k : Res) : Res :=
  if (h.g.tile n).valid then k else trapIssue s h len tcTileShape n (leastOf h.p.mask)

/-- An active read of a poisoned tile or accumulator cell (19 R337, 07 R145). -/
def unpoisoned (s : State) (h : Here) (len : Nat) (bad : Bool) (k : Res) : Res :=
  if bad then trapIssue s h len tcPoison (leastOf h.p.mask) (leastOf h.p.mask) else k

/-- The layout and scale checks of `tld` and `tst` (09 R198, R199); `must` says that a scaled tile needs sS. -/
def tileSpan (s : State) (h : Here) (n : Nat) (l : Layout) (sS : Option Nat) (must : Bool) (k : Res) : Res :=
  let t := h.g.tile n
  let low := leastOf h.p.mask
  layoutCheck s h 8 l t.bits 1 t.nrows t.ncols <|
    match sS with
    | none => if must && t.mode != 0 then trapIssue s h 8 tcTileShape n low else k
    | some r =>
      let a := (h.t.sgetr r).toNat
      if t.mode = 0 then trapIssue s h 8 tcTileShape n low
      else if a % 4 ≠ 0 then trapIssue s h 8 tcLayoutMisalign 0 low
      else spanCheck s h 8 a t.scaleBytes k

/-- The key of layout element (0, i, j) of a tile. -/
def layKey (q : Nat × Nat) (l : Layout) (bits i j : Nat) : Nat := spKey q.1 (q.2 + l.off bits 0 i j)

/-- The runs of scratchpad bytes that a tile's elements and scale bytes occupy. -/
def State.tileRuns (s : State) (h : Here) (t : Tile) (l : Layout) (sS : Option Nat) : List (Nat × Nat) × List (Nat × Nat) :=
  let q := s.layPlace h.g h.r.core l
  let el := t.cells.foldl (fun r c => addRun r (layKey q l t.bits c.1 c.2) (zOf t.bits)) []
  let sc := match sS with
    | some r => match s.spPlace h.g.vi h.r.core (h.t.sgetr r).toNat with
      | some p => [(spKey p.1 p.2, t.scaleBytes)]
      | none => []
    | none => []
  (el, sc)

/-- The slice of a scratchpad key. -/
def sliceOf (k : Nat) : Nat := k % 2 ^ 52 / 2 ^ 22

/-! ## Loading and storing tiles (09 R198 to R200) -/

/-- Load the elements and scales of a tile as a path sees the scratchpad. -/
def State.loadTile (s : State) (h : Here) (t : Tile) (l : Layout) (sS : Option Nat) : Tile :=
  let q := s.layPlace h.g h.r.core l
  let z := zOf t.bits
  let step := fun (t : Tile) (c : Nat × Nat) =>
    let k := layKey q l t.bits c.1 c.2
    let v := ofBytes ((List.range z).map fun i => s.seen h.r (k + i))
    let t1 := t.putElem c.1 c.2 (if t.bits = 4 then v / 16 ^ l.nib c.1 c.2 else v)
    if s.seenBad h.r k z then { t1 with poison := t1.poison ++ (List.range z).map (t.place c.1 c.2 + ·) } else t1
  let t1 := t.cells.foldl step t
  match sS with
  | none => t1
  | some r => match s.spPlace h.g.vi h.r.core (h.t.sgetr r).toNat with
    | none => t1
    | some p =>
      let k := spKey p.1 p.2
      let bad := ((List.range t.blocks).filter fun b => s.seenBad h.r (k + b) 1).map (codeByte + ·) ++
        ((List.range (4 * t.superCount)).filter fun b => s.seenBad h.r (k + t.superOff + b) 1).map (superByte + ·)
      { t1.scaleLoaded bad with
        codes := (List.range t.blocks).foldl (fun d b => sput 0 d b (s.seen h.r (k + b))) t1.codes,
        supers := (List.range t.superCount).foldl (fun d b => sput 0 d b (BitVec.ofNat 32 (ofBytes
          ((List.range 4).map fun i => s.seen h.r (k + t.superOff + 4 * b + i))))) t1.supers }

/-- Some runs hold nothing but zero bytes in memory itself. -/
def State.zeroRuns (s : State) (runs : List (Nat × Nat)) : Bool :=
  runs.all fun q => s.mem.all fun c => !(decide (q.1 ≤ c.1) && decide (c.1 < q.1 + q.2)) || c.2 == 0

/-- ZF and the watched region after a load (09 R200): set when every loaded pattern is zero and no byte of the tile holds
anything else, and when the watched bytes are zero in memory too, where a deferred store does not stand. -/
def Tile.judge (t : Tile) (memory : Bool) (runs : List (Nat × Nat)) : Tile :=
  let z := t.cells.all (fun c => t.elem c.1 c.2 == 0) && t.data == [] && memory
  { t with zf := z, watched := if z then runs else [] }

/-- `tld` (09 R198): whole when TILE_LOAD_WHOLE comes. -/
def execTld (x : Args) (s : State) : Res :=
  onPath s fun h =>
    let sS := optScalar x.c
    let l := h.layout x.a
    if h.tileHeld s x.d then .next (s.waitFor h.r 4)
    else collective s h 8 <| tileOk s h 8 x.d <| needClean s h 8 [] [] (groupRegs x.a 3 ++ sS.toList) <|
      tileSpan s h x.d l sS true <|
        let t := h.g.tile x.d
        let runs := s.tileRuns h t l sS
        reading s h 8 (leastOf h.p.mask) ((runs.1 ++ runs.2).map fun q => (sliceOf q.1, q.1, q.2)) fun s1 =>
          let t1 := { (s1.loadTile h t l sS).judge (s1.zeroRuns runs.1) runs.1 with loading := true }
          let s2 := if (runs.1 ++ runs.2).any fun q => s1.seenBad h.r q.1 q.2 then s1.logBad h 4 (windowBase + l.base) else s1
          .next ((s2.modWg h.r.core h.t.w fun g => g.setTile x.d t1).finish h.r 8 0)

/-- TILE_LOAD_WHOLE (09 R198): every byte of a load has arrived. -/
def execTileLoadWhole (core w tile : Nat) (s : State) : Res :=
  if ((s.wg core w).tile tile).loading then
    .next (s.modWg core w fun g => g.setTile tile { g.tile tile with loading := false })
  else .next s

/-- The bytes that `tst` stores, ascending by key, as value + 1; 4-bit elements keep the other nibble (09 R199). -/
def State.tileBytes (s : State) (h : Here) (t : Tile) (l : Layout) (sS : Option Nat) : Sparse Nat :=
  let q := s.layPlace h.g h.r.core l
  let put := fun (d : Sparse Nat) (k : Nat) (b : Byte) => sput 0 d k (b.toNat + 1)
  let step := fun (d : Sparse Nat) (c : Nat × Nat) =>
    let k := layKey q l t.bits c.1 c.2
    let v := t.elem c.1 c.2
    if t.bits = 4 then
      let old := match sget 0 d k with
        | 0 => s.seen h.r k
        | n + 1 => BitVec.ofNat 8 n
      put d k (nibblePut old (l.nib c.1 c.2) v)
    else (List.range (zOf t.bits)).foldl (fun d i => put d (k + i) (BitVec.ofNat 8 (v / 2 ^ (8 * i)))) d
  let d1 := t.cells.foldl step []
  match sS with
  | none => d1
  | some r => match s.spPlace h.g.vi h.r.core (h.t.sgetr r).toNat with
    | none => d1
    | some p =>
      let k := spKey p.1 p.2
      let d2 := (List.range t.blocks).foldl (fun d b => put d (k + b) (sget 0 t.codes b)) d1
      (List.range t.superCount).foldl (fun d b => (List.range 4).foldl (fun d i =>
        put d (k + t.superOff + 4 * b + i) (BitVec.ofNat 8 ((sget 0 t.supers b).toNat / 2 ^ (8 * i)))) d) d2

/-- A scratchpad key lies in the own allocation of the issuing workgroup. -/
def Here.ownKey (h : Here) (k : Nat) : Bool :=
  sliceOf k == h.r.core && h.g.spLo ≤ k % 2 ^ 22 && k % 2 ^ 22 < h.g.spHi

/-- Perform scratchpad stores of a path, tagging with ids.  DESIGN CHOICE (log 13): a run of a `tst` to another core's slice (09
R199) is one posted store, which lands whole. -/
def State.storeRuns (s : State) (r : PathRef) (l : List (Nat × List Byte)) (ids : List Nat) : State :=
  l.foldl (fun s q => (s.storeAt r 4 (q.1 % 2 ^ 52) q.2).tagLines (sliceOf q.1) q.1 q.2.length ids) s

/-- `tst` (09 R199): in penumbra state its stores outside the own allocation are deferred (10 R233). -/
def execTst (x : Args) (s : State) : Res :=
  onPath s fun h =>
    let sS := optScalar x.c
    let l := h.layout x.a
    if (h.g.tile x.b).loading then .next (s.waitFor h.r 4)
    else collective s h 8 <| tileOk s h 8 x.b <| needClean s h 8 [] [] (groupRegs x.a 3 ++ sS.toList) <|
      tileSpan s h x.b l sS false <|
        unpoisoned s h 8 ((h.g.tile x.b).poisonedData || sS.isSome && (h.g.tile x.b).poisonedScale) <|
          let bs := (s.tileBytes h (h.g.tile x.b) l sS).map fun q => (q.1, BitVec.ofNat 8 (q.2 - 1))
          let far := bs.filter fun q => !h.ownKey q.1
          let own := bs.filter fun q => h.ownKey q.1
          if h.t.pen && far != [] then
            deferOp s h 8 (leastOf h.p.mask) (lineCount far) (.store far true) fun s1 =>
              .next ((s1.storeRuns h.r (byteRuns own) h.t.ids).finish h.r 8 0)
          else .next ((s.storeRuns h.r (byteRuns bs) h.t.ids).finish h.r 8 0)

/-- `tzero` (09 R200): needs no valid control state. -/
def execTzero (x : Args) (s : State) : Res :=
  onPath s fun h =>
    if h.tileHeld s x.d then .next (s.waitFor h.r 4)
    else
      let g := h.g.setTile x.d
        { h.g.tile x.d with data := [], codes := [], supers := [], zf := true, watched := [], poison := [] }
      .next ((s.setWg h.r.core h.t.w g).finish h.r 8 0)

/-- `tzf` (09 R200). -/
def execTzf (x : Args) (s : State) : Res :=
  onPath s fun h =>
    if (h.g.tile x.a).loading then .next (s.waitFor h.r 4)
    else .next ((s.putTeam h (h.t.gput x.d (h.g.tile x.a).zf)).finish h.r 8 0)

end Sys2Proof.Machine
end

