-- ==== Sys2Proof/Machine/Matrix.lean ====
section
/-!
DEFINITION. Timeline numbers (08 R187), batches (09 R204), matrix steps and their sums (09 R201 to R203, 03 R77 to R80), waits on
batches (R205), and accumulators (R207, R208).
-/

namespace Sys2Proof.Machine

open Sys2Proof

/-! ## Timeline numbers -/

/-- Take the next number of a timeline (08 R187). -/
def State.tlIssue (s : State) (core w n : Nat) : Nat × State :=
  let t := (s.wg core w).timeline n
  (t.issued + 1, s.modWg core w fun g => { g with tl := sput Timeline.empty g.tl n { t with issued := t.issued + 1 } })

/-- Complete a number with a status (09 R216). -/
def State.tlComplete (s : State) (core w n num code detail : Nat) : State :=
  s.modWg core w fun g =>
    { g with tl := smod Timeline.empty g.tl n fun t => { t with ops := sput OpStatus.empty t.ops num ⟨true, code, detail⟩ } }

/-! ## Batches (09 R203, R204) -/

/-- A batch is complete: closed, no step left, and every earlier batch complete when it had no step. -/
def CoreSt.batchDone (c : CoreSt) (slot : Nat) (earlier : Bool) (b : Batch) : Bool :=
  b.closed && (c.stepsOf slot b.id).isEmpty && (b.accs != [] || earlier)

/-- The batches of a team in order, with those that are complete taken out. -/
def CoreSt.settleList (c : CoreSt) (slot : Nat) : Bool → List Batch → List Batch × List Batch
  | _, [] => ([], [])
  | earlier, b :: l =>
    let d := c.batchDone slot earlier b
    let r := c.settleList slot (earlier && d) l
    if d then (b :: r.1, r.2) else (r.1, b :: r.2)

/-- Complete the batches of a team whose turn has come (09 R204). -/
def State.settleBatches (s : State) (core slot : Nat) : State :=
  let t := s.team core slot
  let r := (s.core core).settleList slot true t.batches
  r.1.foldl (fun s b => match b.tl with
    | some q => (s.tlComplete core t.w q.1 q.2 (if b.err then 6 else 0) 0).modWg core t.w fun g =>
        if b.old = [] then g else { g with unseen := g.unseen ++ [⟨slot, q.1, q.2, b.old⟩] }
    | none => s) (s.setTeam core slot { t with batches := r.2 })

/-- An outstanding batch of the workgroup writes the accumulator (09 R206). -/
def State.accBusy (s : State) (core w acc : Nat) : Bool :=
  (s.slotsOfWg core w).any fun k => (s.team core k).batches.any fun b => b.accs.contains acc

/-- An unfinished `mma` step of another team writes the accumulator (09 R203). -/
def State.mmaBusy (s : State) (core slot w acc : Nat) : Bool :=
  let c := s.core core
  (c.running.toList ++ c.mqueue).any fun m => m.w == w && m.acc == acc && m.path.isSome && m.slot != slot

/-- ACCUM_BUSY, the last check of 09 R383. -/
def accFree (s : State) (h : Here) (len acc : Nat) (busy : Bool) (k : Res) : Res :=
  if busy then trapIssue s h len tcAccumBusy acc (leastOf h.p.mask) else k

/-! ## Steps (09 R201, R203) -/

/-- The format classes of 09 R201: 0 none, 1 float, 2 integer. -/
def mmaClass (a b : Nat) : Nat :=
  let low := fun f => 0x0C ≤ f && f ≤ 0x0F
  let int := fun f => f == 0x01 || f == 0x10
  if (a = b ∧ (a = 0x09 ∨ a = 0x0A ∨ a = 0x0B)) ∨ (low a && low b) then 1
  else if int a && int b then 2
  else 0

/-- The checks of 09 R201 in order: the tile that INFO names when one fails (11 R239). -/
def mmaShape (ta tb : Nat) (A B : Tile) (ty : Ty) : Option Nat :=
  if A.ncols ≠ B.nrows ∨ 128 < B.ncols then some tb
  else if mmaClass A.fmtCode B.fmtCode = 0 then some ta
  else if (mmaClass A.fmtCode B.fmtCode = 2) ≠ (ty = .i32) then some ta
  else if A.mode ≠ 0 ∧ A.axis ≠ 0 then some ta
  else if B.mode ≠ 0 ∧ B.axis ≠ 1 then some tb
  else none

/-- Twice the rate q by element bits. -/
def rate2 (bits : Nat) : Nat := if bits = 4 then 1 else if bits = 8 then 2 else if bits = 16 then 4 else 32

/-- The occupancy of a step in cycles. -/
def mmaCycles (A B : Tile) : Nat :=
  ceilDiv (A.nrows * B.ncols * A.ncols * rate2 (max A.bits B.bits)) 16384

/-- A step reaches the engine: a gated engine starts a wake (11 R257). -/
def CoreSt.pushStep (c : CoreSt) (m : MStep) : CoreSt :=
  let c1 := { c with mqueue := c.mqueue ++ [m], nextStep := c.nextStep + 1 }
  if c.gated then { c1 with gated := false, waking := true, wakeLeft := 180 } else c1

/-- A cell of the step's rows and columns is poisoned. -/
def Wg.accPoisoned (g : Wg) (acc rows cols : Nat) : Bool :=
  g.accPoison.any fun k => k / 8192 == acc && k % 8192 / 128 < rows && k % 128 < cols

/-- The waits and checks that `mma` and `mmaa` share (09 R383). -/
def stepChecks (x : Args) (s : State) (h : Here) (busy : Bool) (k : Res) : Res :=
  let A := h.g.tile x.a
  let B := h.g.tile x.b
  let c := s.core h.r.core
  if A.loading || B.loading then .next (s.waitFor h.r 4)
  else if 32 ≤ c.mqueue.length + c.running.toList.length then .next (s.stallFor h.r 4)
  else collective s h 8 <| tileOk s h 8 x.a <| tileOk s h 8 x.b <|
    match mmaShape x.a x.b A B x.ty with
    | some t => trapIssue s h 8 tcTileShape t (leastOf h.p.mask)
    | none => accFree s h 8 x.d busy <|
        unpoisoned s h 8 (A.poisoned || B.poisoned || h.g.accPoisoned x.d A.nrows B.ncols) k

/-- The step an instruction asks for. -/
def Here.step (h : Here) (c : CoreSt) (x : Args) (path : Option Nat) (batch : Nat) : MStep :=
  { id := c.nextStep, slot := h.r.slot, w := h.t.w, acc := x.d, ta := x.a, tb := x.b, path := path, batch := batch,
    int := x.ty == .i32, cycles := mmaCycles (h.g.tile x.a) (h.g.tile x.b), rerun := false, who := h.r.path, sthr := h.t.sthr }

/-- `mma` (09 R203): queues one step and waits until aD has been written. -/
def execMma (x : Args) (s : State) : Res :=
  onPath s fun h =>
    match h.p.wait with
    | .matrix _ => .next s
    | _ => stepChecks x s h (s.accBusy h.r.core h.t.w x.d || s.mmaBusy h.r.core h.r.slot h.t.w x.d) <|
        let c := s.core h.r.core
        let m := h.step c x (some h.r.path) 0
        .next (((s.setCore h.r.core (c.pushStep m)).count h.r 0).modPath h.r fun p =>
          { p with wait := .matrix m.id, window := 0 })

/-- The open batch of a team, opening one when there is none. -/
def Team.withOpen (t : Team) : Nat × Team :=
  match t.batches.find? fun b => !b.closed with
  | some b => (b.id, t)
  | none => (t.nextBatch, { t with batches := t.batches ++ [⟨t.nextBatch, false, none, false, [], []⟩], nextBatch := t.nextBatch + 1 })

/-- `mmaa` (09 R203): queues one step into the open batch. -/
def execMmaa (x : Args) (s : State) : Res :=
  onPath s fun h => stepChecks x s h false <|
    let c := s.core h.r.core
    let o := h.t.withOpen
    let t := { o.2 with batches := o.2.batches.map fun b => if b.id = o.1 then { b with accs := minsert x.d b.accs } else b }
    .next (((s.putTeam h t).setCore h.r.core (c.pushStep (h.step c x none o.1))).finish h.r 8 0)

/-- MATRIX_STEP_START (09 R201): the oldest queued step begins its occupancy. -/
def execMatrixStepStart (core : Nat) (s : State) : Res :=
  let c := s.core core
  match c.running, c.mqueue with
  | none, m :: rest =>
    if c.gated || c.waking then .next s
    else .next (s.setCore core { c with running := some m, mqueue := rest, runLeft := m.cycles })
  | _, _ => .next s

/-! ## The sums (03 R77 to R80) -/

/-- Decoded elements under the threshold, in order: a dropped one is +0, sets no flag, and is counted (03 R77, R78). -/
def thrList (thr : Word) : Team → List (FVal × Flags) → Team × Flags × List FVal
  | t, [] => (t, 0, [])
  | t, q :: l =>
    let d := dropped thr q.1
    let r := thrList thr (if d then t.dropStep q.1 else t) l
    (r.1, (if d then 0 else q.2) ||| r.2.1, (if d then .num (.zero false) else q.1) :: r.2.2)

/-- The exact sum of one group of products (03 R79). -/
def groupSum (ps : List FVal) : FVal × Flags :=
  let up := ps.contains (.inf false)
  let dn := ps.contains (.inf true)
  if up && dn then (.nan false, flNV)
  else if ps.any FVal.isNan then (.nan false, 0)
  else if up then (.inf false, 0)
  else if dn then (.inf true, 0)
  else
    let xs := ps.filterMap fun p => match p with
      | .num x => some x
      | _ => none
    match xs with
    | [] => (.num (.zero false), 0)
    | x :: l => (.num (l.foldl XR.add x), 0)

/-- A K run in groups of 32 (03 R79). -/
def groups32 {α : Type} (l : List α) : List (List α) :=
  (List.range (ceilDiv l.length 32)).map fun g => (l.drop (32 * g)).take 32

/-- One FP32 cell: each group sum is rounded into the cell (03 R79). -/
def cellFloat (acc : Nat) (ps : List (FVal × Flags)) : Nat × Flags :=
  (groups32 ps).foldl (fun a g =>
    let G := groupSum (g.map (·.1))
    let v := fadd (f32 a.1) G.1
    let r := rne32 v.1
    (r.1, g.foldl (fun f q => f ||| q.2) (a.2 ||| G.2 ||| v.2 ||| r.2))) (acc, 0)

/-- The integer of an exact value. -/
def exactInt : FVal → Int
  | .num x => x.toPair.1 / x.den
  | _ => 0

/-- One integer cell: each group sum is added with saturation (03 R80). -/
def cellInt (acc : Nat) (ps : List (FVal × Flags)) : Nat × Flags :=
  (groups32 ps).foldl (fun a g =>
    let r := satInt .i32 (g.foldl (fun n q => n + exactInt q.1) (intOf .i32 a.1))
    (r.1, a.2 ||| r.2)) (acc, 0)

/-- The key of a cell of an accumulator. -/
def accKey (acc i j : Nat) : Nat := acc * 8192 + 128 * i + j

/-- The cells that a step writes. -/
def Wg.stepCells (g : Wg) (m : MStep) : List Nat :=
  ((List.range (g.tile m.ta).nrows).map fun i => (List.range (g.tile m.tb).ncols).map fun j => accKey m.acc i j).flatten

/-- Note what the cells held before their batch wrote them; the cells of an `mma`, which acquires its result, are simply written. -/
def State.noteCells (s : State) (core : Nat) (m : MStep) (ks : List Nat) : State :=
  let g := s.wg core m.w
  if m.path.isSome then s.setWg core m.w (g.freshCells fun k => ks.contains k)
  else s.modTeam core m.slot fun t => { t with batches := t.batches.map fun b =>
    if b.id ≠ m.batch then b
    else { b with old := b.old ++ (ks.filter fun k => !(b.old.any fun q => q.1 == k)).map fun k => (k, sget 0 g.accs k) } }

/-- Perform a step: decode A by rows and B by k under the threshold of its issue, form every cell, collect the flags (09 R201). -/
def State.performStep (s0 : State) (core : Nat) (m : MStep) : State :=
  let s := s0.noteCells core m ((s0.wg core m.w).stepCells m)
  let g := s.wg core m.w
  let t := s.team core m.slot
  let A := g.tile m.ta
  let B := g.tile m.tb
  let a := thrList m.sthr t (A.cells.map fun c => A.operand c.1 c.2)
  let b := thrList m.sthr a.1 (B.cells.map fun c => B.operand c.1 c.2)
  let K := A.ncols
  let rows := (List.range A.nrows).map fun i => (a.2.2.drop (i * K)).take K
  let brows := (List.range K).map fun k => (b.2.2.drop (k * B.ncols)).take B.ncols
  let cols := (List.range B.ncols).map fun j => brows.map fun r => r.getD j (.num (.zero false))
  let cell := fun (acc : Sparse Word × Flags) (q : (List FVal × Nat) × List FVal × Nat) =>
    let k := accKey m.acc q.1.2 q.2.2
    let ps := List.zipWith fmul q.1.1 q.2.1
    let v := (if m.int then cellInt else cellFloat) (sget 0 acc.1 k).toNat ps
    (sput 0 acc.1 k (BitVec.ofNat 32 v.1), acc.2 ||| v.2)
  let pairs := (rows.zipIdx.map fun r => cols.zipIdx.map fun c => (r, c)).flatten
  let r := pairs.foldl cell (g.accs, a.2.1 ||| b.2.1)
  (s.setTeam core m.slot (b.1.mflOr r.2)).setWg core m.w { g with accs := r.1 }

/-- The cells that a failed step leaves unspecified (09 R202): free values (log 7). -/
def State.spoilStep (s : State) (core : Nat) (m : MStep) : State :=
  ((s.wg core m.w).stepCells m).foldl (fun s k =>
    let f := s.takeFree
    f.2.modWg core m.w fun g => { g with accs := sput 0 g.accs k f.1 }) s

/-- The engine is free again: the idle count starts at 0 when no step is left (11 R257). -/
def CoreSt.stepOver (c : CoreSt) : CoreSt := { c with running := none, runLeft := 0, idle := if c.mqueue = [] then 0 else c.idle }

/-- After sixteen machine checks within one hour firmware, where it runs, takes the engine out of use (22 R378). -/
def CoreSt.machineCheck (c : CoreSt) (now : Nat) (fw : Bool) : CoreSt :=
  let l := (c.mchkTimes.filter fun t => decide (now < t + 3 * 3600 * 10 ^ 9)) ++ [now]
  { c with mchkTimes := l, engineOut := c.engineOut || fw && decide (16 ≤ l.length) }

/-- The second mismatch of a step (09 R202): a machine check.  The `mma` traps MEM_FATAL, the batch ends with CODE 6 and its
cells are unspecified. -/
def State.failStep (s : State) (core : Nat) (m : MStep) : State :=
  let c := (s.core core).stepOver.machineCheck s.time3 (s.fwRuns (dieOf core))
  let g := s.wg core m.w
  let s1 := (s.setCore core c).modDie (dieOf core) fun d => { d with mxmchk := sat32 (d.mxmchk + 1) }
  let s2 := s1.postFault core (faultWords s1 0 0 g.vi core m.slot m.who 0 6 0 0x20 3)
  let s3 := { s2 with irqs := s2.irqs ++ [(0, 3)] }
  match m.path with
  | some p => s3.trapHere ⟨core, m.slot, p⟩ 8 tcMemFatal 0 (leastOf (s.path ⟨core, m.slot, p⟩).mask)
  | none =>
    ((s3.spoilStep core m).modTeam core m.slot fun t =>
      { t with batches := t.batches.map fun b => if b.id = m.batch then { b with err := true } else b }).settleBatches core m.slot

/-- MATRIX_STEP_END (09 R201, R202): at the end of its occupancy a step writes aD; a mismatch runs it again once. -/
def execMatrixStepEnd (core mismatches : Nat) (s : State) : Res :=
  let c := s.core core
  match c.running with
  | none => .next s
  | some m =>
    if c.runLeft ≠ 0 then .next s
    else if mismatches = 0 then
      let s1 := (s.setCore core c.stepOver).performStep core m
      match m.path with
      | some p =>
        let r : PathRef := ⟨core, m.slot, p⟩
        .next (s1.goto r ((s1.path r).pc + 8))
      | none => .next (s1.settleBatches core m.slot)
    else if m.rerun then .next (s.failStep core m)
    else .next ((s.setCore core { c with running := some { m with rerun := true }, runLeft := m.cycles }).modDie
      (dieOf core) fun d => { d with mxrerun := sat32 (d.mxrerun + 1) })

/-! ## Closing and waiting (09 R204, R205) -/

/-- `mcommit` (09 R204): the open batch, or an empty one, takes the next number of the timeline. -/
def execMcommit (x : Args) (s : State) : Res :=
  onPath s fun h => releasing s h 1 <|
    let q := s.tlIssue h.r.core h.t.w x.d
    let o := h.t.withOpen
    let t := { o.2 with batches := o.2.batches.map fun b =>
      if b.id = o.1 then { b with closed := true, tl := some (x.d, q.1) } else b }
    .next (((q.2.putTeam h t).settleBatches h.r.core h.r.slot).finish h.r 8 0)

/-- `mwait` (09 R205): at most n committed batches are still outstanding, which they are from their first `mmaa` on (09 R203); it
acquires what the completed ones wrote. -/
def execMwait (x : Args) (s : State) : Res :=
  onPath s fun h =>
    let n := ((litFor x .a).getD (BitVec.ofNat 32 x.a)).toNat
    if (h.t.batches.filter fun b => b.tl.isSome && b.accs != []).length ≤ n then
      .next ((s.modWg h.r.core h.t.w fun g => g.sees fun u => u.slot == h.r.slot).finish h.r (argsLen x) 0)
    else .next (s.waitFor h.r 5)

/-! ## Accumulators (09 R207, R208) -/

/-- The base check of 09 R207. -/
def accBase (s : State) (h : Here) (len acc c0 : Nat) (k : Res) : Res :=
  if c0 % 32 = 0 ∧ c0 + h.t.width ≤ 8192 then k else trapIssue s h len tcTileShape acc (leastOf h.p.mask)

/-- `aread` (09 R207). -/
def execAread (x : Args) (s : State) : Res :=
  onPath s fun h => collective s h (argsLen x) <| needClean s h (argsLen x) [] [] (readRegs x [(.b, x.b)]) <|
    let c0 := (h.ssrc x .b x.b).toNat
    accBase s h (argsLen x) x.a c0 <|
      accFree s h (argsLen x) x.a (s.accBusy h.r.core h.t.w x.a) <|
        let key := fun (l : Nat) => x.a * 8192 + c0 + l
        let bad := h.t.member.filter fun l => h.g.accPoison.contains (key l)
        if bad ≠ [] then trapIssue s h (argsLen x) tcPoison (leastOf bad) (leastOf bad)
        else
          let vals := h.t.member.map fun l => (l, (h.g.accCell (key l)).setWidth 64)
          .next (((s.addPend h.r (.load .b32 x.d 4) vals []).finish h.r (argsLen x) 0).modPath h.r fun p =>
            p.openWindow h.p.window x.ext [x.d])

/-- `awrite` (09 R207). -/
def execAwrite (x : Args) (s : State) : Res :=
  onPath s fun h => collective s h (argsLen x) <| needClean s h (argsLen x) h.p.mask [x.a] (readRegs x [(.b, x.b)]) <|
    let c0 := (h.ssrc x .b x.b).toNat
    accBase s h (argsLen x) x.d c0 <|
      accFree s h (argsLen x) x.d (s.accBusy h.r.core h.t.w x.d) <|
        let key := fun (l : Nat) => x.d * 8192 + c0 + l
        let hit := fun (k : Nat) => h.t.member.any fun l => key l == k
        let g := { h.g.freshCells hit with
          accs := h.t.member.foldl (fun d l => sput 0 d (key l) (h.t.vget x.a l)) h.g.accs,
          accPoison := h.g.accPoison.filter fun k => !hit k }
        .next ((s.setWg h.r.core h.t.w g).finish h.r (argsLen x) 0)

/-- `azero` (09 R207): every cell of aD. -/
def execAzero (x : Args) (s : State) : Res :=
  onPath s fun h =>
    collective s h 8 <| accFree s h 8 x.d (s.accBusy h.r.core h.t.w x.d) <|
      let g := { h.g.freshCells (fun k => k / 8192 == x.d) with
                          accs := h.g.accs.filter fun q => q.1 / 8192 != x.d,
                          accPoison := h.g.accPoison.filter fun k => k / 8192 != x.d }
      .next ((s.setWg h.r.core h.t.w g).finish h.r 8 0)

/-- One element of `aq` (09 R208): `%amax`, then one rounding of the exact product. -/
def aqStep (x : Args) (g : Wg) (sc : FVal) (acc : Tile × Word × Flags) (c : Nat × Nat) : Tile × Word × Flags :=
  let v := valueOf x.ty (g.accCell (accKey x.a c.1 c.2)).toNat
  let p := fmul v sc
  let r := fmtRound acc.1.fmtCode p.1
  (acc.1.putElem c.1 c.2 r.1, amaxStep acc.2.1 v, acc.2.2 ||| p.2 ||| r.2)

/-- `aq` (09 R208): no flush applies. -/
def execAq (x : Args) (s : State) : Res :=
  onPath s fun h =>
    let t := h.g.tile x.d
    if h.tileHeld s x.d then .next (s.waitFor h.r 4)
    else collective s h (argsLen x) <| tileOk s h (argsLen x) x.d <|
      needClean s h (argsLen x) [] [] (readRegs x [(.b, x.b)]) <|
        if 128 < t.ncols ∨ t.mode ≠ 0 then trapIssue s h (argsLen x) tcTileShape x.d (leastOf h.p.mask)
        else accFree s h (argsLen x) x.a (s.accBusy h.r.core h.t.w x.a) <|
          unpoisoned s h (argsLen x) (h.g.accPoisoned x.a t.nrows t.ncols) <|
            let r := t.cells.foldl (aqStep x h.g (f32 (h.ssrc x .b x.b).toNat)) (t, h.t.amax, 0)
            let tm := { h.t with amax := r.2.1 }.mflOr r.2.2
            let g := h.g.setTile x.d { r.1 with zf := false, watched := [] }
            .next (((s.putTeam h tm).setWg h.r.core h.t.w g).finish h.r (argsLen x) 0)

end Sys2Proof.Machine
end

