-- ==== Sys2Proof/Machine/Engine.lean ====
section
/-!
DEFINITION. The copy, gather and collective engines (09 R209 to R217): issue, the elements an operation moves, faults, completion,
and `estat`.
-/

namespace Sys2Proof.Machine

open Sys2Proof

/-! ## The elements of an operation -/

def EngOp.isCopy (o : EngOp) : Bool :=
  match o.kind with
  | .cpyIn | .cpyOut | .cpym .. => true
  | _ => false

def EngOp.isGather (o : EngOp) : Bool :=
  match o.kind with
  | .gath .. | .scat .. | .gpool .. => true
  | _ => false

def EngOp.isColl (o : EngOp) : Bool := !o.isCopy && !o.isGather

/-- Elements of the dense block. -/
def EngOp.block (o : EngOp) : Nat := o.n0 * o.n1 * o.n2

/-- How many elements an operation writes. -/
def EngOp.count (o : EngOp) : Nat :=
  match o.kind with
  | .cpym cores _ _ => cores.length * o.block
  | .allgather _ => o.inputs.length * o.n0
  | _ => o.block

/-- One element: the memory address that a copy reads or that it writes, the table elements it is formed from and how many fetches
of the request come no later, the scratchpad place, the nibbles of a 4-bit element, the runs of indices or offsets it depends on, or the
error that keeps it from being written. -/
structure Elem where
  mem : List Nat
  rows : List Nat
  upTo : Nat
  toMem : Bool
  nibM : Nat
  sp : Nat
  nibS : Nat
  reads : List (Nat × Nat)
  bad : Option (Nat × Nat × Nat)
deriving DecidableEq, Repr

/-- The key of a scratchpad address of an operation. -/
def State.opKey (s : State) (core : Nat) (o : EngOp) (sa : Nat) : Nat :=
  match s.spPlace o.vi core sa with
  | some q => spKey q.1 q.2
  | none => spKey core 0

/-- A 32-bit word of an index or offset array. -/
def State.opWord (s : State) (core : Nat) (o : EngOp) (sa i : Nat) : Nat := s.mnat (s.opKey core o sa + 4 * i) 4

/-- The address of element e of table row x (09 R212). -/
def rowAddr (o : EngOp) (rstr x e : Nat) : Nat := (o.da + x * rstr + e * o.ty.bytes) % 2 ^ 64

/-- The address of dense element n (09 R209). -/
def denseAddr (o : EngOp) (n : Nat) : Nat := (o.da + (if o.ty.bits = 4 then n / 2 else n * o.ty.bytes)) % 2 ^ 64

/-- Element n of a copy of one block. -/
def copyElem (o : EngOp) (toMem : Bool) (base n : Nat) : Elem :=
  let i0 := n % o.n0
  let i1 := n / o.n0 % o.n1
  let i2 := n / (o.n0 * o.n1)
  { mem := [denseAddr o n], rows := [], upTo := 0, toMem := toMem, nibM := n % 2, sp := base + o.lay.off o.ty.bits i2 i1 i0,
    nibS := o.lay.nib i1 i0, reads := [], bad := none }

/-- Position p, element e of a gather or scatter (09 R213). -/
def State.rowElem (s : State) (core : Nat) (o : EngOp) (toMem : Bool) (idx rstr rows n : Nat) : Elem :=
  let p := n / o.n0
  let e := n % o.n0
  let x := s.opWord core o idx p
  let at_ := if x < rows then [rowAddr o rstr x e] else []
  { mem := if toMem then at_ else [], rows := if toMem then [] else at_, upTo := if toMem then 0 else n + 1, toMem := toMem, nibM := 0,
    sp := s.opKey core o o.lay.base + o.lay.off o.ty.bits 0 p e, nibS := 0, reads := [(s.opKey core o idx + 4 * p, 4)],
    bad := if x < rows then none else some (3, p, p % 256) }

/-- Bag b, element e of a pooled gather (09 R214). -/
def State.bagElem (s : State) (core : Nat) (o : EngOp) (idx npos rstr rows boff n : Nat) : Elem :=
  let b := n / o.n0
  let e := n % o.n0
  let lo := s.opWord core o boff b
  let hi := s.opWord core o boff (b + 1)
  let badBag := decide (hi < lo) || decide (npos < hi)
  let ps := if badBag then [] else (List.range (hi - lo)).map (lo + ·)
  let xs := ps.map fun p => (p, s.opWord core o idx p)
  let badRow := xs.find? fun q => decide (rows ≤ q.2)
  let good := !badBag && badRow.isNone
  { mem := [], rows := if good then xs.map fun q => rowAddr o rstr q.2 e else [], upTo := if good then hi * o.n0 else 0,
    toMem := false, nibM := 0,
    sp := s.opKey core o o.lay.base + o.lay.off 32 0 b e, nibS := 0,
    reads := (s.opKey core o boff + 4 * b, 8) :: ps.map fun p => (s.opKey core o idx + 4 * p, 4),
    bad := if badBag then some (4, b, b % 256)
      else badRow.map fun q => (3, q.1, q.1 % 256) }

/-- Element n of an operation. -/
def State.elemAt (s : State) (core : Nat) (o : EngOp) (n : Nat) : Elem :=
  match o.kind with
  | .cpyIn => copyElem o false (s.opKey core o o.lay.base) n
  | .cpyOut => copyElem o true (s.opKey core o o.lay.base) n
  | .cpym cores _ _ =>
    copyElem o false (spKey (cores.getD (n / o.block) core) (o.lay.base % 2 ^ 22)) (n % o.block)
  | .gath idx _ _ rstr rows => s.rowElem core o false idx rstr rows n
  | .scat idx _ _ rstr rows => s.rowElem core o true idx rstr rows n
  | .gpool _ idx npos _ rstr rows boff _ => s.bagElem core o idx npos rstr rows boff n
  | _ => { mem := [denseAddr o n], rows := [], upTo := 0, toMem := true, nibM := 0, sp := 0, nibS := 0, reads := [], bad := none }

/-- The table of a request that fetches rows: indices, positions, row stride, rows. -/
def EngOp.table (o : EngOp) : Option (Nat × Nat × Nat × Nat) :=
  match o.kind with
  | .gath idx npos _ rstr rows | .gpool _ idx npos _ rstr rows _ _ => some (idx, npos, rstr, rows)
  | _ => none

/-- How many fetches a request makes. -/
def EngOp.fetches (o : EngOp) : Nat :=
  match o.table with
  | some q => q.2.1 * o.n0
  | none => 0

/-- What was fetched from an address. -/
def EngOp.has (o : EngOp) (va : Nat) : Option Nat := (o.got.find? fun q => q.1 == va).map (·.2)

/-- Fetch q of a request: element q mod E of the row that position q / E names, when there is such a row (09 R212). -/
def State.fetchAt (s : State) (core : Nat) (o : EngOp) (q : Nat) : Option Nat :=
  match o.table with
  | some (idx, _, rstr, rows) =>
    let x := s.opWord core o idx (q / o.n0)
    if x < rows then some (rowAddr o rstr x (q % o.n0)) else none
  | none => none

/-- The addresses among the first fetches that are not fetched yet, each once: a row is fetched once and replayed (09 R212). -/
def State.missing (s : State) (core : Nat) (o : EngOp) (upTo : Nat) : List Nat :=
  (((List.range upTo).filterMap fun q => s.fetchAt core o q).filter fun va => (o.has va).isNone).eraseDups

/-- Bytes of the scratchpad element: FP32 for a pooled result. -/
def EngOp.spBytes (o : EngOp) : Nat :=
  match o.kind with
  | .gpool .. => 4
  | _ => zOf o.ty.bits

/-- The scratchpad runs an element reads. -/
def EngOp.spReads (o : EngOp) (e : Elem) : List (Nat × Nat) :=
  e.reads ++ (if e.toMem && !o.isColl then [(e.sp, o.spBytes)] else [])

/-- Translate a memory address for an engine: the core's TLB or the tables, never a translation register.  DESIGN CHOICE (log 49): a
table row or the destination of a `coll` that lies in the scratchpad window, which only a copy is checked for (09 R209, R212), goes
to the page tables as any other address does. -/
def State.engTranslate (s : State) (core : Nat) (o : EngOp) (va : Nat) (write : Bool) : TRes :=
  s.translate core o.vi { s.team core o.slot with xt := [] } va write

/-- A deferred store that was recorded before the operation was issued covers one of the bytes. -/
def DefEntry.blocks (d : DefEntry) (o : EngOp) (q : Nat × Nat) : Bool :=
  o.awaits.contains d.id && match d.op with
    | .store bs _ => bs.any fun b => q.1 ≤ b.1 && b.1 < q.1 + q.2
    | _ => false

/-- The bytes at which an operation acts have been performed: no line with unresolved tags is read (10 R232), no earlier store of the
issuing path, and no write of its core that the host links have not acknowledged, is still under way (12 R283). -/
def State.runsReady (s : State) (core : Nat) (o : EngOp) (reads acts : List (Nat × Nat)) : Bool :=
  let c := s.core core
  reads.all (fun q => s.tagsOf (sliceOf q.1) q.1 q.2 == []) &&
  acts.all fun q => !(c.posted.any fun p => (p.ownOf o.slot o.path || p.slot == linkSlot) && p.meets q.1 q.2) &&
    !(c.pen.any fun d => d.blocks o q)

/-- An element can be performed, its memory at some places. -/
def State.elemReady (s : State) (core : Nat) (o : EngOp) (e : Elem) (mem : List (Nat × Nat)) : Bool :=
  s.runsReady core o (o.spReads e) (o.spReads e ++ mem)

/-! ## Values -/

/-- The FP32 value of a row element (03 R81). -/
def rowValue (t : Ty) (p : Nat) : FVal := f32 (rne32 (valueOf t p)).1

/-- A bag's result (03 R81). -/
def poolValue (m : PoolMode) (xs : List FVal) : Nat :=
  match xs with
  | [] => 0
  | x :: l =>
    let sum := fun (_ : Unit) => l.foldl (fun a y => f32 (rne32 (fadd a y).1).1) x
    match m with
    | .sum => (rne32 (sum ())).1
    | .mean => (rne32 (fdiv (sum ()) (.num (.ofInt xs.length))).1).1
    | .max => if xs.any FVal.isNan then 0x7FC00000 else (rne32 (l.foldl (fun a y => (fminmax true a y).1) x)).1

/-- One reduction step of an all-reduce in FP32 (09 R215). -/
def redFloat (r : CollRed) (a b : FVal) : FVal :=
  match r with
  | .add => f32 (rne32 (fadd a b).1).1
  | .min => (fminmax false a b).1
  | .max => (fminmax true a b).1

def redInt (r : CollRed) (a b : Int) : Int :=
  match r with
  | .add => a + b
  | .min => min a b
  | .max => max a b

/-- The pattern of output element n of a collective, for the given rank (09 R215). -/
def collValue (o : EngOp) (rank n : Nat) : Nat :=
  let get := fun (p e : Nat) => (o.inputs.getD p []).getD e 0
  match o.kind with
  | .allreduce r _ =>
    let ps := o.inputs.map fun l => l.getD n 0
    match ps with
    | [] => 0
    | x :: l =>
      if o.ty = .i32 then wrapN 32 (l.foldl (fun a y => intOf .i32 (wrapN 32 (redInt r a (intOf .i32 y)))) (intOf .i32 x))
      else (fround o.ty .rne 0 false (l.foldl (fun a y => redFloat r a (valueOf o.ty y)) (valueOf o.ty x))).1
  | .allgather _ => get (n / o.n0) (n % o.n0)
  | _ =>
    let c := o.n0 / o.inputs.length
    get (n / c) (rank * c + n % c)

/-! ## Performing elements -/

/-- Write bytes, or one nibble, at a key; of 8 bytes the halves that are named. -/
def State.engPut (s : State) (bits k nib v : Nat) (halves : List Nat) : State :=
  if bits = 4 then s.mput k [nibblePut (s.mget k) nib v]
  else if bits = 64 then halves.foldl (fun s i => s.mput (k + 4 * i) (bytesOf 4 (v / 2 ^ (32 * i)))) s
  else s.mput k (bytesOf (bits / 8) v)

/-- Remember the memory bytes that an operation wrote, for the acquire of a `tlwait` (09 R194). -/
def State.addRange (s : State) (core : Nat) (o : EngOp) (k n : Nat) : State :=
  s.modWg core o.w fun g => { g with tl := smod Timeline.empty g.tl o.tl fun t => { t with ranges :=
    match t.ranges with
    | (m, a, l) :: r => if m = o.num ∧ a + l = k then (m, a, l + n) :: r else (o.num, k, n) :: t.ranges
    | [] => [(o.num, k, n)] } }

def State.modOp (s : State) (core id : Nat) (f : EngOp → EngOp) : State :=
  s.modCore core fun c => { c with ops := c.ops.map fun o => if o.id = id then f o else o }

def State.findOp (s : State) (core id : Nat) : Option EngOp := (s.core core).ops.find? fun o => o.id == id

/-- The rank of a core in a communicator, and the members (device, logical core); this device is number 0 (log 32).  DESIGN CHOICE
(log 49): a number above 63, for which 09 R215 names no trap, is a communicator that is not configured. -/
def State.members (s : State) (vi comm : Nat) : List (Nat × Nat) := sget [] (s.vi vi).comm comm

def EngOp.comm (o : EngOp) : Nat :=
  match o.kind with
  | .allreduce _ c | .allgather c | .alltoall c => c
  | _ => 0

def State.rankOf (s : State) (core : Nat) (o : EngOp) : Option Nat :=
  ((s.members o.vi o.comm).zipIdx.find? fun q => q.1.1 == 0 && s.physCore o.vi q.1.2 == core).map (·.2)

/-- The pattern that element n writes, given the physical places of its memory addresses; table elements have been fetched. -/
def State.elemValue (s : State) (core : Nat) (o : EngOp) (e : Elem) (n : Nat) (at_ : List Nat) : Nat :=
  let z := zOf o.ty.bits
  let row := fun (va : Nat) => (o.has va).getD 0
  match o.kind with
  | .gpool m _ _ _ _ _ _ _ => poolValue m (e.rows.map fun va => rowValue o.ty (row va))
  | .gath .. => row (e.rows.headD 0)
  | .allreduce .. | .allgather _ | .alltoall _ => collValue o ((s.rankOf core o).getD 0) n
  | _ =>
    if e.toMem then
      let v := s.mnat e.sp z
      if o.ty.bits = 4 then v / 16 ^ e.nibS % 16 else v
    else
      let v := s.mnat (at_.headD 0) z
      if o.ty.bits = 4 then v / 16 ^ e.nibM % 16 else v

/-- The memory that an element needs now: its own address, and the table elements up to it that are not fetched. -/
def State.elemVas (s : State) (core : Nat) (o : EngOp) (e : Elem) : List Nat := e.mem ++ s.missing core o e.upTo

/-- The physical keys of some addresses, when all of them translate. -/
def State.engKeys (s : State) (core : Nat) (o : EngOp) (vas : List Nat) (write : Bool) : Option (List Nat) :=
  vas.mapM fun va => match s.engTranslate core o va write with
    | .ok tgt pa .. => some (pKey tgt pa)
    | .bad .. => none

/-- The physical keys of the memory that an element needs, when all of it translates. -/
def State.elemKeys (s : State) (core : Nat) (o : EngOp) (e : Elem) : Option (List Nat) :=
  s.engKeys core o (s.elemVas core o e) e.toMem

/-- A source of the element holds an uncorrectable error (19 R337). -/
def State.elemPoison (s : State) (o : EngOp) (e : Elem) (keys : List Nat) : Bool :=
  (o.spReads e).any (fun q => s.mbad q.1 q.2) || (!e.toMem && keys.any fun k => s.mbad k (zOf o.ty.bits))

/-- The destination of an element lies over the operation's own index or offset array (12 R285). -/
def State.elemOverlaps (s : State) (core : Nat) (o : EngOp) (e : Elem) : Bool :=
  match o.kind with
  | .gath idx npos _ _ _ => overlap e.sp o.spBytes (s.opKey core o idx) (4 * npos)
  | .gpool _ idx npos _ _ _ boff nb =>
    overlap e.sp o.spBytes (s.opKey core o idx) (4 * npos) || overlap e.sp o.spBytes (s.opKey core o boff) (4 * nb + 4)
  | _ => false

/-- The halves of 8-byte element n that are not written yet. -/
def EngOp.halvesLeft (o : EngOp) (n : Nat) : List Nat := [0, 1].filter fun i => !o.halves.contains (2 * n + i)

/-- Write the value of an element to its place, or some halves of it, tagging a copy of a team in penumbra state (10 R233). -/
def State.elemWrite (s : State) (core : Nat) (o : EngOp) (e : Elem) (keys halves : List Nat) (v : Nat) : State :=
  let z := zOf o.ty.bits
  if e.toMem then
    let k := keys.headD 0
    (s.engPut o.ty.bits k e.nibM v halves).addRange core o k z
  else
    let bits := match o.kind with
      | .gpool .. => 32
      | _ => o.ty.bits
    (s.engPut bits e.sp e.nibS v halves).tagLines (sliceOf e.sp) e.sp o.spBytes o.tagged

/-- Mark an element as written, or as refused with an error. -/
def State.elemDone (s : State) (core : Nat) (o : EngOp) (n : Nat) (err : Option (Nat × Nat × Nat)) : State :=
  s.modOp core o.id fun o => { o with done := minsert n o.done, errs := o.errs ++ err.toList }

/-- Fetch table elements at some keys. -/
def EngOp.fetch (o : EngOp) (s : State) (vas keys : List Nat) : EngOp :=
  { o with got := o.got ++ (vas.zip keys).map fun q => (q.1, s.mnat q.2 (zOf o.ty.bits)) }

/-- Perform element n, or one half of its 8 bytes (09 R210, R213, R214, 12 R284): the rows it needs are fetched, then its value is
written.  Nothing happens while it waits, faults or reads poison. -/
def State.perform (s : State) (core : Nat) (o : EngOp) (n : Nat) (half : Option Nat) : State :=
  let e := s.elemAt core o n
  match s.elemKeys core o e with
  | none => s
  | some keys =>
    if !s.elemReady core o e (keys.map fun k => (k, zOf o.ty.bits)) || s.elemPoison o e keys then s
    else match e.bad with
      | some err => s.elemDone core o n (some err)
      | none =>
        let o1 := o.fetch s (s.missing core o e.upTo) (keys.drop e.mem.length)
        let v := s.elemValue core o1 e n keys
        let s1 := s.modOp core o.id fun q => { q with got := o1.got }
        match half with
        | none => (s1.elemWrite core o e keys (o.halvesLeft n) v).elemDone core o n none
        | some i => (s1.elemWrite core o e keys ((o.halvesLeft n).filter (· == i)) v).modOp core o.id fun q =>
            { q with halves := minsert (2 * n + i) q.halves }

/-- Elements of an operation that are not yet written. -/
def EngOp.left (o : EngOp) : List Nat := (List.range o.count).filter fun n => !o.done.contains n

/-- An element performed before the operation completes (09 R210, R213, log 10): a scatter keeps the order of its positions, no
element is written past one whose translation faults, and an element over the operation's own sources is left to the end. -/
def State.elementNow (s : State) (core id n : Nat) (half : Option Nat) : State :=
  match s.findOp core id with
  | none => s
  | some o =>
    let before := o.left.takeWhile (· < n)
    let ordered := match o.kind with
      | .scat .. => before == []
      | _ => before.all fun m => (s.engKeys core o (s.elemAt core o m).mem (s.elemAt core o m).toMem).isSome
    if n < o.count && !o.done.contains n && o.parked.isNone && ordered && (!o.isColl || o.inputs != []) &&
        (half.isNone || o.ty.bits == 64) && !s.elemOverlaps core o (s.elemAt core o n) then s.perform core o n half
    else s

/-! ## Ending -/

/-- The status of an operation (09 R217): the lowest code met, at its lowest place. -/
def EngOp.status (o : EngOp) : Nat × Nat :=
  match o.errs with
  | [] => (0, 0)
  | x :: l =>
    let b := l.foldl (fun b q => if q.1 < b.1 ∨ (q.1 = b.1 ∧ q.2.1 < b.2.1) then q else b) x
    (b.1, b.2.2)

/-- An operation that was parked leaves its wait-table entry; an entry left with no slot and no engine is freed (19 R332, R342). -/
def EngOp.leaveWaits (o : EngOp) (q : Nat × WaitE) : Option (Nat × WaitE) :=
  if q.2.ops.contains o.id then
    let ops := q.2.ops.filter (· != o.id)
    let ectx := if o.isCopy then q.2.ectx.filter (· != o.ctx) else q.2.ectx
    if ops == [] && q.2.slots == [] then none else some (q.1, { q.2 with ops := ops, ectx := ectx })
  else some q

/-- The operation leaves its engine and its number completes (08 R187). -/
def State.opEnd (s : State) (core : Nat) (o : EngOp) (code detail : Nat) : State :=
  (s.modCore core fun c =>
    { c with ops := c.ops.filter (fun q => q.id != o.id), waitTab := c.waitTab.filterMap o.leaveWaits }).tlComplete core o.w o.tl o.num code detail

/-- A free value in every destination element that was not written (09 R210); a position with a bad index is written by nothing (09
R212). DESIGN CHOICE (log 49): so also in the destination of a `coll` that ends with CODE 5, of which 09 R215 is silent. -/
def State.spoilOp (s : State) (core : Nat) (o : EngOp) : State :=
  o.left.foldl (fun s n =>
    let e := s.elemAt core o n
    match (if e.bad.isSome then none else if e.toMem then s.engKeys core o e.mem true else some []) with
    | none => s
    | some keys =>
      let f := s.freeBytes 8
      f.2.elemWrite core o e keys (o.halvesLeft n) (ofBytes f.1 % 2 ^ (8 * o.spBytes))) s

/-- The operation stops with an error (09 R210). -/
def State.opFail (s : State) (core : Nat) (o : EngOp) (code : Nat) : State :=
  (s.spoilOp core o).opEnd core o (if o.status.1 = 0 then code else min code o.status.1)
    (if o.status.1 ≠ 0 ∧ o.status.1 < code then o.status.2 else 0)

def EngOp.src (o : EngOp) : Nat := if o.isCopy then 1 else 2

/-- The fault record of an operation (19 R330). -/
def State.opRecord (s : State) (core : Nat) (o : EngOp) (va token kind cause psz : Nat) : State :=
  s.postFault core (faultWords s va token o.vi core o.slot o.path (if o.isCopy then o.ctx else 0) o.src kind cause psz)

/-- The first address whose translation fails, in element order, for a table in the order of positions (09 R210, R212): the address
and the fault. -/
def State.opFault (s : State) (core : Nat) (o : EngOp) : Option (Nat × TRes) :=
  let fails := fun (write : Bool) (va : Nat) => match s.engTranslate core o va write with
    | .ok .. => none
    | r => some (va, r)
  ((List.range o.fetches).findSome? fun q => (s.fetchAt core o q).bind fun va =>
    if (o.has va).isSome then none else fails false va) <|>
  o.left.findSome? fun n =>
    let e := s.elemAt core o n
    e.mem.findSome? (fails e.toMem)

/-- COPY_FAULT (09 R210, R212): a fatal fault ends the operation with CODE 1, a replayable one parks it under its core's wait
table (19 R332); without room for its record the operation stays stalled (19 R331). -/
def execCopyFault (core op : Nat) (s : State) : Res :=
  match s.findOp core op with
  | none => .next s
  | some o =>
    if o.parked.isSome || (o.isColl && o.inputs == []) || !s.faultRoom core 1 then .next s
    else match s.opFault core o with
      | some (va, .bad true cause _ psz) =>
        .next ((s.opRecord core o va 0 (if (s.elemAt core o 0).toMem then 1 else 0) cause psz).opFail core o 1)
      | some (va, .bad false cause base psz) =>
        let j := s.joinWait core o.vi base fun e =>
          { e with ops := minsert o.id e.ops, ectx := if o.isCopy then minsert o.ctx e.ectx else e.ectx }
        .next ((j.2.modOp core o.id fun o => { o with parked := some j.1 }).opRecord core o va j.1
          (if (s.elemAt core o 0).toMem then 1 else 0) cause psz)
      | _ => .next s

/-- The index and offset arrays of a pooled request. -/
def State.opArrays (s : State) (core : Nat) (o : EngOp) : List (Nat × Nat) :=
  match o.kind with
  | .gpool _ idx npos _ _ _ boff nb => [(s.opKey core o idx, 4 * npos), (s.opKey core o boff, 4 * nb + 4)]
  | _ => []

/-- Everything that is left can be fetched and performed now, but for poison. -/
def State.opReady (s : State) (core : Nat) (o : EngOp) : Bool :=
  (match s.engKeys core o (s.missing core o o.fetches) false with
    | none => false
    | some keys => s.runsReady core o (s.opArrays core o) (s.opArrays core o ++ keys.map fun k => (k, zOf o.ty.bits))) &&
  o.left.all fun n =>
    let e := s.elemAt core o n
    match s.elemKeys core o e with
    | none => false
    | some keys => s.elemReady core o e (keys.map fun k => (k, zOf o.ty.bits))

/-- What is left reads poisoned data: the code of its machine check. -/
def State.opPoison (s : State) (core : Nat) (o : EngOp) : Option Nat :=
  let bad := fun (k : Nat) => s.mbad k (zOf o.ty.bits)
  if (s.opArrays core o).any fun q => s.mbad q.1 q.2 then some 0x23
  else if ((s.engKeys core o (s.missing core o o.fetches) false).getD []).any bad then some 0x22
  else o.left.findSome? fun n =>
    let e := s.elemAt core o n
    match s.elemKeys core o e with
    | none => none
    | some keys =>
      if s.elemPoison o e keys then some (if (o.spReads e).any fun q => s.mbad q.1 q.2 then 0x23 else 0x22) else none

/-- Positions with a bad index (09 R212). -/
def State.badIndices (s : State) (core : Nat) (o : EngOp) : List (Nat × Nat × Nat) :=
  match o.kind with
  | .gpool _ idx npos _ _ rows _ _ =>
    (List.range npos).filterMap fun p => if rows ≤ s.opWord core o idx p then some (3, p, p % 256) else none
  | _ => []

/-- Perform everything that is left and complete (09 R210, R212): elements over the operation's own sources come last, as free
values (12 R285). -/
def State.opFinish (s : State) (core : Nat) (o : EngOp) : State :=
  if o.parked.isSome || !s.opReady core o then s
  else match s.opPoison core o with
    | some cause =>
      let s1 := s.opRecord core o 0 0 0 cause 3
      ({ s1 with irqs := s1.irqs ++ [(0, 3)] }).opFail core o 2
    | none =>
      let bad := s.badIndices core o
      let late := o.left.filter fun n => s.elemOverlaps core o (s.elemAt core o n)
      let clear := o.left.filter fun n => !late.contains n
      let dst := late.map fun n => s.elemAt core o n
      let s1 := clear.foldl (fun s n => match s.findOp core o.id with
        | some q => s.perform core q n none
        | none => s) s
      let s2 := dst.foldl (fun s e =>
        if e.bad.isSome then s
        else
          let f := s.freeBytes 8
          f.2.elemWrite core o e [] [0, 1] (ofBytes f.1 % 2 ^ (8 * o.spBytes))) s1
      match s2.findOp core o.id with
      | none => s2
      | some q =>
        let errs := q.errs ++ bad ++ (dst.filterMap fun e => e.bad)
        let st := ({ q with errs := errs } : EngOp).status
        s2.opEnd core o st.1 st.2

/-- COPY_COMPLETE (09 R210, R211). -/
def execCopyComplete (core op : Nat) (s : State) : Res :=
  .next (match s.findOp core op with
    | some o => if o.isCopy then s.opFinish core o else s
    | none => s)

/-- GATHER_COMPLETE (09 R212 to R214). -/
def execGatherComplete (core op : Nat) (s : State) : Res :=
  .next (match s.findOp core op with
    | some o => if o.isGather then s.opFinish core o else s
    | none => s)

/-! ## Collectives (09 R215) -/

/-- The operation with which a member of this device joins: its oldest one on the communicator, which belongs to one launch (21 R369),
that has no inputs yet. -/
def State.joined (s : State) (g : Wg) (o : EngOp) (lcore : Nat) : Option (Nat × EngOp) :=
  let c := s.physCore o.vi lcore
  ((s.core c).ops.find? fun q => q.isColl && q.vi == o.vi && q.comm == o.comm && q.inputs == [] &&
    (s.wg c q.w).replay == g.replay && (s.wg c q.w).node == g.node).map fun q => (c, q)

/-- The input of a member of this device. -/
def State.collInput (s : State) (core : Nat) (o : EngOp) : List Nat :=
  (List.range o.n0).map fun e => s.mnat (s.opKey core o o.lay.base + o.lay.off o.ty.bits 0 0 e) (zOf o.ty.bits)

/-- The input of a member on another device: free values (log 32). -/
def State.farInput (s : State) (o : EngOp) : List Nat × State :=
  ((List.range o.n0).map fun i => (Config.freeWord (s.fresh + i)).toNat % 2 ^ o.ty.bits, { s with fresh := s.fresh + o.n0 })

/-- All inputs by rank, when every member of this device has joined with the same request. -/
def State.gatherInputs (s : State) (g : Wg) (o : EngOp) : List (Nat × Nat) → Option (List (List Nat) × State)
  | [] => some ([], s)
  | m :: l =>
    let here := if m.1 = 0 then
        match s.joined g o m.2 with
        | some q => if q.2.kind = o.kind ∧ q.2.n0 = o.n0 ∧ q.2.ty = o.ty then some (s.collInput q.1 q.2, s) else none
        | none => none
      else some (s.farInput o)
    match here with
    | none => none
    | some a => (a.2.gatherInputs g o l).map fun r => (a.1 :: r.1, r.2)

/-- Every source line of a member is readable now. -/
def State.inputsReady (s : State) (g : Wg) (o : EngOp) : Bool :=
  (s.members o.vi o.comm).all fun m => m.1 != 0 ||
    match s.joined g o m.2 with
    | some q => (List.range o.n0).all fun e =>
        let k := s.opKey q.1 q.2 q.2.lay.base + q.2.lay.off q.2.ty.bits 0 0 e
        let z := zOf q.2.ty.bits
        s.tagsOf (sliceOf k) k z == [] &&
        !((s.core q.1).posted.any fun p => p.ownOf q.2.slot q.2.path && p.meets k z)
    | none => false

/-- A member's input holds an uncorrectable error. -/
def State.inputPoison (s : State) (core : Nat) (o : EngOp) : Bool :=
  (List.range o.n0).any fun e => s.mbad (s.opKey core o o.lay.base + o.lay.off o.ty.bits 0 0 e) (zOf o.ty.bits)

/-- Once all members have joined, every one of them holds the inputs, and whether one of them is poisoned: the poisoned data reach
every member's result (19 R337). -/
def State.joinAll (s : State) (g : Wg) (o : EngOp) : State :=
  if !s.inputsReady g o then s
  else match s.gatherInputs g o (s.members o.vi o.comm) with
    | none => s
    | some r =>
      let targets := (s.members o.vi o.comm).filterMap fun m => if m.1 = 0 then s.joined g o m.2 else none
      let bad := targets.filter fun q => s.inputPoison q.1 q.2
      let s1 := bad.foldl (fun s q =>
        let s1 := s.opRecord q.1 q.2 0 0 0 0x23 3
        { s1 with irqs := s1.irqs ++ [(0, 3)] }) r.2
      targets.foldl (fun s q => s.modOp q.1 q.2.id fun k =>
        { k with inputs := r.1, errs := if bad = [] then k.errs else (2, 0, 0) :: k.errs }) s1

/-- The communicator is not configured, does not hold the core, or has lost a member (CODE 5). -/
def State.commBroken (s : State) (core : Nat) (o : EngOp) : Bool :=
  (s.rankOf core o).isNone || (s.members o.vi o.comm).any fun m => m.1 != 0 && s.isLost m.1

/-- COLLECTIVE_COMPLETE (09 R215): the members' inputs are read when all have joined; the output is written at this member. -/
def execCollectiveComplete (core op : Nat) (s : State) : Res :=
  .next (match s.findOp core op with
    | none => s
    | some o =>
      if !o.isColl then s
      else if s.commBroken core o then s.opFail core o 5
      else
        let s1 := if o.inputs = [] then s.joinAll (s.wg core o.w) o else s
        match s1.findOp core op with
        | some q =>
          if q.inputs = [] then s1
          else if q.errs.any fun e => e.1 == 2 then s1.opFail core q 2
          else s1.opFinish core q
        | none => s1)

/-! ## Issue -/

/-- The memory ranges (address, length) that an operation names, and whether it writes them (09 R194). -/
def State.opRanges (s : State) (core : Nat) (o : EngOp) : List (Nat × Nat) × Bool :=
  let bytes := fun (n : Nat) => if o.ty.bits = 4 then (n + 1) / 2 else n * o.ty.bytes
  let rows := fun (idx npos rstr rows : Nat) =>
    ((List.range npos).map fun p => s.opWord core o idx p).eraseDups.filterMap fun x =>
      if x < rows then some (rowAddr o rstr x 0, bytes o.n0) else none
  match o.kind with
  | .cpyIn | .cpym .. => ([(o.da, bytes o.block)], false)
  | .cpyOut => ([(o.da, bytes o.block)], true)
  | .gath idx npos _ rstr rs | .gpool _ idx npos _ rstr rs _ _ => (rows idx npos rstr rs, false)
  | .scat idx npos _ rstr rs => (rows idx npos rstr rs, true)
  | .allgather c => ([(o.da, (s.members o.vi c).length * bytes o.n0)], true)
  | _ => ([(o.da, bytes o.n0)], true)

/-- What issue does to the core's L1 (09 R194). -/
def State.opL1 (s : State) (core : Nat) (o : EngOp) : State :=
  let h := s.hereAt ⟨core, o.slot, o.path⟩
  let r := s.opRanges core o
  let lines := s.runLines core (r.1.map fun q => s.regionRuns h q.1 q.2).flatten
  lines.foldl (fun s l => if r.2 then s.l1Drop core l else s.l1Clean core l) s

/-- The engine has room: 8 copies, 4 gather requests, 2 collectives (09 R210, R212, R215). -/
def CoreSt.room (c : CoreSt) (o : EngOp) : Bool :=
  if o.isCopy then (c.ops.filter EngOp.isCopy).length < 8
  else if o.isGather then (c.ops.filter EngOp.isGather).length < 4
  else (c.ops.filter EngOp.isColl).length < 2

/-- The lowest free copy context. -/
def CoreSt.freeCtx (c : CoreSt) : Nat :=
  ((List.range 8).find? fun i => !(c.ops.any fun o => o.isCopy && o.ctx == i)).getD 0

/-- A copy of no element (09 R209). -/
def EngOp.nothing (o : EngOp) : Bool := o.isCopy && o.n0 == 0

/-- Issue an operation: it takes its number; a copy of nothing completes at once (09 R194, R209). -/
def State.opIssue (s : State) (core : Nat) (o : EngOp) : State :=
  let q := s.tlIssue core o.w o.tl
  if o.nothing then q.2.tlComplete core o.w o.tl q.1 0 0
  else
    let c := q.2.core core
    let o1 := { o with id := c.nextOp, num := q.1, ctx := if o.isCopy then c.freeCtx else 0 }
    (q.2.setCore core { c with ops := c.ops ++ [o1], nextOp := c.nextOp + 1 }).opL1 core o1

/-- Issue now, wait for room under reason 5, or defer in penumbra state (10 R233); issue is a release (12 R269, R276, R280).  DESIGN
CHOICE (log 49): the checks of an issue that is deferred are made, and trap, when it is recorded, and not again when the commit
issues it (09 R218). -/
def engineIssue (s : State) (h : Here) (len : Nat) (o : EngOp) (own : Bool) : Res :=
  let c := s.core h.r.core
  if h.t.pen && !own then deferOp s h len (leastOf h.p.mask) 1 (.engine o) fun s1 => .next (s1.finish h.r len 0)
  else if !o.nothing && !c.room o then .next (s.stallFor h.r 5)
  else releasing s h (if o.isColl then 5 else 1) <| .next ((s.opIssue h.r.core { o with
    tagged := if own then c.unresolved h.t.ids else [],
    awaits := (c.pen.filter fun d => d.slot == h.r.slot).map (·.id) }).finish h.r len 0)

/-- An operation of the issuing path. -/
def Here.mkOp (h : Here) (x : Args) (kind : EngKind) (n0 n1 n2 : Nat) : EngOp :=
  { id := 0, kind := kind, w := h.t.w, slot := h.r.slot, path := h.r.path, tl := x.d, num := 0, ctx := 0, vi := h.g.vi,
    lay := h.layout x.a, n0 := n0, n1 := n1, n2 := n2, ty := x.ty, da := (h.t.dget x.b).toNat, done := [], parked := none,
    errs := [], tagged := [], inputs := [], got := [], halves := [], awaits := [] }

/-- The extent word of a copy: N0, N1, N2 (09 R209). -/
def extentOf (v : Word) : Nat × Nat × Nat := (fld v.toNat 0 16, fld v.toNat 16 8 + 1, fld v.toNat 24 8 + 1)

/-- Checks 2 to 4 of a copy (09 R209). -/
def copyChecks (s : State) (h : Here) (len : Nat) (o : EngOp) (k : Res) : Res :=
  let low := leastOf h.p.mask
  if o.ty.bits = 4 ∧ o.n0 % 2 = 1 then trapIssue s h len tcLayoutMisalign 0 low
  else if o.da % zOf o.ty.bits ≠ 0 then trapIssue s h len tcAlign o.da low
  else if (windowOf o.da).isSome ∨ 2 ^ 57 ≤ o.da then trapIssue s h len tcMemFatal o.da low
  else k

/-- The whole extent lies in the issuing workgroup's own allocation. -/
def State.layOwn (s : State) (h : Here) (l : Layout) (n : Nat) : Bool := n == 0 || s.spOwn h.g h.r.core l.base n

/-- The registers that a copy reads. -/
def copyRegs (x : Args) (n : Nat) : List Nat := groupRegs x.a n ++ pairRegs x.b ++ readRegs x [(.c, x.c)]

/-- A `cpy` in one direction (09 R209). -/
def copyOp (x : Args) (kind : EngKind) (s : State) : Res :=
  onPath s fun h => needClean s h (argsLen x) [] [] (copyRegs x 3) <|
    let n := extentOf (h.ssrc x .c x.c)
    let o := h.mkOp x kind n.1 n.2.1 n.2.2
    layoutCheck s h (argsLen x) o.lay o.ty.bits o.n2 o.n1 o.n0 <| copyChecks s h (argsLen x) o <|
      engineIssue s h (argsLen x) o (kind == .cpyIn && s.layOwn h o.lay (o.lay.span o.ty.bits o.n2 o.n1 o.n0))

/-- CPY_TO_SCRATCHPAD (09 R209, 05 R110 bit 10 clear). -/
def execCpyToScratchpad (x : Args) (s : State) : Res := copyOp x .cpyIn s

/-- CPY_TO_MEMORY (09 R209, 05 R110 bit 10 set). -/
def execCpyToMemory (x : Args) (s : State) : Res := copyOp x .cpyOut s

/-- The multicast entry of the issuing path's launch (09 R211, 18 R319). -/
def State.mcOf (s : State) (h : Here) (e : Nat) : McEntry :=
  match (s.vi h.g.vi).replays.find? fun r => r.id == h.g.replay with
  | some r => sget McEntry.empty r.mc (h.g.node * 32 + e)
  | none => McEntry.empty

/-- The member logical cores of an entry (18 R319). -/
def McEntry.members (m : McEntry) : List Nat := (List.range m.count).map fun k => m.first + k * m.stride

/-- A member core holds a resident workgroup of the launch whose allocation covers a run at an offset (09 R211). -/
def State.memberHolds (s : State) (h : Here) (lcore off n : Nat) : Bool :=
  (List.range 16).any fun w =>
    let g := s.wg (s.physCore h.g.vi lcore) w
    g.sameLaunch h.g && g.lcore == lcore && (n == 0 || (g.spLo ≤ off && off + n ≤ g.spHi))

/-- `cpym` (09 R211). -/
def execCpym (x : Args) (s : State) : Res :=
  onPath s fun h => needClean s h (argsLen x) [] [] (copyRegs x 4) <|
    let len := argsLen x
    let low := leastOf h.p.mask
    let n := extentOf (h.ssrc x .c x.c)
    let ev := (h.t.sgetr (x.a + 3)).toNat
    let lay := h.layout x.a
    let m := s.mcOf h (ev % 32)
    let off := lay.base % 2 ^ 22
    let span := lay.span x.ty.bits n.2.2 n.2.1 n.1
    if lay.misaligned x.ty.bits ∨ 32 ≤ ev then trapIssue s h len tcLayoutMisalign 0 low
    else if m.changing then .next (s.waitFor h.r 5)
    else
      let fails := m.members.filter fun k => !s.memberHolds h k off span
      if m.members = [] then trapIssue s h len tcScratchBound lay.base low
      else if fails ≠ [] then trapIssue s h len tcScratchBound (leastOf fails * 2 ^ 22 + off) low
      else
        let o := h.mkOp x (.cpym (m.members.map fun k => s.physCore h.g.vi k) h.g.node (ev % 32)) n.1 n.2.1 n.2.2
        copyChecks s h len o <| engineIssue s h len o false

/-- The descriptor of a gather (09 R212): IDX, NPOS, E, RSTR, ROWS. -/
def Here.gatherDesc (h : Here) (x : Args) : Nat × Nat × Nat × Nat × Nat :=
  let g := fun (i : Nat) => (h.t.sgetr (x.c + i)).toNat
  (g 0, g 1, g 2, g 3, g 4)

/-- The checks of a gather, scatter or pooled request in order (09 R212); `pool` holds BOFF and NB. -/
def gatherChecks (s : State) (h : Here) (x : Args) (pool : Option (Nat × Nat)) (k : Res) : Res :=
  let (idx, npos, e, rstr, _) := h.gatherDesc x
  let z := x.ty.bytes
  let badPool := match pool with
    | some q => q.1 % 4 != 0 || decide (4096 < q.2)
    | none => false
  if idx % 4 ≠ 0 ∨ 4096 < npos ∨ e = 0 ∨ 4096 < e ∨ rstr % z ≠ 0 ∨ (h.t.dget x.b).toNat % z ≠ 0 ∨ badPool = true then
    trapIssue s h 8 tcLayoutMisalign 0 (leastOf h.p.mask)
  else
    let rows := match pool with
      | some q => q.2
      | none => npos
    layoutCheck s h 8 (h.layout x.a) (if pool.isSome then 32 else x.ty.bits) 1 rows e <|
      spanCheck s h 8 idx (4 * npos) <|
        match pool with
        | some q => spanCheck s h 8 q.1 (4 * q.2 + 4) k
        | none => k

/-- The registers that a gather reads. -/
def gatherRegs (x : Args) (n : Nat) : List Nat := groupRegs x.a 3 ++ pairRegs x.b ++ groupRegs x.c n

/-- `gath` (09 R213). -/
def execGath (x : Args) (s : State) : Res :=
  onPath s fun h => needClean s h 8 [] [] (gatherRegs x 5) <| gatherChecks s h x none <|
    let (idx, npos, e, rstr, rows) := h.gatherDesc x
    engineIssue s h 8 (h.mkOp x (.gath idx npos e rstr rows) e npos 1) false

/-- `scat` (09 R213). -/
def execScat (x : Args) (s : State) : Res :=
  onPath s fun h => needClean s h 8 [] [] (gatherRegs x 5) <| gatherChecks s h x none <|
    let (idx, npos, e, rstr, rows) := h.gatherDesc x
    engineIssue s h 8 (h.mkOp x (.scat idx npos e rstr rows) e npos 1) false

/-- `gpool` (09 R214). -/
def execGpool (m : PoolMode) (x : Args) (s : State) : Res :=
  onPath s fun h => needClean s h 8 [] [] (gatherRegs x 7) <|
    let boff := (h.t.sgetr (x.c + 5)).toNat
    let nb := (h.t.sgetr (x.c + 6)).toNat
    gatherChecks s h x (some (boff, nb)) <|
      let (idx, npos, e, rstr, rows) := h.gatherDesc x
      engineIssue s h 8 (h.mkOp x (.gpool m idx npos e rstr rows boff nb) e nb 1) false

/-- A collective (09 R215); `split` is the all-to-all. DESIGN CHOICE (log 49): more than 2^24 elements trap after the layout's
checks, and a communicator number above 63 is one that is not configured (CODE 5). -/
def collOp (x : Args) (kind : Nat → EngKind) (split : Bool) (s : State) : Res :=
  onPath s fun h => needClean s h 8 [] [] (groupRegs x.a 3 ++ pairRegs x.b ++ groupRegs x.c 2) <|
    let n := (h.t.sgetr x.c).toNat
    let comm := (h.t.sgetr (x.c + 1)).toNat
    let p := (s.members h.g.vi comm).length
    layoutCheck s h 8 (h.layout x.a) x.ty.bits 1 1 n <|
      if 2 ^ 24 < n ∨ (split ∧ p ≠ 0 ∧ n % p ≠ 0) then trapIssue s h 8 tcLayoutMisalign 0 (leastOf h.p.mask)
      else engineIssue s h 8 (h.mkOp x (kind comm) n 1 1) false

/-- COLL_ALLREDUCE (09 R215). -/
def execCollAllreduce (r : CollRed) (x : Args) (s : State) : Res := collOp x (.allreduce r) false s

/-- COLL_ALLGATHER (09 R215). -/
def execCollAllgather (x : Args) (s : State) : Res := collOp x .allgather false s

/-- COLL_ALLTOALL (09 R215). -/
def execCollAlltoall (x : Args) (s : State) : Res := collOp x .alltoall true s

/-! ## Status (09 R216) -/

/-- The status word of operation number `n` of a timeline. -/
def Timeline.status (t : Timeline) (n : Nat) : Word :=
  if n = 0 ∨ t.issued < n then 0
  else if n + 64 ≤ t.issued then 4
  else
    let o := sget OpStatus.empty t.ops n
    BitVec.ofNat 32 ((if o.done then 1 else 0) + (if o.done && o.code != 0 then 2 else 0) + o.code * 16 + o.detail * 256)

/-- `estat` (09 R216). -/
def execEstat (x : Args) (s : State) : Res :=
  onPath s fun h => needClean s h 8 [] [] (pairRegs x.b) <|
    let v := (h.g.timeline x.a).status (h.t.dget x.b).toNat
    .next ((s.putTeam h (h.t.sputr x.d v)).finish h.r 8 0)

end Sys2Proof.Machine
end

