-- ==== Sys2Proof/Machine/Limit.lean ====
section
/-!
DEFINITION. The limit accumulator (10 R219 to R227): configuration, the area of lane state, pushes, the three estimates.
-/

namespace Sys2Proof.Machine

open Sys2Proof

/-! ## The area (10 R219) -/

/-- History slot j of a lane, and the four words SUM, CNT, LAST, STATUS of a lane, as scratchpad addresses. -/
def La.slotAt (c : La) (w j lane : Nat) : Nat := c.area.toNat + 4 * (j * w + lane)
def La.wordAt (c : La) (w lane i : Nat) : Nat := c.area.toNat + 4 * c.h * w + 16 * lane + 4 * i

/-- The key of an area word. -/
def State.areaKey (s : State) (h : Here) (sa : Nat) : Nat :=
  match s.spPlace h.g.vi h.r.core sa with
  | some q => spKey q.1 q.2
  | none => spKey h.r.core 0

/-- An area word as the issuing path sees it. -/
def State.areaGet (s : State) (h : Here) (sa : Nat) : Nat :=
  ofBytes ((List.range 4).map fun i => s.seen h.r (s.areaKey h sa + i))

/-- Write an area word, tagged with the ids that the team holds (10 R233). -/
def State.areaPut (s : State) (h : Here) (sa v : Nat) : State :=
  s.storeRuns h.r [(s.areaKey h sa, bytesOf 4 v)] (s.team h.r.core h.r.slot).ids

/-- Write an area word that has changed. -/
def State.areaSet (s : State) (h : Here) (sa v : Nat) : State := if s.areaGet h sa = v then s else s.areaPut h sa v

/-- Read area words before their values are used (10 R219, R232). -/
def areaRead (s : State) (h : Here) (len low : Nat) (l : List Nat) (k : State → Res) : Res :=
  reading s h len low (l.map fun sa => (sliceOf (s.areaKey h sa), s.areaKey h sa, 4)) fun s1 =>
    k ((l.filter fun sa => s1.seenBad h.r (s1.areaKey h sa) 4).foldl (fun s sa => s.logBad h 4 (windowBase + sa)) s1)

/-- The fields of a STATUS word. -/
def stFlags (v : Nat) : Nat := fld v 0 4
def stEnt (v : Nat) : Nat := fld v 4 4
def stHead (v : Nat) : Nat := fld v 8 4

/-- A STATUS word within its limits. -/
def La.statusOk (c : La) (v : Nat) : Bool := stEnt v ≤ c.h && stHead v < c.h && v < 2 ^ 12

def Team.laOf (t : Team) (n : Nat) : La := sget La.empty t.la n

/-- LA_STATE unless the register is configured (10 R220). -/
def laReady (s : State) (h : Here) (len n : Nat) (e : Mask) (k : Res) : Res :=
  if (h.t.laOf n).init then k else trapIssue s h len tcLaState n (lowestOf h e)

/-- LA_STATE when a STATUS word read in one of the lanes is out of its limits (10 R219). -/
def statusCheck (s : State) (h : Here) (len n : Nat) (c : La) (lanes : Mask) (k : Res) : Res :=
  let bad := lanes.filter fun l => !c.statusOk (s.areaGet h (c.wordAt h.t.width l 3))
  if bad = [] then k else trapIssue s h len tcLaState n (leastOf bad)

/-! ## `lainit` (10 R221) -/

/-- An FP32 pattern that is negative, −0 excepted, or a NaN. -/
def negOrNan (p : Nat) : Bool :=
  match f32 p with
  | .nan _ => true
  | .inf n => n
  | .num x => x.neg && x.num != 0

/-- The lowest address of a run outside the issuing workgroup's own allocation (10 R221, R229). -/
def State.ownFail (s : State) (h : Here) (sa n : Nat) : Option Nat :=
  match s.spPlace h.g.vi h.r.core sa with
  | none => some sa
  | some q =>
    if !h.g.named sa ∨ q.1 ≠ h.r.core ∨ q.2 < h.g.spLo ∨ h.g.spHi ≤ q.2 then some sa
    else if q.2 + n ≤ h.g.spHi then none
    else some (sa + (h.g.spHi - q.2))

/-- The configuration of a descriptor, when check 2 of 10 R221 passes. -/
def laConfig (area w1 nz st : Word) : Option La :=
  let v := w1.toNat
  let c : La := { init := true, mode := fld v 0 2, h := fld v 4 4, k := fld v 16 16, nz := nz, st := st, area := area }
  if c.mode = 3 ∨ c.h < 3 ∨ 8 < c.h ∨ c.k = 0 ∨ fld v 2 2 ≠ 0 ∨ fld v 8 8 ≠ 0 ∨ negOrNan nz.toNat ∨ negOrNan st.toNat then none
  else some c

/-- `lainit` (10 R221): acts once, for every lane position. -/
def execLainit (x : Args) (s : State) : Res :=
  onPath s fun h =>
    let len := argsLen x
    let low := leastOf h.p.mask
    needClean s h len [] [] (groupRegs x.a 4) <|
      match laConfig (h.t.sgetr x.a) (h.t.sgetr (x.a + 1)) (h.t.sgetr (x.a + 2)) (h.t.sgetr (x.a + 3)) with
      | none => trapIssue s h len tcLaState x.d low
      | some c =>
        let w := h.t.width
        if c.area.toNat % 16 ≠ 0 then trapIssue s h len tcAlign c.area.toNat low
        else match s.ownFail h c.area.toNat (w * (4 * c.h + 16)) with
          | some a => trapIssue s h len tcScratchBound a low
          | none =>
            let s1 := (List.range w).foldl (fun s l =>
              (List.range 4).foldl (fun s i => s.areaPut h (c.wordAt w l i) 0) s) s
            .next ((s1.modTeam h.r.core h.r.slot fun t => { t with la := sput La.empty t.la x.d c }).finish h.r len 0)

/-! ## Adding and pushing (10 R222) -/

/-- Push SUM into the history: slot HEAD, then HEAD and ENT move on. -/
def State.laPush (s : State) (h : Here) (c : La) (lane : Nat) : State :=
  let w := h.t.width
  let v := s.areaGet h (c.wordAt w lane 3)
  let s1 := s.areaSet h (c.slotAt w (stHead v) lane) (s.areaGet h (c.wordAt w lane 0))
  s1.areaSet h (c.wordAt w lane 3) (stFlags v + min (stEnt v + 1) c.h * 16 + (stHead v + 1) % c.h * 256)

/-- `laadd` (10 R222): subnormals honoured, flags in `%ff`. -/
def execLaadd (x : Args) (s : State) : Res :=
  onPath s fun h =>
    let len := argsLen x
    laReady s h len x.d (h.execLanes x.guard) <|
      let e := h.execLanes x.guard
      let c := h.t.laOf x.d
      let w := h.t.width
      needClean s h len e (readRegs x [(.a, x.a)]) [] <|
        areaRead s h len (lowestOf h e) ((e.map fun l => [c.wordAt w l 0, c.wordAt w l 1]).flatten) fun s1 =>
          let full := fun (l : Nat) => (s1.areaGet h (c.wordAt w l 1) + 1) % 2 ^ 32 == c.k
          let push := e.filter full
          areaRead s1 h len (lowestOf h e) (push.map fun l => c.wordAt w l 3) fun s2 =>
            statusCheck s2 h len x.d c push <|
              let one := fun (s : State) (l : Nat) =>
                let sum := fadd (f32 (s.areaGet h (c.wordAt w l 0))) (f32 (h.vsrc x .a x.a l).toNat)
                let r := rne32 sum.1
                let n := (s.areaGet h (c.wordAt w l 1) + 1) % 2 ^ 32
                let s3 := (s.areaSet h (c.wordAt w l 0) r.1).modTeam h.r.core h.r.slot fun t => t.ffOr l (sum.2 ||| r.2)
                if n = c.k then (s3.laPush h c l).areaSet h (c.wordAt w l 1) 0 else s3.areaSet h (c.wordAt w l 1) n
              .next ((e.foldl one s2).finish h.r len 0)

/-- `lachk` (10 R222): a checkpoint now. -/
def execLachk (x : Args) (s : State) : Res :=
  onPath s fun h => laReady s h 8 x.d (h.execLanes x.guard) <|
    let e := h.execLanes x.guard
    let c := h.t.laOf x.d
    let w := h.t.width
    areaRead s h 8 (lowestOf h e) ((e.map fun l => [c.wordAt w l 0, c.wordAt w l 3]).flatten) fun s1 =>
      statusCheck s1 h 8 x.d c e <|
        .next ((e.foldl (fun s l => (s.laPush h c l).areaSet h (c.wordAt w l 1) 0) s1).finish h.r 8 0)

/-- `laclr` (10 R222): writes the lane state without reading it. -/
def execLaclr (x : Args) (s : State) : Res :=
  onPath s fun h => laReady s h 8 x.d (h.execLanes x.guard) <|
    let c := h.t.laOf x.d
    .next (((h.execLanes x.guard).foldl (fun s l =>
      (List.range 4).foldl (fun s i => s.areaPut h (c.wordAt h.t.width l i) 0) s) s).finish h.r 8 0)

/-! ## Estimates (10 R223 to R226) -/

/-- Single-rounding FP32 steps, without flags. -/
def lSub (a b : FVal) : FVal := f32 (rne32 (fadd a b.negate).1).1
def lAdd (a b : FVal) : FVal := f32 (rne32 (fadd a b).1).1
def lDiv (a b : FVal) : FVal := f32 (rne32 (fdiv a b).1).1
def lFma (a b c : FVal) : FVal := f32 (rne32 (fmad a b c).1).1
def lOne : FVal := .num (.ofInt 1)
def lLe (a b : FVal) : Bool := floatCond .le a b

/-- Mode 0, Aitken (10 R225): the estimate and NZD. -/
def estAitken (S : List FVal) (nz : FVal) : FVal × Bool :=
  let g := fun (i : Nat) => S.getD (S.length - 3 + i) (.num (.zero false))
  let d0 := lSub (g 1) (g 0)
  let d1 := lSub (g 2) (g 1)
  let den := lSub d1 d0
  if lLe den.absv nz then (g 2, true) else (lFma d1.negate (lDiv d1 den) (g 2), false)

/-- One cell of Wynn's table and whether its divisor was near zero (10 R226). -/
def wynnCell (nz : FVal) (hi lo old : Option FVal) : Option FVal × Bool :=
  match hi, lo with
  | some a, some b =>
    let diff := lSub a b
    if lLe diff.absv nz then (none, true)
    else match old with
      | some c => (some (lAdd c (lDiv lOne diff)), false)
      | none => (none, false)
  | _, _ => (none, false)

/-- The columns from k on: `prev` is column k − 2, `cur` column k − 1, `best` the answer so far. -/
def wynnCols (nz : FVal) : Nat → Nat → List (Option FVal) → List (Option FVal) → FVal → Bool → FVal × Bool
  | 0, _, _, _, best, nzd => (best, nzd)
  | left + 1, k, prev, cur, best, nzd =>
    let cells := (List.range (cur.length - 1)).map fun n =>
      wynnCell nz (cur.getD (n + 1) none) (cur.getD n none) (prev.getD (n + 1) none)
    let col := cells.map (·.1)
    let best1 := if k % 2 = 0 then ((col.filterMap id).getLast?).getD best else best
    wynnCols nz left (k + 1) cur col best1 (nzd || cells.any (·.2))

/-- Mode 1, Wynn's epsilon table (10 R226). -/
def estWynn (S : List FVal) (nz : FVal) : FVal × Bool :=
  wynnCols nz (S.length - 1) 1 (List.replicate (S.length + 1) (some (.num (.zero false)))) (S.map some)
    (S.getLastD (.num (.zero false))) false

/-- Mode 2, the least-squares geometric fit (10 R224): the estimate, NZD, DIVG. -/
def estGeom (S : List FVal) (nz : FVal) : FVal × Bool × Bool :=
  let last := S.getLastD (.num (.zero false))
  let d := List.zipWith lSub (S.drop 1) S
  let step := fun (q : FVal × FVal) (p : FVal × FVal) => (lFma p.2 p.1 q.1, lFma p.1 p.1 q.2)
  let q := (d.zip (d.drop 1)).foldl step (.num (.zero false), .num (.zero false))
  if lLe q.2 nz then (last, true, false)
  else
    let rho := lDiv q.1 q.2
    if rho.isNan || lLe lOne rho || lLe rho lOne.negate then (last, false, true)
    else (lFma (d.getLastD (.num (.zero false))) (lDiv rho (lSub lOne rho)) last, false, false)

/-- The estimate of a lane (10 R223): E and the flags VALID, NZD, DIVG in bits 0, 1 and 3. -/
def La.estimate (c : La) (sum : Nat) (S : List Nat) : Nat × Nat :=
  let need := if c.mode = 0 then 3 else c.h
  if S.length < need then (sum, 0)
  else
    let used := (S.drop (S.length - need)).map f32
    let bad := used.any fun v => match v with
      | .num _ => false
      | _ => true
    if bad then (S.getLastD 0, 8)
    else if c.mode = 0 then
      let e := estAitken used (f32 c.nz.toNat)
      ((rne32 e.1).1, 1 + (if e.2 then 2 else 0))
    else if c.mode = 1 then
      let e := estWynn used (f32 c.nz.toNat)
      ((rne32 e.1).1, 1 + (if e.2 then 2 else 0))
    else
      let e := estGeom used (f32 c.nz.toNat)
      ((rne32 e.1).1, 1 + (if e.2.1 then 2 else 0) + (if e.2.2 then 8 else 0))

/-- The history slots of a lane, oldest first (10 R219). -/
def La.slots (c : La) (w lane v : Nat) : List Nat :=
  (List.range (stEnt v)).map fun i => c.slotAt w ((stHead v + c.h - stEnt v + i) % c.h) lane

/-- The slots that an estimate uses. -/
def La.usedSlots (c : La) (w lane v : Nat) : List Nat :=
  let l := c.slots w lane v
  let need := if c.mode = 0 then 3 else c.h
  if l.length < need then [] else l.drop (l.length - need)

/-- |E − LAST| ≤ ST, exactly. -/
def La.near (c : La) (e last : Nat) : Bool := lLe (fadd (f32 e) (f32 last).negate).1.absv (f32 c.st.toNat)

/-- One lane of `laest`: E, with LAST and STATUS written. -/
def State.laEstLane (s : State) (h : Here) (c : La) (lane : Nat) : Nat × State :=
  let w := h.t.width
  let v := s.areaGet h (c.wordAt w lane 3)
  let r := c.estimate (s.areaGet h (c.wordAt w lane 0)) ((c.slots w lane v).map fun a => s.areaGet h a)
  let stag := r.2 % 2 == 1 && v % 2 == 1 && c.near r.1 (s.areaGet h (c.wordAt w lane 2))
  (r.1, (s.areaSet h (c.wordAt w lane 2) r.1).areaSet h (c.wordAt w lane 3)
    (v / 16 * 16 + r.2 + (if stag then 4 else 0)))

/-- `laest` (10 R223). -/
def execLaest (x : Args) (s : State) : Res :=
  onPath s fun h =>
    let len := argsLen x
    laReady s h len x.a (h.execLanes x.guard) <|
      let e := h.execLanes x.guard
      let c := h.t.laOf x.a
      let w := h.t.width
      areaRead s h len (lowestOf h e) (e.map fun l => c.wordAt w l 3) fun s1 =>
        statusCheck s1 h len x.a c e <|
          let more := fun (l : Nat) =>
            let u := c.usedSlots w l (s1.areaGet h (c.wordAt w l 3))
            (if u = [] then [c.wordAt w l 0] else u) ++ [c.wordAt w l 2]
          areaRead s1 h len (lowestOf h e) ((e.map more).flatten) fun s2 =>
            let bad := e.filter fun l => (c.wordAt w l 3 :: more l).any fun a => s2.seenBad h.r (s2.areaKey h a) 4
            let r := e.foldl (fun acc l =>
              let q := acc.2.laEstLane h c l
              (acc.1 ++ [(l, BitVec.ofNat 64 q.1)], q.2)) (([] : List (Nat × DWord)), s2)
            .next ((r.2.addPend h.r (.load .b32 x.d 3) r.1 bad).finish h.r len 0)

/-- Write a bit of STATUS to a predicate in each executing lane. -/
def laBit (x : Args) (bit : Nat) (s : State) : Res :=
  onPath s fun h =>
    let len := argsLen x
    laReady s h len x.a (h.execLanes x.guard) <|
      let e := h.execLanes x.guard
      let c := h.t.laOf x.a
      let at_ := fun (l : Nat) => c.wordAt h.t.width l 3
      areaRead s h len (lowestOf h e) (e.map at_) fun s1 => statusCheck s1 h len x.a c e <|
        .next ((s1.modTeam h.r.core h.r.slot fun t =>
          t.setPreds x.d (e.map fun l => (l, tbit (s1.areaGet h (at_ l)) bit))).finish h.r len 0)

/-- LASTAG (10 R227). -/
def execLastag (x : Args) (s : State) : Res := laBit x 2 s

/-- LASTAG_DIVG (10 R227). -/
def execLastagDivg (x : Args) (s : State) : Res := laBit x 3 s

/-- `laflag` (10 R227). -/
def execLaflag (x : Args) (s : State) : Res :=
  onPath s fun h => laReady s h 8 x.a (h.execLanes x.guard) <|
    let e := h.execLanes x.guard
    let c := h.t.laOf x.a
    let at_ := fun (l : Nat) => c.wordAt h.t.width l 3
    areaRead s h 8 (lowestOf h e) (e.map at_) fun s1 => statusCheck s1 h 8 x.a c e <|
      let bad := e.filter fun l => s1.seenBad h.r (s1.areaKey h (at_ l)) 4
      let vals := e.map fun l => (l, BitVec.ofNat 64 (s1.areaGet h (at_ l) % 256))
      .next ((s1.addPend h.r (.load .b32 x.d 3) vals bad).finish h.r 8 0)

end Sys2Proof.Machine
end

