-- ==== Sys2Proof/Machine/Forecast.lean ====
section
/-!
DEFINITION. Forecast slots, speculation ids, commit and squash, and the deferred operations (10 R228 to R238).
-/

namespace Sys2Proof.Machine

open Sys2Proof

/-! ## Slots -/

def CoreSt.fsOf (c : CoreSt) (n : Nat) : Fs := sget Fs.empty c.fs n
def State.setFs (s : State) (core n : Nat) (f : Fs) : State := s.modCore core fun c => { c with fs := sput Fs.empty c.fs n f }

/-- The slot is bound by the issuing workgroup. -/
def Here.boundFs (h : Here) (f : Fs) : Bool := f.bound && f.owner == h.t.w

/-- The slot's unresolved speculation was taken by the issuing team. -/
def Here.ownsFs (h : Here) (f : Fs) : Bool := h.boundFs f && f.isOpen && f.team == h.r.slot

def Fs.ty (f : Fs) : Ty := Ty.ofCode f.fmt
def Fs.count (f : Fs) : Nat := f.rows * f.cols
def Fs.bytes (f : Fs) : Nat := f.count * f.ty.bytes

/-- Addresses within the slot area (10 R229): version of V, of V′, NVER, copies V, V′ and P. -/
def Fs.verAt (f : Fs) (k : Nat) : Nat := f.area.toNat + 8 * k
def Fs.nverAt (f : Fs) : Nat := f.area.toNat + 16
def Fs.copyAt (f : Fs) (k : Nat) : Nat := f.area.toNat + 64 + k * f.bytes

/-- The region of an object, when it is bound, not in peer memory, and has the length L (10 R229). -/
def State.tileRegion (s : State) (h : Here) (obj len : Nat) : Option Nat :=
  match (s.core h.r.core).bindOf h.g.vi obj with
  | none => none
  | some b => if b.len = len ∧ !(s.regionSpaces h b.base b.len).contains 3 then some b.base else none

/-- Bytes of the slot area. -/
def State.areaBytes (s : State) (h : Here) (sa n : Nat) : List Byte :=
  (List.range n).map fun i => s.seen h.r (s.areaKey h sa + i)

/-- Write bytes of the slot area, tagged with the team's ids (10 R233). -/
def State.areaWrite (s : State) (h : Here) (sa : Nat) (bs : List Byte) : State :=
  s.storeRuns h.r [(s.areaKey h sa, bs)] (s.team h.r.core h.r.slot).ids

/-! ## Ids -/

/-- The core's teams with a path that still waits for an id as held. -/
def State.idHeld (s : State) (core x : Nat) : Bool :=
  (s.slotsOf core).any fun k =>
    let t := s.team core k
    t.ids.contains x || t.paths.any fun q => match q.2.wait with
      | .held l => l.contains x
      | _ => false

/-- A resolved id that no team holds, and no slot keeps, is free again (10 R231, R237). -/
def State.gcIds (s : State) (core : Nat) : State :=
  s.modCore core fun c =>
    { c with ids := c.ids.filter fun q => q.2 == .unresolved || s.idHeld core q.1 ||
        c.fs.any fun f => f.2.isOpen && f.2.id == q.1 }

/-- Remove an id from the tags of every line (10 R232, R235), and from what engine operations have still to tag. -/
def CoreSt.untag (c : CoreSt) (x : Nat) : CoreSt :=
  { c with
    tags := c.tags.filterMap fun q =>
      let l := q.2.filter (· != x)
      if l = [] then none else some (q.1, l),
    ops := c.ops.map fun o => { o with tagged := o.tagged.filter (· != x) } }

/-- Deferred operations of a team. -/
def CoreSt.penOf (c : CoreSt) (slot : Nat) : List DefEntry := c.pen.filter fun e => e.slot == slot

/-- Those that a commit performs: every id under which they were recorded has committed (10 R235 step 3). -/
def CoreSt.penDue (c : CoreSt) (slot : Nat) : List DefEntry := (c.penOf slot).filter fun e => e.ids == []

/-- A team that holds no id performs what it has deferred (10 R235 step 3, R236). -/
def State.startFlush (s : State) (core slot : Nat) : State :=
  let t := s.team core slot
  if t.ids = [] ∧ (s.core core).penDue slot ≠ [] then s.setTeam core slot { t with flushing := true } else s

/-- Squash an id (10 R235 step 4): entries that carry it are discarded, its tags removed, it leaves every team; other teams that
held it are marked squashed.  What the taking team deferred under no id is performed. -/
def State.squashId (s : State) (core x : Nat) : State :=
  let c0 := s.core core
  let mine := fun (f : Fs) => f.isOpen && !f.gone && f.id == x
  let taker := (c0.fs.find? fun f => mine f.2).map fun f => f.2.team
  let c1 := ({ c0 with
    ids := sput .free c0.ids x .squashed,
    pen := c0.pen.filter fun e => !e.ids.contains x,
    fs := c0.fs.map fun f => (f.1, if mine f.2 then { f.2 with gone := true } else f.2) } : CoreSt).untag x
  let s1 := (s.slotsOf core).foldl (fun s k =>
    s.modTeam core k fun t =>
      if t.ids.contains x then
        { t with ownIds := t.ownIds.filter (· != x), inhIds := t.inhIds.filter (· != x),
                 squashed := t.squashed || taker != some k }
      else t) (s.setCore core c1)
  match taker with
  | some k => if (s1.team core k).squashed then s1 else s1.startFlush core k
  | none => s1

/-- Commit an id (10 R235 step 3): deferred operations no longer depend on it. -/
def State.commitId (s : State) (core slot x : Nat) : State :=
  ((s.modCore core fun c => ({ c with
      ids := sput .free c.ids x .committed,
      pen := c.pen.map fun e => { e with ids := e.ids.filter (· != x) } } : CoreSt).untag x).modTeam core slot fun t =>
    { t with ownIds := t.ownIds.filter (· != x) }).startFlush core slot

/-- Go on at a target, or wait there until the team's deferred operations are performed. -/
def State.goOrFlush (s : State) (r : PathRef) (target : DWord) : State :=
  if (s.team r.core r.slot).flushing then s.modPath r fun p => { p with wait := .commit target false, window := 0 }
  else s.goto r target

/-- The same for `spjoin`, which clears the team's squashed mark as it goes on (10 R236 step 4). -/
def State.joinOrFlush (s : State) (r : PathRef) (target : DWord) : State :=
  if (s.team r.core r.slot).flushing then s.modPath r fun p => { p with wait := .commit target true, window := 0 }
  else (s.modTeam r.core r.slot fun t => { t with squashed := false }).goto r target

/-! ## Binding and recording (10 R229, R230) -/

def fsTypes : List Ty := [.f32, .f16, .bf16, .e4m3, .e5m2]

/-- `fcbind` (10 R229).  ROWS = 0 and COLS = 0, which no check of the rule names, trap SPEC_ILLEGAL (log 49). -/
def execFcbind (x : Args) (s : State) : Res :=
  onPath s fun h =>
    let low := leastOf h.p.mask
    let reg := fun (i : Nat) => h.t.sgetr (x.b + i)
    needClean s h 8 [] [] (pairRegs x.a ++ groupRegs x.b 5) <|
      let obj := (h.t.dget x.a).toNat
      let v := (reg 0).toNat
      let old := (s.core h.r.core).fsOf x.d
      let f : Fs := { old with bound := true, owner := h.t.w, obj := obj, rows := fld v 8 12, cols := fld v 20 12,
                               fmt := fld v 0 4, abs := reg 1, rel := reg 2, maxbad := reg 3, area := reg 4 }
      let holds := match (s.core h.r.core).bindOf h.g.vi obj with
        | some b => b.holders.contains h.t.w
        | none => false
      if obj % 8 ≠ 0 then trapIssue s h 8 tcAlign obj low
      else if !holds || f.rows == 0 || f.cols == 0 || !fsTypes.contains f.ty || fld v 4 4 != 0 || negOrNan (reg 1).toNat ||
          negOrNan (reg 2).toNat || (old.bound && old.owner != h.t.w) || old.isOpen || h.t.pen ||
          (s.tileRegion h obj f.bytes).isNone then trapIssue s h 8 tcSpecIllegal 0 low
      else if f.area.toNat % 64 ≠ 0 then trapIssue s h 8 tcAlign f.area.toNat low
      else match s.ownFail h f.area.toNat (64 + 3 * f.bytes) with
        | some a => trapIssue s h 8 tcScratchBound a low
        | none =>
          .next (((s.setFs h.r.core x.d f).areaWrite h f.nverAt (List.replicate 48 0)).finish h.r 8 0)

/-- The faults of a range of memory for a path, one for each page (10 R230, R235). -/
def State.rangeFaults (s : State) (h : Here) (base len : Nat) : List (LaneAcc × TRes) :=
  (regionPoints base len).map fun va => (⟨leastOf h.p.mask, va, 0, 0⟩, s.place h va false)

/-- Read a range of memory as the path's ordinary loads would, line by line; an uncorrectable word is logged (19 R337). -/
def State.rangeRead (s : State) (h : Here) (base len : Nat) : List Byte × State :=
  (List.range ((base + len - 1) / 64 - base / 64 + 1)).foldl (fun acc i =>
    let lo := max base ((base / 64 + i) * 64)
    let hi := min (base + len) ((base / 64 + i + 1) * 64)
    match acc.2.place h lo false with
    | .ok tgt pa .. =>
      let q := acc.2.loadAt h.r tgt pa (hi - lo)
      (acc.1 ++ q.1, if q.2.loadBad h.r tgt pa (hi - lo) then q.2.logBad h tgt lo else q.2)
    | .bad .. => acc) ([], s)

/-- The scratchpad run of a range that lies in the window. -/
def State.rangeRuns (s : State) (h : Here) (base len : Nat) : List (Nat × Nat × Nat) :=
  match windowOf base with
  | some sa => match s.spPlace h.g.vi h.r.core sa with
    | some q => [(q.1, spKey q.1 q.2, len)]
    | none => []
  | none => []

/-- The slot area as a run that is read: version words, NVER and the copies V and V′, whichever of them the mode uses (10 R229, R232;
log 49). -/
def State.areaRuns (s : State) (h : Here) (f : Fs) : List (Nat × Nat × Nat) :=
  [(sliceOf (s.areaKey h f.area.toNat), s.areaKey h f.area.toNat, 64 + 2 * f.bytes)]

/-- The records of the faults of a range: the fatal ones, where there are any. -/
def State.rangeRecords (s : State) (h : Here) (base n : Nat) : Nat :=
  let tr := s.rangeFaults h base n
  (byPage (if faultsOf tr true ≠ [] then faultsOf tr true else faultsOf tr false)).length

/-- Go on when a range can be read by the path; otherwise trap or park, `fullK` while the fault ring has no room (10 R230, 08 R174,
19 R331). -/
def rangeCheck (s : State) (h : Here) (len base n : Nat) (op : AccOp) (fullK : Res) (fatalK : State → Nat → Res) (k : Res) : Res :=
  match windowOf base with
  | some sa =>
    match s.spanFail h.g h.r.core sa n with
    | some a => trapIssue s h len tcScratchBound a (leastOf h.p.mask)
    | none => k
  | none =>
    let tr := s.rangeFaults h base n
    let fatal := faultsOf tr true
    let soft := faultsOf tr false
    let records := s.rangeRecords h base n
    if records != 0 && !s.faultRoom h.r.core records then fullK
    else if fatal ≠ [] then fatalK (s.postFaults h 0 0 0 fatal) (lowestAcc (fatal.map fun q => ⟨0, q.1, 0, 0⟩)).1
    else if soft ≠ [] then
      .next (s.park h 0 0 soft (h.allLanes (lowestAcc (soft.map fun q => ⟨0, q.1, 0, 0⟩)).1) op h.p.pc (h.p.pc + BitVec.ofNat 64 len))
    else k

/-- `fcrec` (10 R230): V moves to V′, the region and the object's value become V; the path waits under reason 3 until the copy is
written, and goes on in the next cycle. -/
def execFcrec (x : Args) (s : State) : Res :=
  onPath s fun h =>
    let low := leastOf h.p.mask
    let f := (s.core h.r.core).fsOf x.d
    if !h.boundFs f || f.isOpen || h.t.pen then trapIssue s h 8 tcSpecIllegal 0 low
    else match s.tileRegion h f.obj f.bytes with
      | none => trapIssue s h 8 tcSpecIllegal 0 low
      | some base =>
        let fatalK := fun (s1 : State) (va : Nat) => Host.Outcome.next (s1.trapHere h.r 8 tcMemFatal va low)
        let fullK := Host.Outcome.next (s.waitFor h.r 12)
        rangeCheck s h 8 base f.bytes .again fullK fatalK <| rangeCheck s h 8 f.obj 8 .again fullK fatalK <|
          reading s h 8 low (s.rangeRuns h base f.bytes ++ s.rangeRuns h f.obj 8 ++ s.areaRuns h f) fun s1 =>
            let v := s1.rangeRead h base f.bytes
            let ver := v.2.rangeRead h f.obj 8
            let s2 := ver.2
            let n := ofBytes (s2.areaBytes h f.nverAt 4)
            let s3 := (s2.areaWrite h (f.copyAt 1) (s2.areaBytes h (f.copyAt 0) f.bytes)).areaWrite h (f.verAt 1)
              (s2.areaBytes h (f.verAt 0) 8)
            let s4 := ((s3.areaWrite h (f.copyAt 0) v.1).areaWrite h (f.verAt 0) ver.1).areaWrite h f.nverAt
              (bytesOf 4 (min (n + 1) 2))
            .next ((s4.finish h.r 8 0).modPath h.r fun p => { p with wait := .pause 3 })

/-! ## Taking a forecast (10 R231) -/

/-- The predicted pattern of an element: v for hold, 2v − v′ for linear, 1.5v − 0.5v′ for damped, rounded once. -/
def forecast (t : Ty) (m : FcMode) (v v' : Nat) : Nat :=
  let a := fdecode t v
  let b := fdecode t v'
  let k := fun (neg : Bool) (n d : Nat) => FVal.num ⟨neg, n, d⟩
  let e := match m with
    | .hold => a
    | .linear => (fadd (fmul (k false 2 1) a).1 (fmul (k true 1 1) b).1).1
    | .damped => (fadd (fmul (k false 3 2) a).1 (fmul (k true 1 2) b).1).1
  (fround t .rne 0 false e).1

/-- All predicted patterns of a slot. -/
def State.forecastAll (s : State) (h : Here) (f : Fs) (m : FcMode) : List Nat :=
  let z := f.ty.bytes
  let m1 := if ofBytes (s.areaBytes h f.nverAt 4) = 1 then FcMode.hold else m
  (List.range f.count).map fun k =>
    forecast f.ty m1 (ofBytes (s.areaBytes h (f.copyAt 0 + k * z) z)) (ofBytes (s.areaBytes h (f.copyAt 1 + k * z) z))

/-- A free id of a core (10 R231): the lowest, which is the model's choice (log 50). -/
def CoreSt.freeId (c : CoreSt) : Option Nat := ((List.range 255).map (· + 1)).find? fun x => c.idState x == .free

/-- `fctake` (10 R231): its writes are tagged in the own allocation and deferred elsewhere (10 R233). -/
def execFctake (m : FcMode) (x : Args) (s : State) : Res :=
  onPath s fun h => needClean s h 8 [] [] (groupRegs x.b 3) <|
    let low := leastOf h.p.mask
    let f := (s.core h.r.core).fsOf x.a
    if !h.boundFs f || f.isOpen || decide (4 ≤ h.t.ids.length) then trapIssue s h 8 tcSpecIllegal 0 low
    else reading s h 8 low (s.areaRuns h f) fun s => onPath s fun h =>
    if ofBytes (s.areaBytes h f.nverAt 4) == 0 || decide (4 ≤ h.t.ids.length) then trapIssue s h 8 tcSpecIllegal 0 low
    else
      let l := h.layout x.b
      let z := f.ty.bytes
      layoutCheck s h 8 l (8 * z) 1 f.rows f.cols <|
        match (s.core h.r.core).freeId with
        | none => .next (s.waitFor h.r 13)
        | some id =>
          let ps := s.forecastAll h f m
          let q := s.layPlace h.g h.r.core l
          let put := fun (d : Sparse Nat) (e : Nat × Nat) =>
            let k := spKey q.1 (q.2 + l.off (8 * z) 0 (e.2 / f.cols) (e.2 % f.cols))
            (List.range z).foldl (fun d i => sput 0 d (k + i) (e.1 / 256 ^ i % 256 + 1)) d
          let bs := (ps.zipIdx.foldl put []).map fun e => (e.1, BitVec.ofNat 8 (e.2 - 1))
          let far := bs.filter fun e => !h.ownKey e.1
          let own := bs.filter fun e => h.ownKey e.1
          let ids := h.t.ownIds ++ [id] ++ h.t.inhIds
          if (s.core h.r.core).penFree < lineCount far then
            (if s.committing h.r.core then .next (s.stallFor h.r 13) else trapIssue s h 8 tcSpecIllegal 0 low)
          else
            let s1 := (s.modTeam h.r.core h.r.slot fun t => { t.sputr x.d (BitVec.ofNat 32 id) with ownIds := t.ownIds ++ [id] })
            let s1 := (s1.setFs h.r.core x.a { f with isOpen := true, gone := false, id := id, team := h.r.slot }).modCore
              h.r.core fun c => { c with ids := sput .free c.ids id .unresolved }
            let s2 := if far = [] then s1 else s1.defer h.r ids (lineCount far) (.store far true)
            let s3 := s2.areaWrite h (f.copyAt 2) (ps.map fun p => bytesOf z p).flatten
            .next ((s3.storeRuns h.r (byteRuns own) ids).finish h.r 8 0)

/-! ## Resolution (10 R235) -/

/-- The target of `spres` and `spjoin`: bits 55:36 as a signed offset in units of 8 bytes (10 R228). -/
def Here.specTarget (h : Here) (x : Args) : DWord :=
  h.p.pc + BitVec.ofInt 64 (8 * sext (x.b + x.c * 2 ^ 8 + x.ty.code * 2 ^ 16) 20)

/-- Step 4 and 5 for an id that is already squashed: the path goes on at the target. -/
def State.resolveGone (s : State) (h : Here) (fs : Nat) (f : Fs) (target : DWord) : State :=
  let s1 := if h.p.wait.tries then s.count h.r 0 else s
  ((s1.setFs h.r.core fs { f with isOpen := false, gone := false, lastSq := true }).gcIds h.r.core).goOrFlush h.r target

/-- `spres` (10 R235): step 1 here, the compare in TOLERANCE_COMPARE_DONE, the deferred operations in
DEFERRED_OP_PERFORM. -/
def execSpres (x : Args) (s : State) : Res :=
  onPath s fun h =>
    let len := argsLen x
    let low := leastOf h.p.mask
    let f := (s.core h.r.core).fsOf x.d
    match h.p.wait with
    | .commit .. => .next s
    | _ =>
      if !h.ownsFs f then trapIssue s h len tcSpecIllegal 0 low
      else if f.gone then .next (s.resolveGone h x.d f (h.specTarget x))
      else match h.p.wait with
        | .compare _ | .compareFail .. => .next s
        | _ =>
          let s := s.modPath h.r fun p => { p with spres := some x.d }
          needClean s h len [] [] (if x.lit.isSome then [] else pairRegs x.a) <|
            objectAt s h len 0 f.obj x.md true fun s1 tgt pa =>
              let q := s1.acquireObject h tgt pa f.obj x.md
              let s2 := q.2.dropRuns h.r.core x.md (s.boundRuns h f.obj)
              if q.1.toNat < (h.dsrc x .a x.a false).toNat then
                .next (s2.begins h.r h.p.wait 0 (.spres x.d))
              else if (s2.tileRegion h f.obj f.bytes).isNone then trapIssue s2 h len tcSpecIllegal 0 low
              else .next (s2.begins h.r h.p.wait 0 (.compare x.d))

/-- A pair of elements out of tolerance (10 R235 step 2). -/
def badPair (f : Fs) (r p : Nat) : Bool :=
  let a := fdecode f.ty r
  let b := fdecode f.ty p
  let d := match a, b with
    | .inf m, .inf n => if m = n then FVal.num (.zero false) else (fadd a b.negate).1.absv
    | _, _ => (fadd a b.negate).1.absv
  let d1 := f32 (rne32 d).1
  let t := f32 (rne32 (fmul (f32 f.rel.toNat) a.absv).1).1
  let lim := f32 (rne32 (fadd (f32 f.abs.toNat) t).1).1
  a.isNan || b.isNan || d1.isNan || floatCond .gt d1 lim

/-- The number of bad elements between the region's bytes and copy P. -/
def badCount (f : Fs) (region copy : List Byte) : Nat :=
  let z := f.ty.bytes
  ((List.range f.count).filter fun k =>
    badPair f (ofBytes ((region.drop (k * z)).take z)) (ofBytes ((copy.drop (k * z)).take z))).length

/-- The region as a load of the path sees it: its own stores on their way, then the L1, or memory behind the core's writes toward the
links (10 R235 step 2, 12 R264). -/
def State.coreView (s : State) (h : Here) (base len : Nat) : List Byte :=
  let c := s.core h.r.core
  (List.range len).map fun i => match s.place h (base + i) false with
    | .ok tgt pa .. =>
      let k := pKey tgt pa
      c.overlay h.r.slot h.r.path k (if c.l1.lines.contains (lineOf k) then sget 0 c.l1.data k else s.coreByte h.r.core k)
    | .bad .. => 0

/-- The waiting path of a compare on a slot. -/
def State.comparing (s : State) (core fs : Nat) : Option PathRef :=
  let f := (s.core core).fsOf fs
  ((s.team core f.team).paths.find? fun q => match q.2.wait with
    | .compare n | .compareFail n _ => n == fs
    | _ => false).map fun q => ⟨core, f.team, q.1⟩

/-- The target of the `spres` at which a path waits, from its encoding. -/
def State.spresTarget (s : State) (h : Here) : DWord :=
  h.p.pc + BitVec.ofInt 64 (8 * sext (fld (s.wordAt h.r 8) 36 20) 20)

/-- TOLERANCE_COMPARE_DONE (10 R235 steps 2 to 5). -/
def execToleranceCompareDone (core fs : Nat) (s : State) : Res :=
  match s.comparing core fs with
  | none => .next s
  | some r =>
    let h := s.hereAt r
    let f := (s.core core).fsOf fs
    let len := s.lenAt r
    let target := s.spresTarget h
    let fatalK := fun (s1 : State) (va : Nat) =>
      let s2 := (s1.squashId core f.id).setFs core fs { f with isOpen := false, bad := 0xFFFF, lastSq := true }
      Host.Outcome.next ((s2.gcIds core).takeTrap r 0 0
        ⟨tcMemFatal, BitVec.ofNat 64 va, leastOf h.p.mask, h.p.pc, target, 0⟩)
    if f.gone then .next s
    else match h.p.wait with
    | .compareFail _ va => fatalK s va
    | _ => match s.tileRegion h f.obj f.bytes with
    | none => .next (s.trapHere r len tcSpecIllegal 0 (leastOf h.p.mask))
    | some base =>
      rangeCheck s h len base f.bytes (.compare fs) (.next s) fatalK <|
        let held := (s.rangeRuns h base f.bytes).any fun q => (s.tagsOf q.1 q.2.1 q.2.2).any fun x => x != f.id || q.1 != core
        if held then .next s
        else
          let bad := badCount f (s.coreView h base f.bytes) (s.areaBytes h (f.copyAt 2) f.bytes)
          let done := fun (sq : Bool) (s1 : State) =>
            s1.setFs core fs { f with isOpen := false, bad := min bad 0xFFFF, lastSq := sq }
          if bad ≤ f.maxbad.toNat then
            .next (((done false (s.commitId core r.slot f.id)).gcIds core).goOrFlush r (h.p.pc + BitVec.ofNat 64 len))
          else .next (((done true (s.squashId core f.id)).gcIds core).goOrFlush r target)

/-! ## Deferred operations (10 R233 to R235) -/

/-- A deferred operation can be performed now. -/
def State.defReady (s : State) (core : Nat) (e : DefEntry) : Bool :=
  let c := s.core core
  match e.op with
  | .store .. => true
  | .erel _ _ _ _ scope => !c.unperformed e.slot e.path scope
  | .nbarr .. => !c.unperformed e.slot e.path 1
  | .rput n _ =>
    let r := s.ringOf (s.hereAt ⟨core, e.slot, e.path⟩) n
    !c.unperformed e.slot e.path 2 && !(s.ringLive (clusterOf core) r && (r.slotAt r.wp).full)
  | .qput _ => !c.unperformed e.slot e.path 1 &&
    (match (s.team core e.slot).partner with
      | some k => (s.team core k).window.length < 8
      | none => true)
  | .engine o => (o.nothing || c.room o) && !c.unperformed e.slot e.path (if o.isColl then 5 else 1)

/-- The reason under which a path waits for its team's deferred operations (10 R235 step 3): 8 while the oldest waits for a ring or queue
slot, 5 while it waits for an engine, else 13. -/
def State.commitReason (s : State) (core slot : Nat) : Nat :=
  match (s.core core).penDue slot with
  | [] => 13
  | e :: _ =>
    let c := s.core core
    if s.defReady core e then 13
    else match e.op with
      | .rput .. => if c.unperformed e.slot e.path 2 then 13 else 8
      | .qput _ => if c.unperformed e.slot e.path 1 then 13 else 8
      | .engine o => if o.nothing || c.room o then 13 else 5
      | _ => 13

/-- A compare whose faults find the fault ring full waits for room (19 R331). -/
def State.compareStuck (s : State) (r : PathRef) (fs : Nat) : Bool :=
  let h := s.hereAt r
  let f := (s.core r.core).fsOf fs
  !f.gone && match s.tileRegion h f.obj f.bytes with
    | some base => (windowOf base).isNone && s.rangeRecords h base f.bytes != 0 &&
        !s.faultRoom r.core (s.rangeRecords h base f.bytes)
    | none => false

/-- An engine operation awaits a deferred store of its path (12 R283). -/
def State.awaited (s : State) (core id : Nat) : Bool := (s.core core).ops.any fun o => o.awaits.contains id

/-- Perform a deferred operation as if it were issued now; a store that an engine operation awaits is written back to memory, which
the engine reads (12 R283); an `rput` whose ring has no resident consumer any more is dropped (log 49); a store is every path's own,
since they all saw it deferred (10 R233).  DESIGN CHOICE (log 49): an engine operation is issued without a second check (09 R218).
-/
def State.defPerform (s : State) (core : Nat) (e : DefEntry) : State :=
  let r : PathRef := ⟨core, e.slot, e.path⟩
  let h := s.hereAt r
  match e.op with
  | .store bs _ =>
    let s1 := (byteRuns bs).foldl (fun s q =>
      s.storeAs core e.slot (minsert e.path h.t.livePaths) (q.1 / 2 ^ 52) (q.1 % 2 ^ 52) q.2) s
    if s.awaited core e.id then bs.foldl (fun s q => s.l1Clean core (lineOf q.1)) s1 else s1
  | .erel tgt pa va v scope => (s.cleanRuns core scope (s.boundRuns h va)).writeObject r tgt pa v scope
  | .nbarr n lanes count => s.nbArrive core h.t.w n lanes count
  | .rput n vals =>
    let q := s.ringOf h n
    if s.ringLive (clusterOf core) q then s.ringFill (clusterOf core) n q vals else s
  | .qput v => match h.t.partner with
    | some k => if (s.team core k).partner = some e.slot then s.queuePut core k v else s
    | none => s
  | .engine o => s.opIssue core o

/-- The team has performed everything: it leaves penumbra state and its waiting path goes on (10 R235 step 3). -/
def State.endFlush (s : State) (core slot : Nat) : State :=
  let s1 := s.modTeam core slot fun t => { t with flushing := false }
  (s1.team core slot).paths.foldl (fun s q => match q.2.wait with
    | .commit a joins => (s.modTeam core slot fun t => { t with squashed := t.squashed && !joins }).goto ⟨core, slot, q.1⟩ a
    | _ => s) s1

/-- DEFERRED_OP_PERFORM (10 R234): a commit performs one entry at a time, in program order. -/
def execDeferredOpPerform (core slot : Nat) (s : State) : Res :=
  if !(s.team core slot).flushing then .next s
  else match (s.core core).penDue slot with
    | [] => .next (s.endFlush core slot)
    | e :: rest =>
      if !s.defReady core e then .next s
      else
        let s1 := (s.defPerform core e).modCore core fun c => { c with pen := c.pen.filter fun q => q.id != e.id }
        .next (if rest = [] then s1.endFlush core slot else s1)

/-- HELD_OP_RELEASE (10 R233): every id of a held instruction has resolved. -/
def execHeldOpRelease (core slot path : Nat) (s : State) : Res :=
  let r : PathRef := ⟨core, slot, path⟩
  match (s.path r).wait with
  | .held ids => match (s.core core).heldVerdict ids with
    | some b => .next ((s.modPath r fun p => { p with wait := .heldDone b }).gcIds core)
    | none => .next s
  | _ => .next s

/-- `spjoin` (10 R236). -/
def execSpjoin (x : Args) (s : State) : Res :=
  onPath s fun h =>
    let next := h.p.pc + 8
    match h.p.wait with
    | .commit .. => .next s
    | _ =>
      if h.t.inhIds = [] ∧ !h.t.squashed then .next (s.finish h.r 8 0)
      else if (s.core h.r.core).unresolved h.t.inhIds ≠ [] then .next (s.waitFor h.r 13)
      else
        let s1 := s.modTeam h.r.core h.r.slot fun t => { t with inhIds := [] }
        .next (((((s1.gcIds h.r.core).startFlush h.r.core h.r.slot).count h.r 0)).joinOrFlush h.r
          (if h.t.squashed then h.specTarget x else next))

/-- `spabort` (10 R237). -/
def execSpabort (x : Args) (s : State) : Res :=
  onPath s fun h =>
    let f := (s.core h.r.core).fsOf x.d
    if !h.ownsFs f then trapIssue s h 8 tcSpecIllegal 0 (leastOf h.p.mask)
    else if f.gone then .next (s.finish h.r 8 0)
    else .next ((s.squashId h.r.core f.id).finish h.r 8 0)

/-- `spstat` (10 R237). -/
def execSpstat (x : Args) (s : State) : Res :=
  onPath s fun h =>
    let f := (s.core h.r.core).fsOf x.a
    let b := fun (c : Bool) (i : Nat) => if c then 2 ^ i else 0
    let mine := if h.boundFs f then
        f.bad * 2 ^ 16 + f.id * 2 ^ 8 + b f.isOpen 2 + b f.lastSq 1 + 1
      else 0
    let v := mine + b h.t.squashed 7 + b h.t.pen 6 + min h.t.ids.length 7 * 8
    .next ((s.putTeam h (h.t.sputr x.d (BitVec.ofNat 32 v))).finish h.r 8 0)

end Sys2Proof.Machine
end

