-- ==== Sys2Proof/Machine/System.lean ====
section
/-!
DEFINITION. The system instructions (11 R243 to R249), and the events that belong to paths: traps delivered, stops, data that
return, stores acknowledged, fault records, spilled paths, and the matrix engine's gate.
-/

namespace Sys2Proof.Machine

open Sys2Proof

/-! ## Traps (11 R244, R245, R240) -/

/-- The operand of `trap`, `brk`, `mark` and `pmread`. -/
def Here.sysArg (h : Here) (x : Args) : Word := h.ssrc x .a x.a

/-- `trap` and `brk` (11 R244): issued and counted; without an executing lane they have no effect. -/
def softTrap (cause : Nat) (x : Args) (s : State) : Res :=
  onPath s fun h =>
    let e := h.execLanes x.guard
    if e = [] then .next (s.finish h.r (argsLen x) 0)
    else needClean s h (argsLen x) [] [] (readRegs x [(.a, x.a)]) <|
      if h.p.pendTrap.isSome then .next (s.deliverPending h.r)
      else .next ((s.count h.r 0).trapHere h.r (argsLen x) cause (h.sysArg x).toNat (leastOf e))

/-- `trap` (11 R244). -/
def execTrap (x : Args) (s : State) : Res := softTrap tcUserTrap x s

/-- `brk` (11 R244). -/
def execBrk (x : Args) (s : State) : Res := softTrap tcBreak x s

/-- `tret` (11 R245).  DESIGN CHOICE (log 49): INFO of its ALIGN and MEM_FATAL is the target's offset in the code image, as it is
for `ret`. -/
def execTret (x : Args) (s : State) : Res :=
  onPath s fun h =>
    let low := leastOf h.p.mask
    if !h.p.inh then trapIssue s h 8 tcPrivilege 0 low
    else needClean s h 8 [] [] (optScalar x.a).toList <|
      let t := match optScalar x.a with
        | some n => h.t.sgetr n
        | none => h.p.tresume
      if t.toNat % 8 ≠ 0 then trapIssue s h 8 tcAlign t.toNat low
      else if h.g.codeSize ≤ t.toNat then trapIssue s h 8 tcMemFatal t.toNat low
      else .next ((s.count h.r 0).trapReturn h.r h.g t)

/-- TRAP_DELIVERY (11 R240, R242): the trap that waits in a lookahead window is delivered, once an instruction that has issued and
waits is over. -/
def execTrapDelivery (core slot path : Nat) (s : State) : Res :=
  let r : PathRef := ⟨core, slot, path⟩
  let p := s.path r
  if p.live && p.eclipse.isNone && p.parked.isNone && p.wait.fresh then .next (s.deliverPending r) else .next s

/-! ## Counters, time, trace (11 R246 to R249) -/

/-- `tsread` (11 R246). -/
def execTsread (x : Args) (s : State) : Res :=
  onPath s fun h => .next ((s.putTeam h (h.t.dput x.d s.ticks)).finish h.r 8 0)

/-- Issues of a team in a cycle that are counted already. -/
def Team.issuedIn (t : Team) (cycle : Nat) : Nat := (t.recent.filter fun q => q.1 == cycle).length

/-- Passes that are counted and run in this cycle or later. -/
def Team.passesTo (t : Team) (cycle : Nat) : Nat := (t.recent.map fun q => (q.2.filter fun k => cycle ≤ k).length).sum

/-- The value of a selector in a cycle: what counted up to the cycle before (11 R248, R241). -/
def Here.counter (h : Here) (cycle n : Nat) : Word :=
  if n < 16 then BitVec.ofNat 32 (sget 0 h.t.stall n)
  else if n = 0x10 then BitVec.ofNat 32 (sat32 (h.t.issued - h.t.issuedIn cycle))
  else if n = 0x11 then BitVec.ofNat 32 (sat32 (h.t.passes - h.t.passesTo cycle))
  else if n = 0x20 then BitVec.ofNat 32 (h.p.twin * 2 ^ 12 + (if h.p.inh then 2 ^ 8 else 0) + h.p.tcause)
  else if n = 0x21 then h.p.tpc
  else if n = 0x22 then h.p.tresume
  else if n = 0x23 then h.p.tinfo.extractLsb' 0 32
  else if n = 0x24 then h.p.tinfo.extractLsb' 32 32
  else if n = 0x25 then h.p.tlane
  else 0

/-- `pmread` (11 R248). -/
def execPmread (x : Args) (s : State) : Res :=
  onPath s fun h => needClean s h (argsLen x) [] [] (readRegs x [(.a, x.a)]) <|
    .next ((s.putTeam h (h.t.sputr x.d (h.counter (s.core h.r.core).cycle (h.sysArg x).toNat))).finish h.r (argsLen x) 0)

/-- `mark` (11 R249). -/
def execMark (x : Args) (s : State) : Res :=
  onPath s fun h => needClean s h (argsLen x) [] [] (readRegs x [(.a, x.a)]) <|
    .next ((s.tracePost h.r.core h.r.slot h.r.path h.g.vi 0 (h.sysArg x).toNat (h.offset h.p.pc).toNat).finish h.r
      (argsLen x) 0)

/-- `wake` (11 R247, R257): starts the wake of a gated engine, or resets the idle count. -/
def execWake (_x : Args) (s : State) : Res :=
  onPath s fun h =>
    .next ((s.modCore h.r.core fun c =>
      if c.gated then { c with gated := false, waking := true, wakeLeft := 180 }
      else if c.waking then c
      else { c with idle := 0 }).finish h.r 8 0)

/-- MATRIX_WAKE_DONE (11 R257): a wake lasts exactly 180 cycles; the idle count starts at 0. -/
def execMatrixWakeDone (core : Nat) (s : State) : Res :=
  let c := s.core core
  if c.waking && c.wakeLeft == 0 then .next (s.setCore core { c with waking := false, idle := 0 }) else .next s

/-- MATRIX_ENGINE_GATE (11 R257, 22 R373): an awake engine idle for the programmed limit gates; a limit of 0 never does. -/
def execMatrixEngineGate (core : Nat) (s : State) : Res :=
  let c := s.core core
  if !c.gated && !c.waking && c.running.isNone && c.mqueue == [] && c.mxidle != 0 && decide (c.mxidle ≤ c.idle) then
    .next (s.setCore core { c with gated := true, mxgates := sat32 (c.mxgates + 1) })
  else .next s

/-! ## Stops (20 R352 to R354) -/

/-- STOP_RECORD (20 R352, R354): the record of the oldest stop is written when the ring has room. -/
def execStopRecord (die : Nat) (s : State) : Res :=
  let d := s.die die
  match d.stopQ with
  | [] => .next s
  | q :: rest =>
    if (d.sttail + 1) % 256 = d.sthead then .next s
    else .next (s.setDie die { d with stopQ := rest, stopRing := sput [] d.stopRing d.sttail q.words, sttail := (d.sttail + 1) % 256 })

/-! ## Data and records on their way -/

/-- Write returned data to a team's registers, poisoned lanes included (19 R337). -/
def Team.return_ (t : Team) (d : Pend) : Team :=
  let t1 := d.vals.foldl (fun t q => if d.wide then t.vput64 d.dst q.1 q.2 else t.vput d.dst q.1 (q.2.setWidth 32)) t
  let regs := if d.wide then [d.dst, d.dst + 1] else [d.dst]
  { t1 with vpoison := d.poison.foldl (fun p l => regs.foldl (fun p r => sput false p (r * 1024 + l) true) p) t1.vpoison }

/-- Split data on their way by lane: those that arrive now, and what is left of them. -/
def Pend.part (d : Pend) (now : Nat → Bool) : Pend × Pend :=
  ({ d with vals := d.vals.filter fun q => now q.1, poison := d.poison.filter now, far := d.far.filter fun q => now q.1 },
   { d with vals := d.vals.filter fun q => !now q.1, poison := d.poison.filter fun l => !now l,
            far := d.far.filter fun q => !now q.1 })

/-- The lanes `now` of a path's data at an index reach their destination. -/
def State.arrive (s : State) (r : PathRef) (idx : Nat) (now : Pend → Nat → Bool) : State :=
  match (s.path r).pend[idx]? with
  | none => s
  | some d =>
    let q := d.part (now d)
    if q.1.vals = [] then s
    else (s.modTeam r.core r.slot fun t => t.return_ q.1).modPath r fun p =>
      { p with pend := if q.2.vals = [] then p.pend.eraseIdx idx else p.pend.set idx q.2 }

/-- A lane's data were to come from a pool window that is down, issued n thirds of a nanosecond ago or earlier (21 R361). -/
def State.lostFor (s : State) (d : Pend) (lane n : Nat) : Bool :=
  d.far.any fun q => q.1 == lane && s.poolLost q.2.1 && decide (q.2.2 + n ≤ s.time3)

/-- An access to a lost pool window completes after 100 µs as a machine check with cause 0x24: what its lanes hold then is not
given, free values (21 R361, log 45). -/
def State.loseLoad (s : State) (r : PathRef) (idx : Nat) (d : Pend) : State :=
  let free := fun (i : Nat) => (Config.freeWord (s.fresh + 2 * i)).setWidth 64 + (Config.freeWord (s.fresh + 2 * i + 1)).setWidth 64 <<< 32
  let vals := d.vals.zipIdx.map fun q => (q.1.1, if s.lostFor d q.1.1 300000 then free q.2 else q.1.2)
  let s1 := { s with fresh := s.fresh + 2 * d.vals.length }.modPath r fun p => { p with pend := p.pend.set idx { d with vals := vals } }
  let s2 := s1.arrive r idx fun d l => s.lostFor d l 300000
  let vi := (s.wg r.core (s.team r.core r.slot).w).vi
  let s3 := s2.postFault r.core (faultWords s 0 0 vi r.core r.slot r.path 0 0 0 0x24 3)
  { s3 with irqs := s3.irqs ++ [(0, 3)] }

/-- LOAD_DATA_RETURN (11 R252, R253): data on their way to a path reach their destination, in any order; lanes with an exact time
arrive at it and not before, those of a lost pool window after 100 µs and with a machine check (21 R361). -/
def execLoadDataReturn (core slot : Nat) (d : DataRef) (s : State) : Res :=
  let cycle := (s.core core).cycle
  let r : PathRef := ⟨core, slot, d.path⟩
  let now := fun (d : Pend) (l : Nat) => !s.lostFor d l 0 && match d.due.find? fun q => q.1 == l with
    | some q => decide (q.2 ≤ cycle)
    | none => true
  match (s.path r).pend[d.idx]? with
  | some p => .next (if p.vals.any fun q => s.lostFor p q.1 300000 then s.loseLoad r d.idx p else s.arrive r d.idx now)
  | none => .next s

/-- A write toward a pool window that is down is never acknowledged (21 R361). -/
def State.linkDown (s : State) (q : Posted) : Bool := s.poolLost q.key

/-- STORE_ACKNOWLEDGE (08 R175): a posted store is performed; those of one path that overlap keep their order. -/
def execStoreAcknowledge (core idx : Nat) (s : State) : Res :=
  let c := s.core core
  match c.posted[idx]? with
  | none => .next s
  | some q =>
    let earlier := (c.posted.take idx).any fun p => p.sameAgent q && p.meets q.key q.bytes.length
    if earlier || s.linkDown q then .next s
    else .next ((s.setCore core { c with posted := c.posted.eraseIdx idx }).mput q.key q.bytes)

/-- FAULT_RECORD (19 R330, R331): the next record is written when the ring has room. -/
def execFaultRecord (die : Nat) (s : State) : Res :=
  let d := s.die die
  match d.faultQ with
  | [] => .next s
  | q :: rest =>
    if (d.fqtail + 1) % 4096 = d.fqhead then .next s
    else .next (s.setDie die { d with faultQ := rest, faultRing := sput [] d.faultRing d.fqtail q.words,
                                      fqtail := (d.fqtail + 1) % 4096 })

/-! ## Spilled paths (01 R26) -/

/-- A wait on a named synchronisation (01 R43). -/
def Wait.named : Wait → Bool
  | .join .. | .barrier .. | .tree .. | .timeline .. | .spres _ | .compare _ | .compareFail .. | .held _ | .commit .. => true
  | .retry n => n == 8 || n == 13
  | _ => false

/-- A path waits on a named synchronisation, or will again once its own spilled entry has been stored. -/
def Path.namedWait (p : Path) : Bool :=
  p.wait.named || match p.parked with
    | some { op := .spill w, .. } => w.named
    | _ => false

/-- A path takes an on-chip entry, or gives its own up, as the newest arrival there (01 R26). -/
def Team.moveEntry (t : Team) (i : Nat) (on : Bool) : Team :=
  { t.modPath i fun p => { p with onChip := on, entered := t.entries } with entries := t.entries + 1 }

/-- The path of a list that has been where it is for longest. -/
def oldestPath : List (Nat × Path) → Option Nat
  | [] => none
  | q :: l => some (l.foldl (fun b k => if k.2.entered < b.2.entered then k else b) q).1

/-- The store of a victim's entry faults from SRC 5 (19 R328, R330): fatally, and the path traps MEM_FATAL at the instruction before
which it stands; or it parks, and waits on as it did once the fault is replayed.  Nothing happens while the fault ring has no room,
and to a path that is parked or stopped (log 25). -/
def State.spillBroken (s : State) (h : Here) (fatal soft : List (Nat × Nat × Nat × Nat)) : State :=
  let va := lowestAcc ((if fatal != [] then fatal else soft).map fun q => ⟨0, q.1, 0, 0⟩)
  if h.p.parked.isSome || h.p.eclipse.isSome || h.p.wait == .trap ||
      !s.faultRoom h.r.core (byPage (if fatal != [] then fatal else soft)).length then s
  else if fatal != [] then
    let s1 := s.postFaults h 5 1 0 fatal
    if h.p.pendTrap.isSome then s1.deliverPending h.r
    else s1.takeTrap h.r 0 0 ⟨tcMemFatal, BitVec.ofNat 64 va.1, leastOf h.p.mask, h.p.pc, h.p.pc, 0⟩
  else s.park h 5 1 soft (h.allLanes va.1) (.spill h.p.wait) h.p.pc h.p.pc

/-- PATH_UNSPILL (01 R26): the oldest spilled path takes a free entry, or the entry of a path that waits on a named synchronisation,
or that of the path which has held its entry longest.  DESIGN CHOICE (log 40): of several paths that wait on a named synchronisation
the victim is the one that has held its entry longest.  The victim's entry is stored in the private region: where a page of it does
not take the store, that store faults for the victim, and the exchange waits (19 R328, log 25). -/
def execPathUnspill (core slot : Nat) (s : State) : Res :=
  let t := s.team core slot
  let live := t.paths.filter fun q => q.2.mask != []
  let on := live.filter fun q => q.2.onChip
  match oldestPath (live.filter fun q => !q.2.onChip) with
  | none => .next s
  | some i =>
    if on.length < 16 then .next (s.setTeam core slot (t.moveEntry i true))
    else match oldestPath (on.filter fun q => q.2.namedWait) <|> oldestPath on with
      | none => .next s
      | some v =>
        let t1 := (t.moveEntry v false).moveEntry i true
        let lines := s.spillLines (s.hereAt ⟨core, slot, v⟩) t1.spillSize true
        if faultsOf lines true ++ faultsOf lines false != [] then
          .next (s.spillBroken (s.hereAt ⟨core, slot, v⟩) (faultsOf lines true) (faultsOf lines false))
        else .next ((s.setTeam core slot t1).spillStore ⟨core, slot, v⟩)

end Sys2Proof.Machine
end

