-- ==== Sys2Proof/Machine/Graph.lean ====
section
/-!
DEFINITION. What firmware reads from memory: graph objects, launch records, multicast tables, ring descriptors and patch tables
(18 R312 to R321), with the checks of registration (18 R314) in their order.
-/

namespace Sys2Proof.Machine

open Sys2Proof

/-! ## Firmware's reads -/

/-- Why a check ends: an error code of 18 R311 with an index, or a page that the host owns, for which firmware waits (log 16). -/
inductive GErr where
  | bad (code index : Nat)
  | wait
deriving DecidableEq, Repr

abbrev GRes (α : Type) := Except GErr α

/-- The place of a virtual address of an interface; a fatal translation fault makes the object unreadable (18 R311). -/
def State.fwPlace (s : State) (vi va : Nat) (write : Bool) : GRes Nat :=
  if 2 ^ 57 ≤ va then .error (.bad 0x0E 0)
  else match s.walkVa vi Team.empty va write with
    | .ok tgt pa .. => .ok (pKey tgt pa)
    | .bad true .. => .error (.bad 0x0E 0)
    | .bad false .. => .error .wait

/-- Read n bytes that lie in one page. -/
def State.fwRead (s : State) (vi va n : Nat) : GRes Nat := (s.fwPlace vi va false).map fun k => s.mnat k n

/-- Go on when a condition holds. -/
def need (b : Bool) (code index : Nat) : GRes Unit := if b then .ok () else .error (.bad code index)

/-! ## The header (18 R312) -/

structure GHead where
  length : Nat
  nnode : Nat
  nodeo : Nat
  ndep : Nat
  depo : Nat
  nlrec : Nat
  lreco : Nat
  nring : Nat
  ringo : Nat
deriving DecidableEq, Repr

/-- A table of n bytes at an offset lies in the object and is aligned. -/
def GHead.inside (h : GHead) (off n : Nat) : Bool := off % 16 == 0 && decide (off + n ≤ h.length)

/-- Read and check the header: step 1 of 18 R314. -/
def State.readHead (s : State) (vi base : Nat) : GRes GHead := do
  let w := fun (o : Nat) => s.fwRead vi (base + o) 4
  let magic ← w 0
  let ver ← w 4
  let h : GHead := ⟨← w 8, ← w 12, ← w 16, ← w 20, ← w 24, ← w 28, ← w 32, ← w 36, ← w 40⟩
  let rsv ← w 44
  let rsv2 ← s.fwRead vi (base + 48) 16
  need (magic == 0x54484230 && ver == 1 && rsv == 0 && rsv2 == 0 && decide (64 ≤ h.length) && decide (h.length ≤ 2 ^ 31) &&
    decide (1 ≤ h.nnode) && decide (h.nnode ≤ 4096) && decide (h.ndep ≤ 65536) && decide (1 ≤ h.nlrec) &&
    decide (h.nlrec ≤ 4096) && decide (h.nring ≤ 768) && h.inside h.nodeo (16 * h.nnode) && h.inside h.depo (4 * h.ndep) &&
    h.inside h.lreco (128 * h.nlrec) && h.inside h.ringo (16 * h.nring)) 0x06 0
  return h

/-! ## Nodes (18 R313) -/

/-- Read and check the node table: step 2 of 18 R314. -/
def State.readNodes (s : State) (vi base : Nat) (h : GHead) : GRes (List GNode) := do
  let deps ← (List.range h.ndep).mapM fun i => s.fwRead vi (base + h.depo + 4 * i) 4
  (List.range h.nnode).mapM fun i => do
    let a := base + h.nodeo + 16 * i
    let lrec ← s.fwRead vi a 4
    let cnt ← s.fwRead vi (a + 4) 4
    let first ← s.fwRead vi (a + 8) 4
    let rsv ← s.fwRead vi (a + 12) 4
    let nsucc := cnt / 2 ^ 16
    let succ := (deps.drop first).take nsucc
    need (rsv == 0 && decide (lrec < h.nlrec) && decide (first + nsucc ≤ h.ndep) && succ.all (fun m => decide (m < h.nnode)) &&
      cnt % 2 ^ 16 == (deps.filter (· == i)).length) 0x07 i
    return ⟨lrec, cnt % 2 ^ 16, succ⟩

/-- The nodes that no order by dependences can reach (step 3 of 18 R314), ascending. -/
def cyclic (nodes : List GNode) : Nat → List Nat → List Nat
  | 0, l => l
  | fuel + 1, l =>
    let stay := l.filter fun m => l.any fun k => (nodes.getD k ⟨0, 0, []⟩).succ.contains m
    if stay.length = l.length then stay else cyclic nodes fuel stay

/-! ## Launch records (18 R316) -/

def LRec.empty : LRec := ⟨0, 0, 0, 0, 0, 0, 0, 0, 0, 0, 0, 0, 0, 0, 0, [], 0, 0, 0, 0, 0⟩

/-- A level word. -/
def levelOf (w : Nat) : Level := ⟨w / 2 ^ 29, fld w 26 3, w % 2 ^ 24⟩

/-- Read a launch record into fields; `rsv` is non-zero when a reserved field is. -/
def State.readLRec (s : State) (vi a : Nat) : GRes LRec := do
  let w := fun (o : Nat) => s.fwRead vi (a + o) 4
  let d := fun (o : Nat) => s.fwRead vi (a + o) 8
  let w20 ← w 20
  let w28 ← w 28
  let w36 ← w 36
  let lv ← [40, 44, 48, 52, 56].mapM w
  let declared := lv.takeWhile fun x => x / 2 ^ 29 != 0
  let cls ← d 80
  let tail ← w 92
  let tail2 ← s.fwRead vi (a + 96) 16
  let tail3 ← s.fwRead vi (a + 112) 16
  let w60 ← w 60
  let rsv := fld w20 8 3 + w20 % 16 + w28 % 2 ^ 16 + w60 + cls / 4 + tail + tail2 + tail3 + (lv.drop declared.length).foldl (· + ·) 0 +
    (declared.map fun x => fld x 24 2).foldl (· + ·) 0
  return { addr := a, code := ← d 0, data := ← d 8, extent := ← w 16, sregs := w20 / 2 ^ 24, vgran := fld w20 16 8,
           wgt := fld w20 11 5, logw := fld w20 4 4, shadow := ← w 24, ssregs := w28 / 2 ^ 24, svgran := fld w28 16 8,
           trap := ← w 32, tiles := w36 / 2 ^ 24, accs := fld w36 16 8, scr := w36 % 2 ^ 16,
           levels := declared.map levelOf, timeout := ← d 64, start := ← d 72, cls := cls % 4, mco := ← w 88, rsv := rsv }

def LRec.hasShadow (r : LRec) : Bool := r.shadow != 0
def LRec.width (r : LRec) : Nat := 2 ^ r.logw
def LRec.wgLanes (r : LRec) : Nat := r.width * (r.wgt + 1)

/-- Workgroups of the launch. -/
def LRec.nwg (r : LRec) : Nat := ceilDiv r.extent r.wgLanes

/-- Lanes of a workgroup, and of one of its teams (01 R12). -/
def LRec.lanesOf (r : LRec) (w : Nat) : Nat := min r.wgLanes (r.extent - w * r.wgLanes)
def LRec.teamLanes (r : LRec) (w k : Nat) : Nat := min r.width (r.lanesOf w - k * r.width)

/-- Compute teams that are started (01 R12). -/
def LRec.teamsOf (r : LRec) (w : Nat) : Nat := ceilDiv (r.lanesOf w) r.width

/-- Narrowest scope for a domain (01 R33). -/
def minScope (dom : Nat) : Nat := if dom = 1 then 2 else if dom = 5 then 5 else 3

/-- The declared levels keep 01 R33 and 18 R316, after a domain and a group size. -/
def levelsOk : Nat → Nat → List Level → Bool
  | _, _, [] => true
  | dom, gwg, l :: rest =>
    decide (dom < l.dom) && decide (l.dom ≤ 5) && decide (minScope l.dom ≤ l.scope) && decide (l.scope ≤ 5) &&
      decide (1 ≤ l.gwg) && l.gwg % gwg == 0 && levelsOk l.dom l.gwg rest

/-- A launch record keeps 18 R316, 01 R9, R33 and R38. -/
def LRec.fieldsOk (r : LRec) : Bool :=
  let within := fun (lo x hi : Nat) => decide (lo ≤ x) && decide (x ≤ hi)
  r.rsv == 0 && r.code % 64 == 0 && decide (r.code < 2 ^ 57) && r.data % 64 == 0 && decide (1 ≤ r.extent) &&
  within 16 r.sregs 128 && within 1 r.vgran 32 && within 5 r.logw 10 && r.shadow % 64 == 0 &&
  (if r.hasShadow then within 16 r.ssregs 128 && within 1 r.svgran 32 else r.ssregs == 0 && r.svgran == 0) &&
  (r.trap == 0xFFFFFFFF || r.trap % 8 == 0) && within 0 r.tiles 24 && within 0 r.accs 4 && within 0 r.scr 256 &&
  r.mco % 16 == 0 && levelsOk 0 1 r.levels

/-- What a workgroup is charged (01 R37). -/
structure Charge where
  slots : Nat
  vgran : Nat
  sregs : Nat
  tiles : Nat
  accs : Nat
  scr : Nat
deriving DecidableEq, Repr

def LRec.charge (r : LRec) (w : Nat) : Charge :=
  let n := r.teamsOf w
  let sh := r.hasShadow
  { slots := n * (if sh then 2 else 1), vgran := n * (r.width / 32) * (r.vgran + (if sh then r.svgran + 1 else 0)),
    sregs := n * (r.sregs + r.ssregs), tiles := r.tiles, accs := r.accs, scr := r.scr }

/-- Workgroups of a charge that a core holds beside what is charged already, with so many contexts left (01 R37). -/
def Charge.beside (c u : Charge) (contexts : Nat) : Nat :=
  let k := fun (have_ need_ n : Nat) => if need_ = 0 then n else min n (have_ / need_)
  k (64 - u.slots) c.slots (k (512 - u.vgran) c.vgran (k (8192 - u.sregs) c.sregs (k (24 - u.tiles) c.tiles
    (k (4 - u.accs) c.accs (k (256 - u.scr) c.scr contexts)))))

/-- Workgroups of a charge that an empty core holds. -/
def Charge.perCore (c : Charge) : Nat := c.beside ⟨0, 0, 0, 0, 0, 0⟩ 16

/-- Cores of a domain: cluster, quadrant, die, device (01 R33, 00 R1). -/
def domCores (dom : Nat) : Nat := if dom = 1 then 4 else if dom = 2 then 24 else if dom = 3 then 96 else 384

/-- Workgroups in a group of the widest of some levels, widest first; a workgroup alone without one. -/
def topGwg : List Level → Nat
  | [] => 1
  | l :: _ => l.gwg

/-- Clusters of a level's domain. -/
def Level.clusters (l : Level) : Nat := domCores l.dom / 4

/-- Groups of the first level, each of whole groups of the next, that c clusters hold at k workgroups a core: every domain has 16
tree-barrier contexts (18 R323), but for a level that spans the fabric, which has none. -/
def groupsIn (k : Nat) : List Level → Nat → Nat
  | [], c => 4 * c * k
  | l :: rest, c =>
    let cap := fun (m : Nat) => let n := groupsIn k rest m / (l.gwg / topGwg rest); if l.dom = 5 then n else min 16 n
    c / l.clusters * cap l.clusters + cap (c % l.clusters)

/-- n workgroups can stand in c clusters, groups within groups: the whole groups but the last, and the last beside the fewest of them in
one domain.  `light` tells how many others stand on a core beside the last workgroup, where that one is charged less (01 R12). -/
def groupsFit (k : Nat) (light : Option Nat) : List Level → Nat → Nat → Bool
  | [], c, n => decide (n ≤ 4 * c * k) || match light with
    | some j => decide (1 ≤ c) && decide (n ≤ (4 * c - 1) * k + j + 1)
    | none => false
  | l :: rest, c, n =>
    let q := (n - 1) / l.gwg
    let left := n - q * l.gwg
    let all := groupsIn k (l :: rest) c
    let beside := fun (m : Nat) =>
      let here := q - (all - groupsIn k (l :: rest) m)
      (l.dom == 5 || decide (here + 1 ≤ 16)) && groupsFit k light rest m (here * l.gwg + left)
    decide (q ≤ all) && (decide (q + 1 ≤ all) || decide (l.clusters ≤ c) && beside l.clusters || beside (c % l.clusters))

/-- A workgroup and the groups of every level can be resident in the interface's clusters (01 R34, R37, 21 R368), groups within groups;
every workgroup but the launch's last is charged as workgroup 0 is (log 17).  A group of a fabric level is dispatched whole on the
device. -/
def LRec.residentOk (r : LRec) (ncl : Nat) : Bool :=
  let full := r.charge 0
  let last := r.charge (r.nwg - 1)
  let k := full.perCore
  decide (1 ≤ k) && decide (1 ≤ ncl) &&
  (List.range r.levels.length).all fun i =>
    let l := r.levels.getD i ⟨0, 0, 0⟩
    groupsFit k (if r.nwg ≤ l.gwg ∧ last ≠ full then some (full.beside last 15) else none) (r.levels.take i).reverse
      (min l.clusters ncl) (min l.gwg r.nwg)

/-- Step 4 of 18 R314 for one record. -/
def LRec.check (r : LRec) (vi ncl minclass index : Nat) : GRes Unit := do
  need r.fieldsOk 0x08 index
  need (r.residentOk ncl) 0x09 index
  need ((r.start == 0 || vi == 0) && decide (minclass ≤ r.cls)) 0x0A index

/-! ## Multicast tables and rings (18 R319, R321) -/

/-- The limits of a multicast entry; every member lies below `top` (log 18). -/
def mcOk (first count stride top : Nat) : Bool :=
  decide (count ≤ 384) && decide (1 ≤ stride) && decide (stride ≤ 384) &&
    (count == 0 || decide (first + (count - 1) * stride < top))

/-- The entries of a launch record's multicast table, by entry.  Every member lies below the highest logical core that some launch of the
interface can have, 4 × NCL − 1 (log 18). -/
def State.readMc (s : State) (vi base ncl : Nat) (h : GHead) (r : LRec) (index : Nat) : GRes (List (Nat × McEntry)) :=
  if r.mco = 0 then .ok []
  else do
    need (h.inside r.mco 256) 0x0C index
    (List.range 32).mapM fun g => do
      let e ← s.fwRead vi (base + r.mco + 8 * g) 8
      need (e / 2 ^ 48 == 0 && mcOk (fld e 0 16) (fld e 16 16) (fld e 32 16) (4 * ncl - 1)) 0x0C index
      return (index * 32 + g, ⟨fld e 0 16, fld e 16 16, fld e 32 16, false, none⟩)

/-- A ring descriptor.  DESIGN CHOICE (log 49): ZU of 1 to 32 units (18 R321) stands in a field of five bits: 0 reads as 0, which no
check passes, so that 32 units cannot be configured. -/
def State.readRing (s : State) (vi a : Nat) : GRes RingDesc := do
  let w0 ← s.fwRead vi a 4
  let w4 ← s.fwRead vi (a + 4) 4
  let cons ← s.fwRead vi (a + 8) 4
  let prod ← s.fwRead vi (a + 12) 4
  return { z := 128 * fld w0 24 5, slots := fld w0 16 8, ring := fld w0 8 3, lcl := w0 % 256, area := w4 / 2 ^ 16 * 128,
           cmask := w4 % 16, cons := cons, prod := prod, rsv := w0 / 2 ^ 29 + fld w0 11 5 + fld w4 4 12 }

def RingDesc.ok (r : RingDesc) (nnode : Nat) : Bool :=
  let within := fun (lo x hi : Nat) => decide (lo ≤ x) && decide (x ≤ hi)
  r.rsv == 0 && within 128 r.z 4096 && within 1 r.slots 64 && within 0 r.lcl 95 && decide (r.area + r.slots * r.z ≤ 2 ^ 22) &&
    r.cmask != 0 && decide (r.cons < nnode) && decide (r.prod < nnode)

/-- Two rings of one logical cluster need the same bytes of a slice. -/
def RingDesc.clashes (a b : RingDesc) : Bool :=
  a.lcl == b.lcl && a.cmask &&& b.cmask != 0 && overlap a.area (a.slots * a.z) b.area (b.slots * b.z)

/-- The ring descriptors: none of a cluster and ring twice, and none whose area an earlier one takes, since firmware could never reserve
both for the life of a replay (log 43). -/
def State.readRings (s : State) (vi base : Nat) (h : GHead) : GRes (List RingDesc) := do
  let l ← (List.range h.nring).mapM fun i => s.readRing vi (base + h.ringo + 16 * i)
  let _ ← (List.range h.nring).mapM fun i =>
    match l[i]? with
    | none => Except.ok ()
    | some r => need (r.ok h.nnode && !(l.take i).any fun q => q.lcl == r.lcl && q.ring == r.ring || q.clashes r) 0x0C i
  return l

/-! ## The whole check (18 R314) -/

def viNcl (v : Vi) : Nat := fld v.victl.toNat 16 8

/-- Read and check a graph object, in the order of 18 R314. -/
def State.readGraph (s : State) (vi base : Nat) : GRes Graph := do
  let ncl := viNcl (s.vi vi)
  let h ← s.readHead vi base
  let nodes ← s.readNodes vi base h
  match cyclic nodes nodes.length (List.range nodes.length) with
  | m :: _ => throw (.bad 0x07 m)
  | [] =>
    let lrecs ← (List.range h.nlrec).mapM fun i => do
      let r ← s.readLRec vi (base + h.lreco + 128 * i)
      r.check vi ncl (s.vi vi).minclass i
      return r
    let mc ← (List.range h.nlrec).mapM fun i => s.readMc vi base ncl h (lrecs.getD i LRec.empty) i
    let rings ← s.readRings vi base h
    return { valid := true, ok := true, gbase := base, leaving := false, nodes := nodes, lrecs := lrecs, rings := rings,
             mc := mc.flatten.foldl (fun d q => sput McEntry.empty d q.1 q.2) [], lcores := [] }

/-! ## Patches (18 R315) -/

/-- The entries of a patch table as (address, bytes, value): every entry is checked, and its place translated, before any is
written. -/
def State.readPatches (s : State) (vi ptab : Nat) (g : Graph) : GRes (List (Nat × Nat × Nat)) :=
  if ptab = 0 then .ok []
  else do
    let hd ← s.fwRead vi ptab 16
    let np := hd % 2 ^ 32
    need (hd / 2 ^ 32 == 0 && decide (np ≤ 4096)) 0x0B 0
    (List.range np).mapM fun i => do
      let a := ptab + 16 + 16 * i
      let w0 ← s.fwRead vi a 4
      let off ← s.fwRead vi (a + 4) 4
      let v ← s.fwRead vi (a + 8) 8
      let size := w0 / 2 ^ 16
      need ((size == 4 || size == 8) && decide (w0 % 2 ^ 16 < g.lrecs.length) && off % size == 0) 0x0B i
      let k ← s.fwPlace vi ((g.lrecs.getD (w0 % 2 ^ 16) LRec.empty).data + off) true
      return (k, size, v)

end Sys2Proof.Machine
end

