-- ==== Sys2Proof/Machine/Launch.lean ====
section
/-!
DEFINITION. The registers of a virtual interface and what firmware does with them: registering graphs, kicks, replays and their
nodes, multicast changes (18 R306 to R315, R319 to R321), and the error report area (21 R370).
-/

namespace Sys2Proof.Machine

open Sys2Proof

/-! ## Errors and interrupts -/

/-- Raise a vector of an interface (21 R357). -/
def State.raise (s : State) (vi vector : Nat) : State := { s with irqs := s.irqs ++ [(vi, vector)] }

/-- Record an error in ERR (18 R311): the first is held, each is counted. -/
def State.viErr (s : State) (vi gslot code index : Nat) : State :=
  let v := s.vi vi
  let count := min (fld v.err.toNat 48 16 + 1) 0xFFFF
  if tbit v.err.toNat 0 then
    s.setVi vi { v with err := BitVec.ofNat 64 (v.err.toNat % 2 ^ 48 + count * 2 ^ 48) }
  else
    (s.setVi vi { v with err := BitVec.ofNat 64 (count * 2 ^ 48 + gslot * 2 ^ 32 + index % 2 ^ 16 * 2 ^ 16 + code * 2 ^ 8 + 1) }).raise vi 1

/-- ERR_CLEAR (18 R311): a write of ERR with bit 0 set clears it. -/
def execErrClear (vi : Nat) (v : DWord) (s : State) : Res :=
  if v.getLsbD 0 then .next (s.modVi vi fun x => { x with err := 0 }) else .next s

/-- Write a launch end record into the error report area (21 R370); a full ring only counts it. -/
def State.report (s : State) (vi : Nat) (ws : List DWord) : State :=
  let v := s.vi vi
  if (v.errtail + 1) % 64 = v.errhead then
    s.setVi vi { v with err := BitVec.ofNat 64 (v.err.toNat % 2 ^ 48 + min (fld v.err.toNat 48 16 + 1) 0xFFFF * 2 ^ 48) }
  else
    let k := hostKey (v.errbase.toNat + 64 * v.errtail)
    (((s.setVi vi { v with errtail := (v.errtail + 1) % 64 }).mput k (ws.map fun w => bytesOf 8 w.toNat).flatten)).raise vi 1

/-! ## Graph slots (18 R307) -/

def Vi.graph (v : Vi) (n : Nat) : Graph := sget Graph.empty v.graphs n
def Vi.setGraph (v : Vi) (n : Nat) (g : Graph) : Vi := { v with graphs := sput Graph.empty v.graphs n g }

/-- An empty slot keeps GBASE, which reads as written (18 R307). -/
def Graph.emptied (g : Graph) : Graph := { Graph.empty with gbase := g.gbase }

/-- A slot that has been unregistered empties once its replays have completed. -/
def Vi.settleGraphs (v : Vi) : Vi :=
  { v with graphs := v.graphs.filterMap fun q =>
      if q.2.leaving && !(v.replays.any fun r => r.gslot == q.1) then
        (if q.2.gbase = 0 then none else some (q.1, q.2.emptied))
      else some q }

/-- Firmware checks the object of a slot that has VALID but not yet OK (18 R307): it sets OK, or clears VALID, and nothing else of
the register, and reports.  While it waits for a page that the host owns (log 16) the slot stays as it is. -/
def State.checkGraph (s : State) (vi n : Nat) : State :=
  let g := (s.vi vi).graph n
  if !g.valid || g.ok || !s.fwRuns 0 then s
  else match s.readGraph vi g.gbase with
    | .ok k => s.modVi vi fun x => x.setGraph n { k with leaving := g.leaving }
    | .error (.bad code index) => (s.modVi vi fun x => x.setGraph n g.emptied).viErr vi n code index
    | .error .wait => s

/-- Check what waits to be checked. -/
def State.checkGraphs (s : State) (vi : Nat) : State := (List.range 8).foldl (fun s n => s.checkGraph vi n) s

/-- The interface is enabled (21 R359); the device grants clusters, and so dispatches work, to no other (18 R305, log 44). -/
def Vi.enabled (v : Vi) : Bool := v.victl.getLsbD 0

/-- TSLICE of VICTL (21 R359). -/
def Vi.tslice (v : Vi) : Nat := v.victl.toNat / 2 ^ 32

/-- A write of `GRAPHn` (18 R307), which firmware of die 0 serves (log 30).  To an empty slot, VALID = 0 only writes GBASE. -/
def State.graphWrite (s : State) (vi n : Nat) (v : DWord) : State :=
  let g := (s.vi vi).graph n
  if !s.fwRuns 0 then s
  else if v.toNat / 2 ^ 57 ≠ 0 ∨ fld v.toNat 2 4 ≠ 0 then s.viErr vi n 0x01 0
  else if v.getLsbD 0 then
    if g.valid then s.viErr vi n 0x02 0
    else
      (s.modVi vi fun x => x.setGraph n { Graph.empty with valid := true, gbase := v.toNat / 64 * 64 }).checkGraph vi n
  else if g.valid then s.modVi vi fun x => (x.setGraph n { g with leaving := true }).settleGraphs
  else s.modVi vi fun x => x.setGraph n { Graph.empty with gbase := v.toNat / 64 * 64 }

/-- GRAPH_REGISTER (18 R307): a write of `GRAPHn`, 0 to 7. -/
def execGraphRegister (vi n : Nat) (v : DWord) (s : State) : Res :=
  if n < 8 ∧ vi < 64 then .next (s.graphWrite vi n v) else .next s

/-- GRAPH_UNREGISTER (18 R307): a write of `GRAPHn` with VALID = 0. -/
def execGraphUnregister (vi n : Nat) (s : State) : Res :=
  if n < 8 ∧ vi < 64 then .next (s.graphWrite vi n 0) else .next s

/-! ## Replays (18 R309, R310, R313, R315) -/

def Vi.replay (v : Vi) (id : Nat) : Option Replay := v.replays.find? fun r => r.id == id

def State.modReplay (s : State) (vi id : Nat) (f : Replay → Replay) : State :=
  s.modVi vi fun v => { v with replays := v.replays.map fun r => if r.id = id then f r else r }

/-- The graph of a replay. -/
def Vi.graphOf (v : Vi) (id : Nat) : Graph :=
  match v.replay id with
  | some r => v.graph r.gslot
  | none => Graph.empty

/-- The launch record of a node. -/
def Graph.lrecOf (g : Graph) (node : Nat) : LRec := g.lrecs.getD (g.nodes.getD node ⟨0, 0, []⟩).lrec LRec.empty

/-- The physical cluster of a logical cluster (18 R305). -/
def State.physCluster (s : State) (vi m : Nat) : Nat := s.physCore vi (4 * m) / 4

/-- The physical cores that consume a ring. -/
def State.ringCores (s : State) (vi : Nat) (d : RingDesc) : List Nat :=
  ((List.range 4).filter fun c => tbit d.cmask c).map fun c => s.physCluster vi d.lcl * 4 + c

/-- The place of ring `n` of a cluster is free, and neither another ring nor an allocation overlaps `len` bytes at `area` in the
slices of its cores `cs` (18 R321). -/
def State.ringFits (s : State) (cluster n : Nat) (cs : List Nat) (area len : Nat) : Bool :=
  (sget Ring.empty (s.cluster cluster).ring n).slots == 0 &&
  ((s.cluster cluster).ring.all fun q => !((q.2.cmask.any cs.contains) && overlap q.2.area (q.2.slots * q.2.z) area len)) &&
  cs.all fun c =>
    (List.range 16).all fun w =>
      let g := s.wg (cluster * 4 + c) w
      !(g.used && overlap g.spLo (g.spGran * 0x4000) area len)

/-- A ring can be configured: the interface's clusters are granted, and the ring has room in its own (18 R321). -/
def State.ringRoom (s : State) (vi : Nat) (d : RingDesc) : Bool :=
  (s.vi vi).enabled &&
    s.ringFits (s.physCluster vi d.lcl) d.ring ((List.range 4).filter fun c => tbit d.cmask c) d.area (d.slots * d.z)

/-- Take bytes of a slice for an interface outside an allocation: those that another interface held last are zeroed (21 R369).  A granule
that two interfaces have held counts as held by neither, so that the next one finds zeros. -/
def State.takeArea (s : State) (core area n vi : Nat) : State :=
  if n = 0 then s
  else (List.range ((area + n - 1) / 0x4000 + 1 - area / 0x4000)).foldl (fun s i =>
    let g := area / 0x4000 + i
    let lo := max area (g * 0x4000)
    let hi := min (area + n) ((g + 1) * 0x4000)
    let o := sget 0 (s.core core).spOwner g
    let own := fun (s : State) (v : Nat) => s.modCore core fun c => { c with spOwner := sput 0 c.spOwner g v }
    if o = 0 ∨ o = vi + 1 then own s (vi + 1) else own (s.memErase (spKey core lo) (hi - lo)) 65) s

/-- Configure a ring for a replay; its area in each consumer slice is the interface's now. -/
def State.ringBind (s : State) (vi id : Nat) (d : RingDesc) : State :=
  ((s.ringCores vi d).foldl (fun s c => s.takeArea c d.area (d.slots * d.z) vi) s).setRing (s.physCluster vi d.lcl) d.ring
    { Ring.empty with slots := d.slots, z := d.z, cmask := (List.range 4).filter fun c => tbit d.cmask c, cons := d.cons,
                      prod := d.prod, area := d.area, vi := vi, replay := id }

/-- A workgroup of the consumer node is LIVE without HOLD on every consumer core of a ring (18 R321). -/
def State.ringFed (s : State) (cluster : Nat) (r : Ring) : Bool :=
  r.cmask.all fun c => (List.range 16).any fun w =>
    let g := s.wg (cluster * 4 + c) w
    g.used && !g.held && g.vi == r.vi && g.replay == r.replay && g.node == r.cons

/-- The rings of a core's cluster note that their consumers have become LIVE. -/
def State.meetRings (s : State) (core : Nat) : State :=
  s.modCluster (clusterOf core) fun c =>
    { c with ring := c.ring.map fun q => (q.1, { q.2 with met := q.2.met || s.ringFed (clusterOf core) q.2 }) }

/-- Unbind the rings of a replay that a test picks (18 R321). -/
def State.ringUnbind (s : State) (vi id : Nat) (p : Ring → Bool) : State :=
  { s with clusters := s.clusters.map fun q =>
      (q.1, { q.2 with ring := q.2.ring.filter fun r => !(r.2.vi == vi && r.2.replay == id && p r.2) }) }

/-- The node states at the start of a replay. -/
def Graph.runs (g : Graph) : List NodeRun := g.nodes.map fun n => ⟨n.npred, n.npred == 0, 0, 0, false⟩

/-- The multicast entries of a replay, by node (18 R319). -/
def Graph.runMc (g : Graph) : Sparse McEntry :=
  (List.range g.nodes.length).foldl (fun d node =>
    (g.mc.filter fun q => q.1 / 32 == (g.nodes.getD node ⟨0, 0, []⟩).lrec).foldl
      (fun d q => sput McEntry.empty d (node * 32 + q.1 % 32) q.2) d) []

/-- A replay is over: DSEQ advances, the completion interrupt is raised, its rings are unbound, a slot that waited for it
empties (18 R310, R307). -/
def State.replayOver (s : State) (vi id : Nat) : State :=
  ((s.ringUnbind vi id fun _ => true).modVi vi fun v =>
    { v with dseq := v.dseq + 1, replays := v.replays.filter fun r => r.id != id }.settleGraphs).raise vi 0

/-- Start a replay whose turn it is (18 R309, R315): patches are checked and written, rings configured, nodes without
predecessors become ready. -/
def State.startReplay (s : State) (vi : Nat) (r : Replay) : State :=
  let g := (s.vi vi).graph r.gslot
  if !s.fwRuns 0 then s
  else match s.readPatches vi r.ptab g with
  | .error (.bad code index) => (s.viErr vi r.gslot code index).replayOver vi r.id
  | .error .wait => s
  | .ok l =>
    if g.rings.all fun d => s.ringRoom vi d then
      let s1 := l.foldl (fun s q => s.mput q.1 (bytesOf q.2.1 q.2.2)) s
      let s2 := g.rings.foldl (fun s d => s.ringBind vi r.id d) s1
      s2.modReplay vi r.id fun r => { r with started := true, nodes := g.runs, mc := g.runMc }
    else s

/-- The replays of an interface that are first of their slot and not started, in kick order. -/
def Vi.waiting (v : Vi) : List Replay :=
  v.replays.filter fun r => !r.started && !r.ended && (v.replays.find? fun q => q.gslot == r.gslot).any fun q => q.id == r.id

/-- Start what can start: a replay that a bad patch ends at once lets the next of its slot begin. -/
def State.startReplays (s : State) (vi : Nat) : Nat → State
  | 0 => s
  | fuel + 1 => ((s.vi vi).waiting.foldl (fun s r => s.startReplay vi r) s).startReplays vi fuel

/-- The acquire of a kick at `.sys` (18 R308): host writes are in memory already, and firmware reads memory. -/
def State.kick (s : State) (vi : Nat) (v : DWord) : State :=
  let x := s.vi vi
  let n := fld v.toNat 3 3
  let g := x.graph n
  if !s.fwRuns 0 then s
  else if v.toNat / 2 ^ 57 ≠ 0 ∨ v.toNat % 8 ≠ 0 then s.viErr vi n 0x03 0
  else if !g.valid || !g.ok || g.leaving then s.viErr vi n 0x04 0
  else if 16 ≤ x.replays.length then s.viErr vi n 0x05 0
  else
    let r : Replay := ⟨x.nextReplay, n, x.kseq + 1, v.toNat / 64 * 64, false, false, [], []⟩
    (s.setVi vi { x with kseq := x.kseq + 1, nextReplay := x.nextReplay + 1, replays := x.replays ++ [r] }).startReplays vi 16

/-- KICK (18 R309). -/
def execKick (vi : Nat) (v : DWord) (s : State) : Res := if vi < 64 then .next (s.kick vi v) else .next s

def Replay.node (r : Replay) (n : Nat) : NodeRun := r.nodes.getD n ⟨0, false, 0, 0, false⟩

/-- Change the state of a node. -/
def Replay.modNode (r : Replay) (n : Nat) (f : NodeRun → NodeRun) : Replay := { r with nodes := r.nodes.modify n f }

/-- Firmware still waits for a host link to acknowledge what an L1 wrote back: a release at `.sys` is not over (12 R278). -/
def State.linkBusy (s : State) : Bool := s.cores.any fun q => q.2.posted.any fun p => p.slot == linkSlot

/-- A launch has a workgroup on some core, or saved (19 R339 step 4). -/
def State.resident (s : State) (vi id : Nat) (p : Nat → Bool) : Bool :=
  (s.wgs.any fun q => q.2.used && q.2.vi == vi && q.2.replay == id && p q.2.node) ||
  s.saves.any fun v => !v.peer && v.vi == vi && v.wg.replay == id && p v.wg.node

/-- An ended replay is over when nothing of it is left (19 R339 step 4); its completion is a release at `.sys` too (18 R310, 12 R279). -/
def State.settleReplay (s : State) (vi id : Nat) : State :=
  match (s.vi vi).replay id with
  | some r =>
    if r.ended && s.fwRuns 0 && !s.resident vi id fun _ => true then
      let s1 := s.cores.foldl (fun s q => s.l1CleanAll q.1) s
      if s1.linkBusy then s1 else (s1.replayOver vi id).startReplays vi 16
    else s
  | none => s

/-- NODE_COMPLETE (18 R313, R310): every workgroup of the launch has retired. The completion is a release at `.sys`: every core's
dirty bytes reach memory, and the host links have acknowledged theirs. Successors may become ready, and the last node completes the
replay. -/
def execNodeComplete (vi replay node : Nat) (s : State) : Res :=
  match (s.vi vi).replay replay with
  | none => .next s
  | some r =>
    let g := (s.vi vi).graph r.gslot
    let n := r.node node
    if !s.fwRuns 0 then .next s
    else if r.ended then .next (s.settleReplay vi replay)
    else if r.started && !r.ended && decide (node < r.nodes.length) && n.ready && !n.complete &&
        n.retired == (g.lrecOf node).nwg then
      let s1 := s.cores.foldl (fun s q => s.l1CleanAll q.1) s
      if s1.linkBusy then .next s1 else
      let s2 := s1.ringUnbind vi replay fun d => d.cons == node
      let r1 := r.modNode node fun n => { n with complete := true }
      let r2 := (g.nodes.getD node ⟨0, 0, []⟩).succ.foldl (fun r m => r.modNode m fun n =>
        { n with left := n.left - 1, ready := n.ready || decide (n.left ≤ 1) }) r1
      let s3 := s2.modReplay vi replay fun _ => r2
      .next (if r2.nodes.all fun n => n.complete then (s3.replayOver vi replay).startReplays vi 16 else s3)
    else .next s

/-! ## Multicast changes (18 R320) -/

/-- The bound of a multicast entry's members (18 R319): the highest logical core of a launch that has workgroups, else the highest
that one can have (log 18). -/
def Vi.mcTop (v : Vi) (g : Graph) (node : Nat) : Nat :=
  match (g.lcores.filter fun q => q.1.1 == node).map (·.2) with
  | [] => 4 * viNcl v - 1
  | l => l.foldl max 0

/-- MCSET (18 R320): the entry of a running node of the interface's oldest outstanding replay is marked changing.  A node runs from its
first bind record on, the live launch; one whose launch has ended, and one of a replay that has, does not. -/
def execMcset (vi : Nat) (v : DWord) (s : State) : Res :=
  let x := s.vi vi
  let w := v.toNat
  let node := w % 2 ^ 12
  if !s.fwRuns 0 then .next s
  else match x.replays with
  | [] => .next (s.viErr vi 0 0x0D node)
  | r :: _ =>
    let n := r.node node
    if r.ended = false ∧ fld w 12 5 = 0 ∧ node < r.nodes.length ∧ n.ready = true ∧ 0 < n.bound ∧ n.complete = false ∧
        mcOk (fld w 48 16) (fld w 32 16) (fld w 22 10) (x.mcTop (x.graph r.gslot) node) = true then
      .next (s.modReplay vi r.id fun r =>
        { r with mc := smod McEntry.empty r.mc (node * 32 + fld w 17 5) fun e =>
          { e with changing := true, next := some (fld w 48 16, fld w 32 16, fld w 22 10) } })
    else .next (s.viErr vi r.gslot 0x0D node)

/-- A `cpym` on an entry is outstanding, or deferred. -/
def State.cpymOn (s : State) (vi id entry : Nat) : Bool :=
  s.cores.any fun q =>
    let on := fun (o : EngOp) => match o.kind with
      | .cpym _ node e => o.vi == vi && (s.wg q.1 o.w).replay == id && node * 32 + e == entry
      | _ => false
    q.2.ops.any on || q.2.pen.any fun e => match e.op with
      | .engine o => on o
      | _ => false

/-- MULTICAST_CHANGE_DONE (18 R320): once every earlier `cpym` on the entry has completed, firmware writes it and clears the
mark. -/
def execMulticastChangeDone (vi entry : Nat) (s : State) : Res :=
  .next (if !s.fwRuns 0 then s else (s.vi vi).replays.foldl (fun s r =>
    match (sget McEntry.empty r.mc entry).next with
    | some (f, c, st) =>
      if s.cpymOn vi r.id entry then s
      else s.modReplay vi r.id fun r => { r with mc := sput McEntry.empty r.mc entry ⟨f, c, st, false, none⟩ }
    | none => s) s)

/-! ## The register page (18 R306): a register is read and written whole, at its offset -/

/-- The word that `GRAPHn` reads (18 R307). -/
def Graph.word (g : Graph) : DWord :=
  BitVec.ofNat 64 (g.gbase / 64 % 2 ^ 51 * 64 + (if g.valid && g.ok then 2 else 0) + if g.valid then 1 else 0)

/-- What a read of the page answers; it changes nothing.  `KICK`, `MCSET` and offsets that are not listed read 0. -/
def State.viPageRead (s : State) (vi off : Nat) : DWord :=
  let x := s.vi vi
  if off % 8 ≠ 0 then 0
  else if off < 0x40 then (x.graph (off / 8)).word
  else if off = 0x48 then x.kseq
  else if off = 0x50 then x.dseq
  else if off = 0x58 then x.err
  else if off = 0x68 then BitVec.ofNat 64 (x.minclass % 4)
  else 0

/-- What a write of the page does; writes of read-only registers and of offsets that are not listed are discarded. -/
def State.viPageWrite (s : State) (vi off : Nat) (v : DWord) : Res :=
  if off % 8 ≠ 0 then .next s
  else if off < 0x40 then execGraphRegister vi (off / 8) v s
  else if off = 0x40 then execKick vi v s
  else if off = 0x58 then execErrClear vi v s
  else if off = 0x60 then execMcset vi v s
  else .next s

end Sys2Proof.Machine
end

