-- ==== Sys2Proof/Machine/Slots.lean ====
section
/-!
DEFINITION. The slot tables: bind records, the fit and the dispatch of workgroups, saved contexts that resume, the start and the
retirement of teams (18 R317 to R323, 01 R34 to R39, 19 R343, 20 R346).
-/

namespace Sys2Proof.Machine

open Sys2Proof

/-! ## Bind records (18 R317) -/

def Die.brec (d : Die) (idx : Nat) : BindRec := sget BindRec.empty d.slotTab idx
def State.modRec (s : State) (die idx : Nat) (f : BindRec → BindRec) : State :=
  s.modDie die fun d => { d with slotTab := smod BindRec.empty d.slotTab idx f }

/-- READY, LIVE and DONE. -/
def recReady : Nat := 1
def recLive : Nat := 2
def recDone : Nat := 3

/-- A record that goes straight to DONE with ERR = 1. -/
def BindRec.malformed (r : BindRec) : Bool :=
  r.rsv != 0 || decide (96 ≤ r.core) || (r.group == 0) != (r.groupn == 0) || decide (1536 < r.groupn)

/-- The launch record of a bind record, as firmware read it at registration (log 15). -/
def State.recLaunch (s : State) (r : BindRec) : LRec := ((s.vi r.vi).graphOf r.replay).lrecOf r.node

/-- The records of a producer node may be written for a cluster: for each of its rings there, a workgroup of the consumer node is LIVE
without HOLD on every consumer core, or was (18 R321). -/
def State.consumersLive (s : State) (r : BindRec) (core : Nat) : Bool :=
  ((s.vi r.vi).graphOf r.replay).rings.all fun d =>
    let k := s.physCluster r.vi d.lcl
    let q := sget Ring.empty (s.cluster k).ring d.ring
    !(d.prod == r.node && k == clusterOf core) || (q.vi == r.vi && q.replay == r.replay && q.met) ||
    (match (s.vi r.vi).replay r.replay with
      | some p => (p.node d.cons).complete
      | none => false) ||
    (s.ringCores r.vi d).all fun c => (List.range 16).any fun w =>
      let g := s.wg c w
      g.used && !g.held && g.vi == r.vi && g.replay == r.replay && g.node == d.cons

/-- A core of the cluster has lost its matrix engine: the cluster is no longer granted (22 R378). -/
def State.clusterOut (s : State) (cluster : Nat) : Bool := (List.range 4).any fun c => (s.core (cluster * 4 + c)).engineOut

/-- The logical clusters of an enabled interface include a physical cluster. -/
def State.grants (s : State) (vi cluster : Nat) : List Nat :=
  if (s.vi vi).enabled then (List.range (viNcl (s.vi vi))).filter fun m => s.physCluster vi m == cluster else []

/-- Another interface holds the cluster, and the two do not share in time (21 R368). -/
def State.othersHold (s : State) (vi cluster : Nat) : Bool :=
  s.vis.any fun q => q.1 != vi && s.grants q.1 cluster != [] && !((s.vi vi).tslice != 0 && q.2.tslice != 0)

/-- A cluster is granted to an interface as one of its logical clusters, and to no other interface but those that share it. -/
def State.granted (s : State) (vi m cluster : Nat) : Bool :=
  !s.clusterOut cluster && !s.othersHold vi cluster && (s.grants vi cluster).contains m && (s.grants vi cluster).all fun k => k == m

/-- The saved context of a record with RESUME; the numbers of another device's replays are its own (19 R344). -/
def State.savedOf (s : State) (r : BindRec) : Option Saved :=
  s.saves.find? fun v => v.addr == r.save && v.wg.wg == r.wg &&
    (v.peer || v.vi == r.vi && v.wg.replay == r.replay && v.wg.node == r.node)

/-- A workgroup is on a core, perhaps draining after its save. -/
def State.onCore (s : State) (r : BindRec) : Bool :=
  s.wgs.any fun q => q.2.used && q.2.vi == r.vi && q.2.replay == r.replay && q.2.node == r.node && q.2.wg == r.wg

/-- Logical cores keep their numbers for the replays of a graph (01 R45): a workgroup goes to the logical core that it had in an earlier
replay of its node. -/
def State.lcoreLegal (s : State) (r : BindRec) : Bool :=
  match ((s.vi r.vi).graphOf r.replay).lcores.find? fun q => q.1 == (r.node, r.wg) with
  | some q => q.2 == r.lcore
  | none => true

/-- The widest level of a launch: its groups are dispatched at once, those of a fabric level whole on each device (01 R33, R34). -/
def LRec.bindLevel (l : LRec) : Option (Nat × Level) :=
  ((List.range l.levels.length).map fun i => (i, l.levels.getD i ⟨0, 0, 0⟩)).getLast?

/-- The workgroup after the last one of a workgroup's group. -/
def LRec.groupEnd (l : LRec) (v : Level) (wg : Nat) : Nat := min ((wg / v.gwg + 1) * v.gwg) l.nwg

/-- Firmware keeps each group of a launch together (01 R34): every group lies in one instance of its level's domain, and the records
of the widest group either carry one co-dispatch tag of their own on one die, or are held until all are reserved (18 R322). -/
def State.groupLegal (s : State) (die : Nat) (r : BindRec) : Bool :=
  let l := s.recLaunch r
  let all := (s.dies.map fun q => (q.2.slotTab.filter fun k => k.2.state == recReady || k.2.state == recLive).map fun k =>
    (q.1, k.2)).flatten
  let same := all.filter fun q => q.2.vi == r.vi && q.2.replay == r.replay && q.2.node == r.node
  let within := fun (i : Nat) => let v := l.levels.getD i ⟨0, 0, 0⟩
    decide (4 ≤ v.dom) || same.all fun q => q.2.wg / v.gwg != r.wg / v.gwg ||
      (q.1 * 96 + q.2.core) / domCores v.dom == (die * 96 + r.core) / domCores v.dom
  (List.range l.levels.length).all within &&
  match l.bindLevel with
  | none => true
  | some q =>
    let v := q.2
    let mine := fun (k : BindRec) =>
      k.vi == r.vi && k.replay == r.replay && k.node == r.node && k.wg / v.gwg == r.wg / v.gwg
    let n := l.groupEnd v r.wg - r.wg / v.gwg * v.gwg
    let tagged := r.group != 0 && r.groupn == n && (same.all fun k => !mine k.2 || (k.1 == die && k.2.group == r.group)) &&
      all.all fun k => k.1 != die || k.2.state != recReady || k.2.group != r.group || mine k.2
    decide (n ≤ 1) || tagged || (decide (4 ≤ v.dom) && r.hold)

/-- Firmware may write the record: the next workgroup of a ready node, or a saved one, on a core that its logical core maps to. -/
def State.bindLegal (s : State) (die : Nat) (r : BindRec) : Bool :=
  let core := die * 96 + r.core
  let placed := decide (r.lcore < 4 * viNcl (s.vi r.vi)) && s.physCore r.vi r.lcore == core &&
    s.granted r.vi (r.lcore / 4) (clusterOf core) && s.consumersLive r core
  match (s.vi r.vi).replay r.replay with
  | none => false
  | some q =>
    let n := q.node r.node
    placed && s.lcoreLegal r &&
    (if r.resume then !s.onCore r && match s.savedOf r with
        | some v => v.wg.lcore == r.lcore
        | none => true
     else q.started && !q.ended && decide (r.node < q.nodes.length) && n.ready && r.wg == n.bound &&
      decide (r.wg < (s.recLaunch r).nwg) && s.groupLegal die r)

/-- The graph remembers the logical core of a workgroup of a node. -/
def State.keepLcore (s : State) (r : BindRec) : State :=
  match (s.vi r.vi).replay r.replay with
  | none => s
  | some q => s.modVi r.vi fun v =>
    let g := v.graph q.gslot
    if g.lcores.any fun k => k.1 == (r.node, r.wg) then v
    else v.setGraph q.gslot { g with lcores := g.lcores ++ [((r.node, r.wg), r.lcore)] }

/-- A READY record of a sharing interface on a cluster is remembered for every other interface that shares the cluster, until the
end of its time slice (21 R368). -/
def State.rivalsOf (s : State) (vi cluster : Nat) : State :=
  if (s.vi vi).tslice = 0 then s
  else (s.vis.filter fun q => q.1 != vi && q.2.tslice != 0 && s.grants q.1 cluster != []).foldl
    (fun s q => s.modVi q.1 fun v => { v with rivals := true }) s

/-- Firmware writes a bind record (18 R317): FREE becomes READY, CLASS, LRECA and GRPn from the launch record.  A die whose firmware
image has not been verified stays in reset and has no record (22 R381). -/
def State.fwBind (s0 : State) (die idx : Nat) (r : BindRec) : State :=
  let s := s0.rivalsOf r.vi (clusterOf (die * 96 + r.core))
  if decide (2048 ≤ idx) || !(s0.die die).booted || ((s0.die die).brec idx).state != 0 then s0
  else if r.malformed then s.modRec die idx fun _ => { r with state := recReady, rsvd := false, err := 0, since := s.time3, starve := false }
  else if s.bindLegal die r then
    let l := s.recLaunch r
    let r1 := { r with state := recReady, rsvd := false, err := 0, cls := l.cls, lreca := l.addr, since := s.time3,
                       starve := false, grp := l.levels.map fun v => r.wg / v.gwg }
    let s1 := s.modRec die idx fun _ => r1
    if r.resume then s1
    else (s1.modReplay r.vi r.replay fun q => q.modNode r.node fun n => { n with bound := n.bound + 1 }).keepLcore r
  else s0

/-- Firmware takes a DONE record back (18 R317). -/
def State.fwFree (s : State) (die idx : Nat) : State :=
  if ((s.die die).brec idx).state = recDone then s.modRec die idx fun _ => BindRec.empty else s

/-! ## What is in use on a core (01 R37) -/

/-- Vector granules of a team, with its queue window. -/
def Team.granules (t : Team) : Nat :=
  t.width / 32 * (t.vcount / 8) + (if !t.shadow && t.partner.isSome then t.width / 32 else 0)

def State.wgsOn (s : State) (core : Nat) : List (Nat × Wg) :=
  (s.wgs.filter fun q => q.1 / 16 == core && q.2.used).map fun q => (q.1 % 16, q.2)

/-- The resources in use on a core. -/
def State.inUse (s : State) (core : Nat) : Charge :=
  let ts := (s.slotsOf core).map fun k => s.team core k
  let gs := (s.wgsOn core).map (·.2)
  let sum := fun (l : List Nat) => l.foldl (· + ·) 0
  { slots := ts.length, vgran := sum (ts.map Team.granules), sregs := sum (ts.map (·.scount)), tiles := sum (gs.map (·.tileN)),
    accs := sum (gs.map (·.accN)), scr := 0 }

/-- The resources of a charge are free, scratchpad apart. -/
def Charge.fits (c u : Charge) : Bool :=
  decide (c.slots + u.slots ≤ 64) && decide (c.vgran + u.vgran ≤ 512) && decide (c.sregs + u.sregs ≤ 8192) &&
  decide (c.tiles + u.tiles ≤ 24) && decide (c.accs + u.accs ≤ 4)

/-- A granule of a slice is free: no allocation and no ring area holds a byte of it (18 R318, R321). -/
def State.granFree (s : State) (core n : Nat) : Bool :=
  ((s.wgsOn core).all fun q => !overlap n 1 q.2.spOff q.2.spGran) &&
  (s.cluster (clusterOf core)).ring.all fun q =>
    !(q.2.cmask.contains (core % 4) && overlap (n * 0x4000) 0x4000 q.2.area (q.2.slots * q.2.z))

def State.runFree (s : State) (core off n : Nat) : Bool :=
  decide (off + n ≤ 256) && (List.range n).all fun i => s.granFree core (off + i)

/-- The lowest run of n free granules. -/
def State.granRun (s : State) (core n : Nat) : Option Nat := (List.range (257 - n)).find? fun i => s.runFree core i n

/-- A free workgroup context. -/
def State.freeWg (s : State) (core : Nat) : Option Nat := (List.range 16).find? fun w => !(s.wg core w).used

/-- The n lowest free team slots. -/
def State.freeSlots (s : State) (core n : Nat) : List Nat :=
  (((List.range 64).filter fun k => (s.team core k).life == .free)).take n

/-- The tree-barrier contexts in use on a domain instance (18 R323), by launch, level and group. -/
def State.treeInUse (s : State) (dom core : Nat) : List (Nat × Nat × Nat × Nat × Nat) :=
  ((s.wgs.filter fun q => q.2.used && q.1 / 16 / domCores dom == core / domCores dom).map fun q =>
    ((List.range q.2.levels.length).filter fun i => (q.2.levels.getD i ⟨0, 0, 0⟩).dom == dom).map fun i =>
      (q.2.vi, q.2.replay, q.2.node, i, q.2.grp.getD i 0)).flatten.eraseDups

/-- A context is free for each group of each level (18 R323). -/
def State.treeRoom (s : State) (core vi replay node : Nat) (levels : List Level) (grp : List Nat) : Bool :=
  (List.range levels.length).all fun i =>
    let d := (levels.getD i ⟨0, 0, 0⟩).dom
    let l := s.treeInUse d core
    d == 5 || l.contains (vi, replay, node, i, grp.getD i 0) || decide (l.length < 16)

/-! ## Allocation (18 R318 steps 2 to 5) -/

/-- A team as dispatch sets it up (02 R57, 06 R138, 03 R69): d0 holds the data section's address, path 0 stands at its entry, the
generators are seeded. -/
def newTeam (r : LRec) (w admitNo k lanes : Nat) (shadow : Bool) (partner : Option Nat) : Team :=
  let m := List.range lanes
  let data := BitVec.ofNat 64 r.data
  Team.seedRst { Team.empty with
    life := .starting, w := w, index := k, shadow := shadow, partner := partner, width := r.width, admitNo := admitNo,
    vcount := 8 * (if shadow then r.svgran else r.vgran), scount := if shadow then r.ssregs else r.sregs, member := m,
    paths := [(0, { Path.empty with pc := BitVec.ofNat 64 (r.code + (if shadow then r.shadow else 0)), mask := m })],
    sregs := sput 0 (sput 0 [] 0 (data.setWidth 32)) 1 (data.extractLsb' 32 32), entries := 1 }

/-- Start the compute teams in team order, then their shadow teams. -/
def State.placeTeams (s : State) (core w wgi : Nat) (r : LRec) (slots : List Nat) : State :=
  let n := r.teamsOf wgi
  let a := (s.core core).admits
  let s1 := (List.range n).foldl (fun s k =>
    let lanes := r.teamLanes wgi k
    let mine := slots.getD k 0
    let sh := slots.getD (n + k) 0
    let s0 := s.setTeam core mine (newTeam r w (a + k) k lanes false (if r.hasShadow then some sh else none))
    if r.hasShadow then s0.setTeam core sh (newTeam r w (a + n + k) k lanes true (some mine)) else s0) s
  s1.modCore core fun c => { c with admits := c.admits + 2 * n }

/-- Take granules for an interface: those that another interface held last are zeroed. -/
def State.takeGrans (s : State) (core off n vi : Nat) : State :=
  (List.range n).foldl (fun s i =>
    let o := sget 0 (s.core core).spOwner (off + i)
    let s1 := if o = 0 ∨ o = vi + 1 then s else s.memErase (spKey core ((off + i) * 0x4000)) 0x4000
    s1.modCore core fun c => { c with spOwner := sput 0 c.spOwner (off + i) (vi + 1) }) s

/-- The workgroup context of a record at a place. -/
def newWg (r : BindRec) (l : LRec) (idx off : Nat) : Wg :=
  { Wg.empty with
    used := true, vi := r.vi, replay := r.replay, node := r.node, lreca := r.lreca, wg := r.wg, lcore := r.lcore, grp := r.grp,
    spOff := off, spGran := l.scr, cls := r.cls, code := l.code, codeSize := r.csize, trapEntry := l.trap,
    shadowEntry := l.shadow, data := l.data, timeout := l.timeout, start := l.start, levels := l.levels, tileN := l.tiles,
    accN := l.accs, slotIdx := idx, held := r.hold }

/-- Step 7 of 18 R318: the L1 is written back and invalidated, TSTART written. -/
def State.startWg (s : State) (core w : Nat) : State :=
  let s1 := s.l1DropAll core
  let g := s1.wg core w
  ((s1.setWg core w { g with held := false, tstart := s1.ticks }).modRec (dieOf core) g.slotIdx fun r =>
    { r with hold := false, tstart := s1.ticks }).meetRings core

/-- Reserve, and start unless HOLD is set (steps 6 and 7). -/
def State.finishPlace (s : State) (die idx core w : Nat) (hold : Bool) : State :=
  let s1 := (s.modRec die idx fun r => { r with rsvd := true, state := recLive }).modCore core fun c =>
    { c with halted := c.halted.filter (· != w), saved := c.saved.filter (· != w), preempt := c.preempt.filter (· != w) }
  if hold then s1 else s1.startWg core w

/-- Place a fresh workgroup, or answer that it does not fit. -/
def State.placeNew (s : State) (die idx : Nat) (r : BindRec) : Option State :=
  let core := die * 96 + r.core
  let l := s.recLaunch r
  let ch := l.charge r.wg
  if ch.fits (s.inUse core) && s.treeRoom core r.vi r.replay r.node l.levels r.grp then
    match s.freeWg core, s.granRun core l.scr with
    | some w, some off =>
      let s1 := s.takeGrans core off l.scr r.vi
      let s2 := s1.setWg core w (newWg r l idx off)
      some ((s2.placeTeams core w r.wg l (s2.freeSlots core ch.slots)).finishPlace die idx core w r.hold)
    | _, _ => none
  else none

/-! ## Resumption (19 R343) -/

/-- A saved team in its new slot: translation registers invalid, parked paths without a wait-table entry.  With HOLD it waits in
Starting. -/
def resumeTeam (map : List (Nat × Nat)) (hold : Bool) (w admitNo own : Nat) (t : Team) : Team :=
  let slot := fun (k : Nat) => ((map.find? fun q => q.1 == k).map (·.2)).getD own
  { t with
    life := if hold then .starting else .running, w := w, admitNo := admitNo, partner := t.partner.map slot, xt := [],
    paths := t.paths.map fun q => (q.1, { q.2 with
      busy := [], wait := if q.2.parked.isSome then .retry 12 else q.2.wait,
      parked := q.2.parked.map fun k => { k with tokens := [] } }) }

/-- A saved workgroup in its new context, that of its record's launch: ZF reads clear, arrivals and batches that nothing has waited for
follow their teams. -/
def resumeWg (map : List (Nat × Nat)) (r : BindRec) (idx : Nat) (g : Wg) : Wg :=
  let slot := fun (k : Nat) => ((map.find? fun q => q.1 == k).map (·.2)).getD 64
  { g with
    vi := r.vi, replay := r.replay, node := r.node, slotIdx := idx, held := r.hold, preempted := false, cls := r.cls,
    tiles := g.tiles.map fun q => (q.1, { q.2 with zf := false, watched := [] }),
    unseen := g.unseen.map fun u => { u with slot := slot u.slot },
    tree := g.tree.map fun q => (q.1, { q.2 with
      lanes := q.2.lanes.foldl (fun l k => minsert (slot (k / 1024) * 1024 + k % 1024) l) [] }) }

/-- Join a saved binding again (08 R180): a kept region stands. -/
def CoreSt.rejoin (c : CoreSt) (w : Nat) (b : Bind) : CoreSt :=
  match c.bindOf b.vi b.obj with
  | some _ => { c with binds := c.binds.map fun q =>
      if q.vi = b.vi ∧ q.obj = b.obj then { q with holders := minsert w q.holders } else q }
  | none => { c with binds := c.binds ++ [{ b with holders := [w] }] }

/-- Everything a saved context needs is free on the core of its record. -/
def State.resumeFits (s : State) (core : Nat) (r : BindRec) (v : Saved) : Bool :=
  let ts := v.teams.map (·.2)
  let sum := fun (l : List Nat) => l.foldl (· + ·) 0
  let ch : Charge := ⟨ts.length, sum (ts.map Team.granules), sum (ts.map (·.scount)), v.wg.tileN, v.wg.accN, 0⟩
  let c := s.core core
  ch.fits (s.inUse core) && s.runFree core v.wg.spOff v.wg.spGran && decide (c.binds.length + v.binds.length ≤ 64) &&
  v.fs.all (fun q => !(c.fsOf q.1).bound) && s.treeRoom core r.vi r.replay r.node v.wg.levels v.wg.grp

/-- Where the image of a context stands: at SAVE, whose bits 63:52 name the memory as a leaf's TGT does (DESIGN CHOICE, log 20), or
in the HBM4 of the device which saved it (19 R344). -/
def Saved.place (v : Saved) : Nat := if v.peer then pKey 3 v.addr else v.addr

/-- The ids that saved slots still name stay in use until those slots are resolved (10 R231, R237, R238). -/
def CoreSt.keepIds (c : CoreSt) (fs : List (Nat × Fs)) : CoreSt :=
  { c with ids := fs.foldl (fun d q =>
      if q.2.isOpen && sget .free d q.2.id == .free then sput .free d q.2.id .squashed else d) c.ids }

/-- Restore a saved context; the core's TLB holds nothing of it (19 R343). -/
def State.placeSaved (s : State) (die idx : Nat) (r : BindRec) (v : Saved) : Option State :=
  let core := die * 96 + r.core
  match s.freeWg core with
  | none => none
  | some w =>
    if s.resumeFits core r v then
      let slots := s.freeSlots core v.teams.length
      let map := (v.teams.map (·.1)).zip slots
      let a := (s.core core).admits
      let s1 := s.takeGrans core v.wg.spOff v.wg.spGran r.vi
      let s2 := { s1 with saves := s1.saves.filter fun q => q != v }
      let s3 := s2.copyRun (v.place + v.spo) (spKey core (v.wg.spOff * 0x4000)) (v.wg.spGran * 0x4000)
      let s4 := s3.setWg core w (resumeWg map r idx v.wg)
      let s5 := ((v.teams.zip slots).zip (List.range slots.length)).foldl (fun s q =>
        s.setTeam core q.1.2 (resumeTeam map r.hold w (a + q.2) q.1.2 q.1.1.2)) s4
      let s6 := s5.modCore core fun c =>
        let c1 := v.binds.foldl (fun c b => c.rejoin w { b with vi := r.vi })
          { c with admits := c.admits + slots.length, tlb := c.tlb.filter fun e => e.vi != r.vi }
        { c1.keepIds v.fs with fs := v.fs.foldl (fun d q => sput Fs.empty d q.1 { q.2 with
            owner := w, team := ((map.find? fun k => k.1 == q.2.team).map (·.2)).getD 64 }) c1.fs }
      some (s6.finishPlace die idx core w r.hold)
    else none

/-- The image of a context can be read: its header stands in memory, without an uncorrectable word (19 R342, R344). -/
def State.imageReadable (s : State) (v : Saved) : Bool :=
  s.mnat v.place 4 == 0x43584E42 && s.mnat (v.place + 4) 4 == 1 && !s.mbad v.place 64 &&
    !(v.place / 2 ^ 52 == 3 && s.isLost (peerOf (v.place % 2 ^ 52))) && !s.poolLost v.place

/-! ## Dispatch (18 R318) -/

/-- What dispatch does with one record: nothing when it does not fit, or when a core of its cluster has lost its matrix engine, after
which the cluster takes no work (22 R378). -/
def State.placeRec (s : State) (die idx : Nat) : Option State :=
  let r := (s.die die).brec idx
  let fail := fun (e : Nat) => some (s.modRec die idx fun r => { r with state := recDone, err := e })
  if r.malformed then fail 1
  else if s.clusterOut (clusterOf (die * 96 + r.core)) then none
  else if r.resume then
    match s.savedOf r with
    | some v => if s.imageReadable v then s.placeSaved die idx r v else fail 2
    | none => fail 2
  else s.placeNew die idx r

/-- The READY records of a die's group. -/
def Die.groupRecs (d : Die) (group : Nat) : List Nat :=
  (d.slotTab.filter fun q => q.2.state == recReady && q.2.group == group && !q.2.malformed).map (·.1)

/-- A READY record has waited 2^20 cycles, marked or not. -/
def BindRec.starved (r : BindRec) (now : Nat) : Bool := r.starve || decide (r.since + 2 ^ 20 ≤ now)

/-- A starved record on the core blocks it, but for one that is dispatched with it: of one class the earlier starved record goes first
(log 19). -/
def Die.blocked (d : Die) (now : Nat) (group : List Nat) (idx : Nat) : Bool :=
  let r := d.brec idx
  d.slotTab.any fun q => !group.contains q.1 && q.2.state == recReady && q.2.starved now && q.2.core == r.core &&
    decide (q.2.cls ≤ r.cls) && !(r.starved now && (decide (r.cls < q.2.cls) || (r.cls == q.2.cls && decide (idx < q.1))))

/-- Dispatch a record, or the whole of its group at once (01 R34), unless a starved record blocks one of them (18 R318). -/
def State.placeAll (s : State) (die idx : Nat) : Option State :=
  let d := s.die die
  let r := d.brec idx
  let l := if r.group = 0 ∨ r.malformed then [idx] else d.groupRecs r.group
  if l.any fun i => d.blocked s.time3 l i then none
  else if r.group = 0 ∨ r.malformed ∨ l.length = r.groupn then l.foldl (fun o i => o.bind fun s => s.placeRec die i) (some s)
  else none

/-- READY records in order: ascending class, then index. -/
def Die.order (d : Die) : List Nat :=
  ((List.range 4).map fun c => (d.slotTab.filter fun q => q.2.state == recReady && q.2.cls == c).map (·.1)).flatten

/-- DISPATCH_ACTION (18 R318): the first record that can be dispatched is, at most one action every 16 cycles. -/
def execDispatchAction (die : Nat) (s : State) : Res :=
  let d := s.die die
  if s.time3 < d.dispatchAt then .next s
  else match d.order.findSome? fun i => s.placeAll die i with
    | some s1 => .next (s1.modDie die fun d => { d with dispatchAt := s.time3 + 16 })
    | none => .next s

/-- READY_RECORD_STARVE (18 R318): a record has waited 2^20 cycles. -/
def execReadyRecordStarve (die idx : Nat) (s : State) : Res :=
  let r := (s.die die).brec idx
  if r.state = recReady ∧ r.since + 2 ^ 20 ≤ s.time3 then .next (s.modRec die idx fun r => { r with starve := true })
  else .next s

/-- Firmware of die 0 clears HOLD (18 R305, R322): only after every record of the workgroup's group has been written and shows RSVD. -/
def State.fwRelease (s : State) (die idx : Nat) : State :=
  let r := (s.die die).brec idx
  let core := die * 96 + r.core
  let l := s.recLaunch r
  let all := match l.bindLevel, (s.vi r.vi).replay r.replay with
    | some q, some k =>
      decide (l.groupEnd q.2 r.wg ≤ (k.node r.node).bound) &&
      s.dies.all fun d => d.2.slotTab.all fun k =>
        !(k.2.state == recReady && k.2.vi == r.vi && k.2.replay == r.replay && k.2.node == r.node &&
          k.2.wg / q.2.gwg == r.wg / q.2.gwg)
    | _, _ => true
  if s.fwRuns 0 && r.state == recLive && r.hold && r.rsvd && all then
    match (s.wgsOn core).find? fun q => q.2.slotIdx == idx && q.2.held with
    | some q => s.startWg core q.1
    | none => s
  else s

/-- TEAM_START (18 R322): the record is LIVE without HOLD and the time base has reached START; TSTART is the time base at which the teams
left Starting (18 R317). -/
def execTeamStart (core slot : Nat) (s : State) : Res :=
  let t := s.team core slot
  let g := s.wg core t.w
  if t.life = .starting ∧ g.held = false ∧ g.start ≤ s.ticks.toNat then
    let first := (s.slotsOfWg core t.w).all fun k => (s.team core k).life == .starting
    let s1 := s.setTeam core slot { t with life := .running }
    .next (if first then (s1.modWg core t.w fun g => { g with tstart := s.ticks }).modRec (dieOf core) g.slotIdx fun r =>
      { r with tstart := s.ticks } else s1)
  else .next s

/-! ## Retirement (01 R39, 20 R346) -/

/-- The block record (20 R346). -/
def blockWords (s : State) (core slot : Nat) : List DWord :=
  let t := s.team core slot
  let g := s.wg core t.w
  let b := fun (x : Bool) (n : Nat) => if x then 2 ^ n else 0
  [g.tstart, s.ticks,
   BitVec.ofNat 64 (g.vi * 2 ^ 58 + g.lcore * 2 ^ 42 + slot * 2 ^ 36 + t.index * 2 ^ 31 + b t.shadow 30 + b t.ended 29),
   word2 g.wg g.node, word2 (sat32 t.issued) (sat32 t.passes), 0, 0, 0] ++
  (List.range 8).map fun i => word2 (sget 0 t.stall (2 * i)) (sget 0 t.stall (2 * i + 1))

/-- The waits of Draining are over (01 R39), room in the block ring apart; a commit that is in progress is performed first. -/
def State.drained (s : State) (core slot : Nat) : Bool :=
  let c := s.core core
  let t := s.team core slot
  t.life == .draining && t.batches == [] && (c.ops.all fun o => o.slot != slot) &&
  ((c.running.toList ++ c.mqueue).all fun m => m.slot != slot) && (c.posted.all fun q => q.slot != slot) && !t.flushing

/-- Free the resources of a workgroup (01 R39, 08 R180, 10 R229), and set its record DONE. -/
def State.freeCtx (s : State) (core w : Nat) : State :=
  let g := s.wg core w
  let s1 := s.modCore core fun c =>
    { c with binds := c.binds.filterMap fun b => leaveBind w b, fs := c.fs.filter fun q => !(q.2.bound && q.2.owner == w) }
  ((s1.setWg core w Wg.empty).gcIds core).modRec (dieOf core) g.slotIdx fun r => { r with state := recDone }

/-- The last team of a workgroup has left Draining after exit: the workgroup retires (18 R313). -/
def State.retireWg (s : State) (core w : Nat) : State :=
  let g := s.wg core w
  let s1 := (s.freeCtx core w).modCore core fun c =>
    { c with preempt := c.preempt.filter (· != w), halted := c.halted.filter (· != w) }
  let s2 := s1.modReplay g.vi g.replay fun r => r.modNode g.node fun n => { n with retired := n.retired + 1 }
  (s2.settleReplay g.vi g.replay).startReplays g.vi 16

/-- What a team that retires leaves of its speculation.  DESIGN CHOICE (log 41): what a team that ended with an unresolved id (01 R36)
has deferred is discarded, and its own such ids are squashed, with cascade. -/
def State.leaveIds (s : State) (core slot : Nat) : State :=
  let s1 := ((s.core core).unresolved (s.team core slot).ownIds).foldl (fun s x => s.squashId core x) s
  s1.modCore core fun c => { c with pen := c.pen.filter fun e => e.slot != slot }

/-- TEAM_RETIRE (01 R39): a draining team leaves its slot, its block record is written, and the last one takes the workgroup
with it. -/
def execTeamRetire (core slot : Nat) (s0 : State) : Res :=
  let s1 := s0.settleBatches core slot
  let d := s1.die (dieOf core)
  if s1.drained core slot && (d.brtail + 1) % 4096 != d.brhead then
    let s := s1.leaveIds core slot
    let w := (s.team core slot).w
    let ws := blockWords s core slot
    let s2 := (s.setDie (dieOf core) { d with blockRing := sput [] d.blockRing d.brtail ws, brtail := (d.brtail + 1) % 4096 }).setTeam
      core slot Team.empty
    .next ((if s2.slotsOfWg core w = [] then s2.retireWg core w else s2).gcIds core)
  else .next s0

end Sys2Proof.Machine
end

