-- ==== Sys2Proof/Machine/Service.lean ====
section
/-!
DEFINITION. How firmware serves faults: `SHOOT` and `REPLAY` (19 R331 to R333), ownership flips (19 R334, 21 R360), and the
driver's side of an interface (21 R358, R359).
-/

namespace Sys2Proof.Machine

open Sys2Proof

/-! ## Leaf entries (19 R326, R327) -/

/-- The key of the leaf entry of an address with its level and value; none where the walk fails. -/
def State.leafAt (s : State) (va : Nat) : Nat → Nat → Nat → Option (Nat × Nat × Nat)
  | 0, _, _ => none
  | fuel + 1, level, table =>
    let k := pKey 0 (table + 8 * (va / 2 ^ levelShift.getD level 16 % (if level = 4 then 32 else 512)))
    let e := s.mnat k 8
    if s.mbad k 8 || !pteOk level e then none
    else if tbit e 3 then some (k, level, e)
    else s.leafAt va fuel (level + 1) (fld e 12 40 * 2 ^ 12)

def State.leafOf (s : State) (vi va : Nat) : Option (Nat × Nat × Nat) := s.leafAt va 5 0 (fld (s.vi vi).ptroot.toNat 12 40 * 2 ^ 12)

/-- The size of the page at an address; 64 KiB where nothing is mapped. -/
def State.pageSize (s : State) (vi va : Nat) : Nat :=
  match s.leafOf vi va with
  | some q => leafSize q.2.1
  | none => 2 ^ 16

/-! ## Shoot-downs (19 R331, 06 R140) -/

/-- Make the translations of an interface that touch a range invalid, on every core and in every team: those whose page, as it was
when it was translated, shares bytes with the range (06 R140). -/
def State.shootRange (s : State) (vi base n : Nat) : State :=
  { s with
    cores := s.cores.map fun q => (q.1, { q.2 with tlb := q.2.tlb.filter fun e => !(e.vi == vi && overlap e.base e.size base n) }),
    teams := s.teams.map fun q => (q.1, { q.2 with xt := q.2.xt.filter fun x =>
      !((s.wg (q.1 / 64) q.2.w).vi == vi && overlap x.2.base x.2.size base n) }) }

/-- What a shoot-down covers: one page, or the whole space of the interface. -/
def State.shootNow (s : State) (q : Option Nat × Nat) : State :=
  match q.1 with
  | some page => s.shootRange q.2 page (s.pageSize q.2 page)
  | none => s.shootRange q.2 0 (2 ^ 57)

/-- A write of `SHOOT`: one that is under way is finished first. -/
def State.shootWrite (s : State) (die : Nat) (q : Option Nat × Nat) : State :=
  let s1 := match (s.die die).shoot with
    | some p => s.shootNow p
    | none => s
  s1.modDie die fun d => { d with shoot := some q }

/-- VI and KEY of `SHOOT` and `REPLAY`. -/
def keyVi (v : DWord) : Nat := fld v.toNat 55 6
def keyPage (v : DWord) : Nat := v.toNat % 2 ^ 41 * 2 ^ 16

/-- SHOOT_PAGE (19 R331): a write of `SHOOT` with MODE 0. -/
def execShootPage (die : Nat) (v : DWord) (s : State) : Res := .next (if !s.fwRuns die then s else s.shootWrite die (some (keyPage v), keyVi v))

/-- SHOOT_VI (19 R331): a write of `SHOOT` with MODE 1. -/
def execShootVi (die : Nat) (v : DWord) (s : State) : Res := .next (if !s.fwRuns die then s else s.shootWrite die (none, keyVi v))

/-- SHOOT_DONE (19 R331): every matching translation has been made invalid and BUSY reads 0. -/
def execShootDone (die : Nat) (s : State) : Res :=
  match (s.die die).shoot with
  | some q => .next ((s.shootNow q).modDie die fun d => { d with shoot := none })
  | none => .next s

/-! ## Replays (19 R333) -/

/-- Wake a path parked under one of the tokens: it performs its unfinished lanes at its next issue, or traps now. -/
def State.wakePath (s : State) (r : PathRef) (toks : List Nat) (fatal : Bool) : State :=
  match (s.path r).parked with
  | none => s
  | some k =>
    if k.tokens.any fun t => toks.contains t then
      if fatal then (match s.resumeParked r true with
        | .next s1 => s1
        | _ => s)
      else s.modPath r fun p => { p with wait := .retry 12, parked := some { k with tokens := [] } }
    else s

/-- Wake an engine operation parked under one of the tokens. -/
def State.wakeOp (s : State) (core : Nat) (o : EngOp) (toks : List Nat) (fatal : Bool) : State :=
  match o.parked with
  | some t =>
    if toks.contains t then
      if fatal then s.opFail core o 1 else s.modOp core o.id fun o => { o with parked := none }
    else s
  | none => s

/-- A write of `REPLAY` that selects entries: what is parked under them wakes, and they are freed; entry 63 is always among them.
With no match nothing happens. -/
def State.replayWrite (s : State) (core : Nat) (fatal : Bool) (p : WaitE → Bool) : State :=
  let c := s.core core
  let sel := c.waitTab.filter fun q => q.2.v && (q.1 == 63 || p q.2)
  if sel = [] then s
  else
    let toks := sel.map fun q => q.2.token
    let s1 := s.setCore core { c with waitTab := c.waitTab.filter fun q => !(q.2.v && (q.1 == 63 || p q.2)) }
    let s2 := (s1.slotsOf core).foldl (fun s k =>
      (s.team core k).paths.foldl (fun s q => s.wakePath ⟨core, k, q.1⟩ toks fatal) s) s1
    c.ops.foldl (fun s o => s.wakeOp core o toks fatal) s2

def byPageTest (v : DWord) (e : WaitE) : Bool := e.vi == keyVi v && e.page == keyPage v

/-- A token names its entry whatever the interface; bits 40:16 of KEY are zero. -/
def byTokenTest (v : DWord) (e : WaitE) : Bool := v.toNat % 2 ^ 41 == e.token
def allViTest (v : DWord) (e : WaitE) : Bool := e.vi == keyVi v

/-- Firmware of the core's die writes `REPLAY`. -/
def State.fwReplay (s : State) (core : Nat) (fatal : Bool) (p : WaitE → Bool) : State :=
  if s.fwRuns (dieOf core) then s.replayWrite core fatal p else s

/-- REPLAY_BY_PAGE (19 R331, R333). -/
def execReplayByPage (core : Nat) (v : DWord) (s : State) : Res := .next (s.fwReplay core false (byPageTest v))

/-- REPLAY_BY_TOKEN (19 R331, R333). -/
def execReplayByToken (core : Nat) (v : DWord) (s : State) : Res := .next (s.fwReplay core false (byTokenTest v))

/-- REPLAY_ALL_VI (19 R331, R333). -/
def execReplayAllVi (core : Nat) (v : DWord) (s : State) : Res := .next (s.fwReplay core false (allViTest v))

/-- REPLAY_BY_PAGE_FATAL (19 R333). -/
def execReplayByPageFatal (core : Nat) (v : DWord) (s : State) : Res := .next (s.fwReplay core true (byPageTest v))

/-- REPLAY_BY_TOKEN_FATAL (19 R333). -/
def execReplayByTokenFatal (core : Nat) (v : DWord) (s : State) : Res := .next (s.fwReplay core true (byTokenTest v))

/-- REPLAY_ALL_VI_FATAL (19 R333). -/
def execReplayAllViFatal (core : Nat) (v : DWord) (s : State) : Res := .next (s.fwReplay core true (allViTest v))

/-- Firmware replays by page on every core whose wait table holds the page (19 R334 step 5). -/
def State.replayPage (s : State) (vi page size : Nat) (fatal : Bool) : State :=
  s.cores.foldl (fun s q =>
    if q.2.waitTab.any fun e => e.2.v && e.2.vi == vi && page ≤ e.2.page && e.2.page < page + size then
      s.replayWrite q.1 fatal fun e => e.vi == vi && decide (page ≤ e.page) && decide (e.page < page + size)
    else s) s

/-! ## Ownership flips (19 R334, 21 R360) -/

/-- Write a record of the flip queue. -/
def State.flipRecord (s : State) (vi idx page : Nat) (done : Bool) (dir : Nat) : State :=
  s.mput (hostKey ((s.vi vi).flipbase.toNat + 16 * idx))
    (bytesOf 8 page ++ bytesOf 8 ((if done then 2 ^ 63 else 0) + dir))

/-- The next flip-queue record. -/
def State.nextFlip (s : State) (vi : Nat) : Nat × State :=
  ((s.vi vi).nextFlip, s.modVi vi fun v => { v with nextFlip := (v.nextFlip + 1) % 64 })

/-- Write the low bits of a leaf entry. -/
def State.setLeaf (s : State) (k e : Nat) : State := s.mput k (bytesOf 8 e)

/-- An entry with another frame, target and owner. -/
def leafWith (e frame tgt own : Nat) : Nat := fld e 2 2 * 4 + e % 2 + own * 2 + tgt * 2 ^ 8 + frame / 2 ^ 12 * 2 ^ 12

/-- FLIP_TO_DEVICE (19 R334 steps 1 and 2, 21 R360): firmware sets OWN to 0, marks the page as flipping, and asks the driver.
`frame` is the HBM4 frame it has chosen, `host` where the driver keeps the bytes. -/
def execFlipToDevice (vi page frame host : Nat) (s : State) : Res :=
  match s.leafOf vi page with
  | none => .next s
  | some (k, level, e) =>
    let base := page / leafSize level * leafSize level
    if !s.fwRuns 0 || s.flipping vi base (leafSize level) || frame % leafSize level != 0 || decide (hbmBytes < frame + leafSize level) ||
        inDump frame (leafSize level) then .next s
    else
      let q := (s.setLeaf k (e / 4 * 4 + e % 2)).nextFlip vi
      .next ((((q.2.flipRecord vi q.1 base false 0).modVi vi fun v =>
        { v with flips := v.flips ++ [⟨base, false, q.1, frame, host, s.time3⟩] })).raise vi 2)

/-- A flip-queue record has stood without DONE for 1 s: it counts as refused (21 R360). -/
def Flip.refused (f : Flip) (now : Nat) : Bool := decide (f.since + 3 * 10 ^ 9 ≤ now)

/-- FLIP_DONE (21 R360, 19 R334 steps 3 to 5): the driver sets DONE; the bytes are copied to the frame, the leaf is written and
shot down, the mark is cleared, and the page's waiters wake.  Nothing follows for a record that counts as refused. -/
def execFlipDone (vi idx : Nat) (s : State) : Res :=
  match (s.vi vi).flips.find? fun f => f.qrec == idx && !f.toHost with
  | none => .next s
  | some f =>
    if f.refused s.time3 || !s.fwRuns 0 then .next s
    else match s.leafOf vi f.page with
    | none => .next (s.modVi vi fun v => { v with flips := v.flips.erase f })
    | some (k, level, e) =>
      let size := leafSize level
      let s1 := s.flipRecord vi idx f.page true 0
      let s2 := s1.copyRun (hostKey f.src) (pKey 0 f.frame) size
      let s3 := ((s2.setLeaf k (leafWith e f.frame 0 1)).shootRange vi f.page size).modVi vi fun v =>
        { v with flips := v.flips.erase f }
      .next (((s3.replayPage vi f.page size false).checkGraphs vi).startReplays vi 16)

/-- FLIP_REFUSED (21 R360): a record without DONE for 1 s; the page stays where it was and its waiters fail. -/
def execFlipRefused (vi idx : Nat) (s : State) : Res :=
  match (s.vi vi).flips.find? fun f => f.qrec == idx && !f.toHost with
  | none => .next s
  | some f =>
    if !f.refused s.time3 || !s.fwRuns 0 then .next s
    else .next (((s.modVi vi fun v => { v with flips := v.flips.erase f })).replayPage vi f.page (s.pageSize vi f.page) true)

/-- FLIPREQ (21 R360, 19 R334): the driver asks for a page, which is marked as flipping. -/
def execFlipreq (vi : Nat) (v : DWord) (s : State) : Res :=
  let page := fld v.toNat 16 41 * 2 ^ 16
  match s.leafOf vi page with
  | none => .next s
  | some (_, level, _) =>
    let base := page / leafSize level * leafSize level
    .next (if s.fwRuns 0 then s.modVi vi fun x => { x with flips := x.flips ++ [⟨base, true, 64, 0, 0, s.time3⟩] } else s)

/-- The L1 lines of a page are written back and invalidated on every core. -/
def State.dropPage (s : State) (k n : Nat) : State :=
  s.cores.foldl (fun s q => (s.l1Touched q.1 k n).foldl (fun s l => s.l1Drop q.1 l) s) s

/-- FLIP_TO_HOST (19 R334, 21 R360): the page is shot down, its issued stores are performed, deferred ones among them, which were
translated when they were recorded, its lines leave every L1, the bytes
go to `host`, where the driver keeps them, OWN becomes 0, and the driver is answered. Flips of one page keep their order. -/
def execFlipToHost (vi page host : Nat) (s : State) : Res :=
  match (s.vi vi).flips.find? fun f => f.page == page with
  | none => .next s
  | some f =>
    match s.leafOf vi page with
    | none => .next s
    | some (k, level, e) =>
      let size := leafSize level
      let src := pKey (fld e 8 2) (fld e 12 40 * 2 ^ 12)
      let pending := s.cores.any fun q => (q.2.posted.any fun p => overlap p.key p.bytes.length src size) ||
        q.2.pen.any fun e => e.op.within src size
      if !f.toHost || pending || !s.fwRuns 0 then .next s
      else
        let s1 := (s.shootRange vi page size).dropPage src size
        let s2 := if tbit e 1 then s1.copyRun src (hostKey host) size else s1
        let q := (s2.setLeaf k (e / 4 * 4 + e % 2)).nextFlip vi
        .next (((q.2.flipRecord vi q.1 page true 1).modVi vi fun v => { v with flips := v.flips.erase f }).raise vi 2)

end Sys2Proof.Machine
end

