-- ==== Sys2Proof/Machine/Preempt.lean ====
section
/-!
DEFINITION. Pre-emption and saving (19 R341, R342, 10 R238), the end of a launch (19 R339, R340), the interface's enable
(21 R359), and time slices (21 R368).
-/

namespace Sys2Proof.Machine

open Sys2Proof

/-! ## Halting (19 R341) -/

/-- The unresolved ids that teams of a core hold. -/
def State.heldIds (s : State) (core : Nat) : List Nat :=
  (s.core core).unresolved ((s.slotsOf core).map fun k => (s.team core k).ids).flatten.eraseDups

/-- Squash every id held on the core, with cascade (10 R238); held instructions have their verdict.  An id that is held still and has
committed resolves with the others: its team holds nothing afterwards, and performs what it had deferred. -/
def State.squashCore (s : State) (core : Nat) : State :=
  let s1 := (s.heldIds core).foldl (fun s x => s.squashId core x) s
  let c := s1.core core
  let settle := fun (p : Path) => match p.wait with
    | .held l => match c.heldVerdict l with
      | some b => { p with wait := .heldDone b }
      | none => p
    | _ => p
  ((s1.slotsOf core).foldl (fun s k => (s.modTeam core k fun t =>
    { t with inhIds := [], paths := t.paths.map fun q => (q.1, settle q.2) }).startFlush core k) s1).gcIds core

/-- A team halts: no path issues any more, the open batch is closed without a number. -/
def State.haltTeam (s : State) (core slot : Nat) : State :=
  let t := s.team core slot
  if t.life = .running ∨ t.life = .starting then
    (s.setTeam core slot { t.closeBatch with life := .saving }).settleBatches core slot
  else s

/-- Halt a workgroup context. -/
def State.haltWg (s : State) (core w : Nat) : State :=
  let s1 := (s.squashCore core).modWg core w fun g => { g with preempted := true }
  (s1.slotsOfWg core w).foldl (fun s k => s.haltTeam core k) s1

/-- A team of the context still runs, or has not started. -/
def State.active (s : State) (core w : Nat) : Bool :=
  (s.slotsOfWg core w).any fun k => let l := (s.team core k).life; l == .running || l == .starting

/-- Request pre-emption of a context; one whose teams all drain only keeps the bit. -/
def State.preemptWg (s : State) (core w : Nat) : State :=
  if (s.wg core w).used && !(s.core core).preempt.contains w then
    let s1 := s.modCore core fun c => { c with preempt := minsert w c.preempt }
    if s1.active core w then s1.haltWg core w else s1
  else s

/-- PREEMPT (19 R331, R341): a write of WGMASK. -/
def execPreempt (core : Nat) (v : DWord) (s : State) : Res :=
  .next (if s.fwRuns (dieOf core) then (List.range 16).foldl (fun s w => if tbit v.toNat w then s.preemptWg core w else s) s else s)

/-- PREEMPT_HALTED (19 R341): every path stands at a boundary; a trap that waits in a window is delivered first. -/
def execPreemptHalted (core w : Nat) (s : State) : Res :=
  let c := s.core core
  if c.preempt.contains w && (s.wg core w).preempted && !c.halted.contains w then
    let s1 := (s.slotsOfWg core w).foldl (fun s k =>
      (s.team core k).paths.foldl (fun s q => if q.2.parked.isNone then s.deliverPending ⟨core, k, q.1⟩ else s) s) s
    .next (s1.modCore core fun c => { c with halted := minsert w c.halted })
  else .next s

/-! ## Saving (19 R342) -/

/-- A store toward the scratchpad allocation of a context has not been performed (12 R276, R282). -/
def State.storesInto (s : State) (core w : Nat) : Bool :=
  let g := s.wg core w
  s.cores.any fun q => q.2.posted.any fun p => overlap p.key p.bytes.length (spKey core g.spLo) (g.spGran * 0x4000)

/-- What the image of a save waits for: engine operations, batches and steps, results that have not returned, teams that drain after
exit, and stores on their way into the scratchpad allocation, which the image holds. -/
def State.saveReady (s : State) (core w : Nat) : Bool :=
  let c := s.core core
  let ks := s.slotsOfWg core w
  (c.ops.all fun o => o.w != w) && ((c.running.toList ++ c.mqueue).all fun m => m.w != w) &&
  ((s.wg core w).tiles.all fun t => !t.2.loading) &&
  !s.storesInto core w && ks.all fun k =>
    let t := s.team core k
    t.life == .saving && t.batches == [] && !t.flushing && c.penOf k == [] && t.paths.all fun q => q.2.pend == []

/-- The paths of a slot leave the wait table (19 R342 step 1). -/
def CoreSt.leaveWaits (c : CoreSt) (slot : Nat) : CoreSt :=
  { c with waitTab := c.waitTab.filterMap fun q =>
      let l := q.2.slots.filter (· != slot)
      if q.2.slots.contains slot && l == [] && q.2.ops == [] then none else some (q.1, { q.2 with slots := l }) }

/-- The image header (19 R342); `wgo` and `spo` are the offsets of the workgroup section and of the scratchpad copy, which ends the
image. -/
def State.imageHeader (s : State) (core w wgo spo : Nat) : List Byte :=
  let g := s.wg core w
  let w4 := fun (n : Nat) => bytesOf 4 n
  w4 0x43584E42 ++ w4 1 ++ w4 (spo + g.spGran * 0x4000) ++ w4 (s.slotsOfWg core w).length ++ bytesOf 8 g.lreca ++ w4 g.wg ++
    w4 g.lcore ++ w4 g.spOff ++ w4 g.spGran ++ bytesOf 8 s.ticks.toNat ++ w4 64 ++ w4 wgo ++ w4 spo ++ w4 0

/-- The saved context of a workgroup: compute teams first.  The layout of the team and workgroup sections is not given, so what they
hold stands in the record, and their bytes are free values (log 20). -/
def State.contextOf (s : State) (core w save spo : Nat) : Saved :=
  let g := s.wg core w
  let ks := s.slotsOfWg core w
  let order := ks.filter (fun k => !(s.team core k).shadow) ++ ks.filter fun k => (s.team core k).shadow
  { addr := save, peer := false, vi := g.vi, wg := g, teams := order.map fun k => (k, s.team core k), spo := spo,
    binds := (s.core core).binds.filter fun b => b.holders.contains w,
    fs := (s.core core).fs.filter fun q => q.2.bound && q.2.owner == w }

/-- Where the workgroup section and the scratchpad copy of the next image begin: the lengths of the sections are not given, free values
below 512 MiB (log 20). -/
def State.imageOffsets (s : State) : Nat × Nat :=
  let wgo := 128 + 64 * ((Config.freeWord s.fresh).toNat % 2 ^ 23)
  (wgo, wgo + 64 + 64 * ((Config.freeWord (s.fresh + 1)).toNat % 2 ^ 23))

/-- The image of a context lies whole in the memory that bits 63:52 of SAVE name: HBM4, host memory, a pool, or a peer's memory (00
R3, 19 R344, log 20). -/
def State.imageFits (s : State) (core w save : Nat) : Bool :=
  let tgt := save / 2 ^ 52
  decide (tgt < 4) &&
    decide (save % 2 ^ 52 + s.imageOffsets.2 + (s.wg core w).spGran * 0x4000 ≤ if tgt = 0 then hbmBytes else 2 ^ 52)

/-- Step 2 of 19 R342: the image is written at `save`: the header, the team sections, the workgroup section, the scratchpad copy. -/
def State.putImage (s : State) (core w save : Nat) : State :=
  let (wgo, spo) := s.imageOffsets
  let f := { s with fresh := s.fresh + 2 }.freeBytes (spo - 64)
  let g := s.wg core w
  let s1 := { f.2 with saves := f.2.saves ++ [s.contextOf core w save spo] }
  (s1.mput save (s.imageHeader core w wgo spo ++ f.1)).copyRun (spKey core g.spLo) (save + spo) (g.spGran * 0x4000)

/-- Steps 2 and 3 of 19 R342: the image is written, the L1 is written back, and the context drains (01 R39). -/
def State.writeImage (s : State) (core w save : Nat) : State :=
  let ks := s.slotsOfWg core w
  let s1 := ks.foldl (fun s k => s.modCore core fun c => c.leaveWaits k) s
  ks.foldl (fun s k => s.modTeam core k fun t => { t with life := .drainSaved }) ((s1.putImage core w save).l1CleanAll core)

/-- A context drains after its save (01 R39). -/
def State.drainsSaved (s : State) (core w : Nat) : Bool :=
  (s.slotsOfWg core w) != [] && (s.slotsOfWg core w).all fun k => (s.team core k).life == .drainSaved

/-- Step 4 of 19 R342, once every posted store of the context, and what the L1 wrote back, is acknowledged: SAVED is set and the
resources are freed. -/
def State.leaveSaved (s : State) (core w : Nat) : State :=
  let ks := s.slotsOfWg core w
  if (s.core core).posted.any fun q => ks.contains q.slot || q.slot == linkSlot then s
  else
    let s1 := ks.foldl (fun s k => s.setTeam core k Team.empty) s
    (s1.freeCtx core w).modCore core fun c => { c with preempt := c.preempt.filter (· != w), saved := minsert w c.saved }

/-- CONTEXT_SAVED (19 R342): firmware of the core's die (18 R305) writes the image, then stores are acknowledged, then the context is
Saved. -/
def execContextSaved (core w save : Nat) (s : State) : Res :=
  let c := s.core core
  if s.drainsSaved core w then .next (s.leaveSaved core w)
  else if c.preempt.contains w && c.halted.contains w && s.saveReady core w && s.imageFits core w save && s.fwRuns (dieOf core) then
    .next ((s.writeImage core w save).leaveSaved core w)
  else .next s

/-! ## Ending a launch (19 R339, R340) -/

/-- An operation is aborted with CODE 7, whatever else it met (09 R217): what it has not written stays as it was (09 R210, 19 R335). -/
def State.opAbort (s : State) (core : Nat) (o : EngOp) : State :=
  s.opEnd core o 7 0

/-- ENGINE_OPERATION_ABORT (19 R335): firmware of the core's die aborts an operation. -/
def execEngineOperationAbort (core op : Nat) (s : State) : Res :=
  match s.findOp core op with
  | some o => .next (if s.fwRuns (dieOf core) then s.opAbort core o else s)
  | none => .next s

/-- A team of an ended launch drains; nothing of it is saved. -/
def State.endTeam (s : State) (core slot : Nat) : State :=
  let s1 := s.modCore core fun c => c.leaveWaits slot
  (s1.modTeam core slot fun t => { t.drain with ended := true }).settleBatches core slot

/-- Steps 1 to 3 of 19 R339 for one workgroup. -/
def State.endWg (s : State) (core w : Nat) : State :=
  let s1 := s.squashCore core
  let s2 := ((s1.core core).ops.filter fun o => o.w == w).foldl (fun s o => s.opAbort core o) s1
  ((s2.slotsOfWg core w).foldl (fun s k => s.endTeam core k) s2).modWg core w fun g => { g with ending := true }

/-- The launch end record (19 R340), with its graph slot and KSEQ. -/
def endRecord (r : Replay) (ws : List DWord) : List DWord :=
  match ws with
  | a :: _ :: l => (a ||| BitVec.ofNat 64 (r.gslot * 2 ^ 48)) :: r.kseq :: l
  | l => l

/-- READY records of a replay are taken back: its remaining nodes are not dispatched (19 R339 step 4), and the ended node's saved
contexts do not resume.  A rejected record of that node becomes FREE. -/
def State.takeBack (s : State) (vi replay : Nat) (node : Option Nat) : State :=
  let gone := fun (k : BindRec) => k.vi == vi && k.replay == replay &&
    (k.state == recReady && (!k.resume || node == some k.node) || k.state == recDone && k.err != 0 && node == some k.node)
  { s with dies := s.dies.map fun q => (q.1, { q.2 with slotTab := q.2.slotTab.filter fun k => !gone k.2 }) }

/-- End a launch with its record; its replay is judged afterwards. -/
def State.endLaunchOf (s : State) (vi replay node : Nat) (ws : List DWord) : State :=
  match (s.vi vi).replay replay with
  | none => s
  | some r =>
    let s1 := (s.wgs.filter fun q => q.2.used && q.2.vi == vi && q.2.replay == replay && q.2.node == node).foldl
      (fun s q => s.endWg (q.1 / 16) (q.1 % 16)) s
    let mine := fun (v : Saved) => !v.peer && v.vi == vi && v.wg.replay == replay && v.wg.node == node
    let s2 := { s1.takeBack vi replay (some node) with
      saves := s1.saves.filter fun v => !mine v,
      ends := s1.ends.filter fun e => !(e.vi == vi && e.replay == replay && e.node == node) }
    let s3 := { s2.modReplay vi replay fun r => { r with ended := true } with fresh := s2.fresh + 8 }
    s3.report vi (endRecord r ws)

/-- End a launch with its record. -/
def State.endLaunch (s : State) (vi replay node : Nat) (ws : List DWord) : State :=
  (s.endLaunchOf vi replay node ws).settleReplay vi replay

/-- A launch end record without a trap: the fields for which such an end has no value are free values (log 7); `cause` is a
machine check's, `place` the workgroup and logical core concerned, `who` the team slot and path. -/
def plainEnd (s : State) (kind : Nat) (cause : Option Nat) (node : Nat) (place who : Option (Nat × Nat)) : List DWord :=
  let f := fun (i : Nat) => (Config.freeWord (s.fresh + i)).toNat
  let at_ := place.getD (f 5, f 6 % 2 ^ 16)
  let by_ := who.getD (f 7 / 2 ^ 10 % 64, f 7 % 2 ^ 10)
  [word2 (cause.getD (f 0 % 2 ^ 8) + kind * 2 ^ 16) node, 0, word2 (f 1) (f 2), word2 (f 3) (f 4),
   word2 at_.1 (by_.2 + by_.1 * 2 ^ 10 + at_.2 * 2 ^ 16), s.ticks, 0, 0]

/-- A workgroup of a launch, and its logical core, on a core whose matrix engine is out of use, or bound to a cluster that is no longer
granted for it, where dispatch never starts it (22 R378). -/
def State.engineLess (s : State) (vi replay node : Nat) : Option (Nat × Nat) :=
  ((s.wgs.find? fun q => q.2.used && q.2.vi == vi && q.2.replay == replay && q.2.node == node && !q.2.ending &&
      (s.core (q.1 / 16)).engineOut).map fun q => (q.2.wg, q.2.lcore)) <|>
  s.dies.findSome? fun q => (q.2.slotTab.find? fun k => k.2.state == recReady && k.2.vi == vi && k.2.replay == replay &&
    k.2.node == node && s.clusterOut (clusterOf (q.1 * 96 + k.2.core))).map fun k => (k.2.wg, k.2.lcore)

/-- The reason for which firmware ends a launch now: a request, a record that dispatch rejected, a core whose matrix engine is
out of use (19 R339, 22 R378). -/
def State.endReason (s : State) (vi replay node : Nat) : Option (List DWord) :=
  match s.ends.find? fun e => e.vi == vi && e.replay == replay && e.node == node with
  | some e => some e.words
  | none =>
    let bad := (s.dies.map fun q => q.2.slotTab).flatten.find? fun k =>
      k.2.state == recDone && k.2.err != 0 && k.2.vi == vi && k.2.replay == replay && k.2.node == node
    match bad, s.engineLess vi replay node with
    | some k, _ => some (plainEnd s 3 none node (some (k.2.wg, k.2.lcore)) none)
    | none, some q => some (plainEnd s 2 (some 0x20) node (some q) none)
    | none, none => none

/-- LAUNCH_END (19 R339): the primary firmware ends the launch (log 30). -/
def execLaunchEnd (vi replay node : Nat) (s : State) : Res :=
  match s.endReason vi replay node with
  | some ws => .next (if s.fwRuns 0 then s.endLaunch vi replay node ws else s)
  | none => .next s

/-! ## Measurements (22 R381) -/

/-- MEASn, and its extension by a digest. -/
def State.measOf (s : State) (n : Nat) : List Byte := (List.range 64).map fun i => sget 0 s.meas (64 * n + i)

def State.measExtend (s : State) (n : Nat) (digest : List Byte) : State :=
  let v := Config.shake256 (s.measOf n ++ digest)
  { s with meas := (List.range 64).foldl (fun d i => sput 0 d (64 * n + i) (v.getD i 0)) s.meas }

/-- A configuration block of registers. -/
def blockBytes (ws : List DWord) : List Byte := (ws.map fun w => bytesOf 8 w.toNat).flatten

/-! ## The enable of an interface (21 R359) -/

/-- The fields of VICTL that a write keeps. -/
def victlMask : DWord := 0xFFFFFFFF00FF0301#64

/-- A write of VICTL with EN set, which is discarded with NCL = 0 or above 96, or with PTROOT zero; the primary firmware measures
the block as EN becomes 1 (22 R381). -/
def State.viEnable (s : State) (vi : Nat) (v : DWord) : State :=
  let x := s.vi vi
  let ncl := fld v.toNat 16 8
  if v &&& ~~~victlMask ≠ 0 ∨ ncl = 0 ∨ 96 < ncl ∨ x.ptroot = 0 ∨ 64 ≤ vi then s
  else
    let s1 := s.setVi vi { x with victl := v, minclass := fld v.toNat 8 2 }
    if x.victl.getLsbD 0 || !s.fwRuns 0 then s1
    else s1.measExtend 5 (Config.shake256 (blockBytes (v :: (List.range 4).map (fun n => sget 0 x.pool n) ++ [BitVec.ofNat 64 x.fabgrp])))

/-- VI_ENABLE (21 R359): a write of VICTL with EN = 1. -/
def execViEnable (vi : Nat) (v : DWord) (s : State) : Res := if v.getLsbD 0 then .next (s.viEnable vi v) else .next s

/-- The launches of an interface: those with a workgroup anywhere, and those of ready nodes that have not completed. -/
def State.launches (s : State) (vi : Nat) : List (Nat × Nat) :=
  ((s.wgs.filter fun q => q.2.used && q.2.vi == vi).map (fun q => (q.2.replay, q.2.node)) ++
    (s.saves.filter fun v => !v.peer && v.vi == vi).map (fun v => (v.wg.replay, v.wg.node)) ++
    (((s.vi vi).replays.filter fun r => r.started && !r.ended).map fun r =>
      ((List.range r.nodes.length).filter fun n => (r.node n).ready && !(r.node n).complete).map fun n => (r.id, n)).flatten).eraseDups

/-- A write of VICTL with EN clear: the primary firmware ends every launch with KIND 3, every replay is over, every graph slot
empties. -/
def State.viDisable (s : State) (vi : Nat) (v : DWord) : State :=
  let x := s.vi vi
  if v &&& ~~~victlMask ≠ 0 ∨ 64 ≤ vi then s
  else
    let s1 := s.setVi vi { x with victl := v, minclass := fld v.toNat 8 2 }
    if !x.victl.getLsbD 0 || !s.fwRuns 0 then s1
    else
      let s2 := (s1.launches vi).foldl (fun s q => s.endLaunchOf vi q.1 q.2 (plainEnd s 3 none q.2 none none)) s1
      let s3 := s2.modVi vi fun v => { v with
        replays := v.replays.map fun r => { r with ended := true },
        graphs := v.graphs.map fun q => (q.1, { q.2 with leaving := true, gbase := 0 }) }
      let s4 := x.replays.foldl (fun s r => (s.takeBack vi r.id none).settleReplay vi r.id) s3
      s4.modVi vi Vi.settleGraphs

/-- VI_DISABLE (21 R359): a write of VICTL with EN = 0. -/
def execViDisable (vi : Nat) (v : DWord) (s : State) : Res := if v.getLsbD 0 then .next s else .next (s.viDisable vi v)

/-! ## Time slices (21 R368) -/

/-- Another interface that shares in time has a READY record on a cluster of the interface. -/
def State.contested (s : State) (vi : Nat) : Bool :=
  s.dies.any fun q => q.2.slotTab.any fun k =>
    k.2.state == recReady && k.2.vi != vi && (s.vi k.2.vi).tslice != 0 && s.grants vi (clusterOf (q.1 * 96 + k.2.core)) != []

/-- TIME_SLICE_EXPIRY (21 R368): at the end of a slice during which another sharing interface had READY records, firmware pre-empts the
interface's workgroups; each die's, those on its own cores (18 R305). -/
def execTimeSliceExpiry (vi : Nat) (s : State) : Res :=
  let v := s.vi vi
  if v.tslice = 0 ∨ s.time3 < v.sliceAt + v.tslice * 3000 ∨ s.fwRuns 0 = false then .next s
  else
    let mine := s.wgs.filter fun q => q.2.used && q.2.vi == vi && s.fwRuns (dieOf (q.1 / 16))
    let s1 := if v.rivals || s.contested vi then mine.foldl (fun s q => s.preemptWg (q.1 / 16) (q.1 % 16)) s else s
    .next (s1.modVi vi fun v => { v with sliceAt := s.time3, rivals := s.contested vi })

end Sys2Proof.Machine
end

