-- ==== Sys2Proof/Machine/Debug.lean ====
section
/-!
DEFINITION. The sampler and the histogram engine (20 R347 to R349), the resumption of stops (20 R353), and the writes of firmware's
registers (18 R306, R324, 19 R331, 20 R350, 21 R358, 22 R373, R375, R382).
-/

namespace Sys2Proof.Machine

open Sys2Proof

/-! ## The sampler (20 R347, R348) -/

/-- PERIOD of SMPCTL; values below 16 act as 16. -/
def CoreSt.period (c : CoreSt) : Nat := max 16 (c.smpctl.toNat % 2 ^ 16)
def CoreSt.sampling (c : CoreSt) : Bool := c.smpctl.getLsbD 31

/-- The next occupied slot after one, wrapping at 63. -/
def nextSlot (slots : List Nat) (after : Nat) : Option Nat :=
  (slots.find? fun k => decide (after < k)) <|> slots.head?

/-- What a slot did in the cycle. -/
def State.noteOf (s : State) (core slot : Nat) : Note :=
  match (s.core core).notes.find? fun n => n.slot == slot with
  | some n => n
  | none => ⟨slot, 15, 0, ((s.team core slot).path 0).pc⟩

/-- The sample record. -/
def sampleWords (s : State) (core : Nat) (n : Note) : List DWord :=
  let g := s.wg core (s.team core n.slot).w
  [s.ticks,
   BitVec.ofNat 64 (g.vi * 2 ^ 58 + core % 96 * 2 ^ 51 + n.slot * 2 ^ 45 + n.path * 2 ^ 35 + n.out * 2 ^ 30),
   word2 (n.pc - BitVec.ofNat 64 g.code).toNat g.lcore, 0]

/-- CORE of a sample record (20 R348). -/
def sampleCore (ws : List DWord) : Nat := fld (ws.getD 1 0).toNat 51 7

/-- A record reaches the intake of the histogram engine in a cycle; those of one cycle stand in the order of their cores, and what
finds no room among 16 is dropped (20 R349). -/
def Die.intake (d : Die) (cycle : Nat) (ws : List DWord) : Die :=
  if !d.hen then d
  else
    let later := fun (q : Nat × List DWord) => q.1 == cycle && decide (sampleCore ws < sampleCore q.2)
    let q := d.hq.takeWhile (fun q => !later q) ++ (cycle, ws) :: d.hq.dropWhile fun q => !later q
    if q.length ≤ 16 then { d with hq := q } else { d with hq := q.take 16, hdropQ := sat32 (d.hdropQ + 1) }

/-- Take the sample that is due, and count the next period. -/
def State.takeSample (s : State) (core : Nat) : State :=
  let c := s.core core
  let s0 := s.setCore core { c with smpLeft := c.period }
  match nextSlot (s.slotsOf core) c.smpSlot with
  | none => s0
  | some k =>
    let ws := sampleWords s core (s.noteOf core k)
    (s0.modCore core fun c => { c with smpSlot := k, smplast := ws }).modDie (dieOf core) fun d => d.intake c.t3 ws

/-- A sample is due. -/
def CoreSt.sampleDue (c : CoreSt) : Bool := c.sampling && c.smpLeft == 0

/-- SAMPLE (20 R347). -/
def execSample (core : Nat) (s : State) : Res := if (s.core core).sampleDue then .next (s.takeSample core) else .next s

/-! ## The histogram engine (20 R349) -/

/-- Fold a record into the bins. -/
def Die.fold (d : Die) (ws : List DWord) : Die :=
  let w8 := (ws.getD 1 0).toNat
  let pc := (ws.getD 2 0).toNat % 2 ^ 32
  let vi := w8 / 2 ^ 58
  let out := fld w8 30 5
  match d.bins.find? fun q => q.2.vi == vi && q.2.pc == pc && q.2.out == out with
  | some q => { d with bins := sput Bin.empty d.bins q.1 { q.2 with count := sat32 (q.2.count + 1) } }
  | none =>
    match (List.range 4096).find? fun i => (sget Bin.empty d.bins i).count == 0 with
    | some i => { d with bins := sput Bin.empty d.bins i ⟨vi, pc, out, 1⟩ }
    | none => { d with hdropTag := sat32 (d.hdropTag + 1) }

/-- A snapshot is under way at a time: it lasts 4,096 cycles (20 R349). -/
def Die.snapNow (d : Die) (now : Nat) : Bool := d.snap && decide (now < d.snapAt + 4096)

/-- HIST_FOLD (20 R349): the oldest queued sample is folded, one in a cycle, but none during a snapshot. -/
def execHistFold (die : Nat) (s : State) : Res :=
  let d := s.die die
  match d.hq with
  | [] => .next s
  | q :: rest =>
    if d.snapNow s.time3 || decide (s.time3 < d.foldAt) then .next s
    else .next (s.setDie die (({ d with hq := rest, foldAt := s.time3 + 1 } : Die).fold q.2))

/-- A bin of a snapshot. -/
def binBytes (b : Bin) : List Byte :=
  bytesOf 8 (2 ^ 63 + b.out * 2 ^ 38 + b.vi * 2 ^ 32 + b.pc) ++ bytesOf 8 b.count

/-- Start a snapshot: every bin is written, a free one as zeros, and freed (20 R349); `HDST` is an HBM4 address, and beyond
the end of HBM4 nothing is written (00 R3, log 21). -/
def State.snapshot (s : State) (die : Nat) : State :=
  let d := s.die die
  if d.snapNow s.time3 then s
  else
    let k := pKey 0 d.hdst
    let put := fun (s : State) => d.bins.foldl (fun s q => s.mput (k + 16 * q.1) (binBytes q.2)) (s.mput k (List.replicate 65536 0))
    (if d.hdst + 65536 ≤ hbmBytes then put s else s).setDie die { d with snap := true, snapAt := s.time3, bins := [] }

/-- HIST_SNAPSHOT (20 R349): a write of SNAP = 1. -/
def execHistSnapshot (die : Nat) (s : State) : Res := .next (if s.fwRuns die then s.snapshot die else s)

/-- HIST_SNAPSHOT_END (20 R349): 4,096 cycles later folding resumes. -/
def execHistSnapshotEnd (die : Nat) (s : State) : Res :=
  let d := s.die die
  if d.snap = true ∧ d.snapAt + 4096 ≤ s.time3 then .next (s.setDie die { d with snap := false }) else .next s

/-! ## Stops that resume (20 R353) -/

/-- The path of a core that is eclipsed under a token. -/
def State.eclipsedBy (s : State) (core tok : Nat) : Option (PathRef × Eclipse) :=
  (s.slotsOf core).findSome? fun k =>
    (s.team core k).paths.findSome? fun q => match q.2.eclipse with
      | some e => if e.token = tok ∧ tok ≠ 0 then some (⟨core, k, q.1⟩, e) else none
      | none => none

/-- ECLRES (20 R353): after `brk` the path goes on at the next instruction, after a comparator at the stopped one, which then
ignores every comparator. -/
def execEclres (core : Nat) (v : DWord) (s : State) : Res :=
  match s.eclipsedBy core (v.toNat % 2 ^ 16) with
  | none => .next s
  | some (r, e) =>
    if !s.fwRuns (dieOf core) then .next s
    else
    let s1 := s.modPath r fun p => { p with eclipse := none, skipCmp := !e.next }
    .next (if e.next then s1.goto r e.resume else s1)

/-! ## Register writes -/

/-- A field of a written value. -/
def wfld (v : DWord) (lo n : Nat) : Nat := fld v.toNat lo n

/-- Keep the bits of a mask. -/
def keep (v : DWord) (lo n : Nat) : DWord := BitVec.ofNat 64 (wfld v lo n * 2 ^ lo)

/-- A driver register that takes no write while the interface is enabled (21 R358). -/
def State.viLocked (s : State) (vi : Nat) (f : Vi → Vi) : State :=
  if (s.vi vi).victl.getLsbD 0 then s else s.modVi vi f

/-- RSV(1) ≤ RSV(2) ≤ RSV(3) after a write of RSV(c) (18 R324). -/
def Cluster.setRsv (c : Cluster) (n v : Nat) : Cluster :=
  let c1 := if n = 1 then { c with parsv1 := v } else if n = 2 then { c with parsv2 := v } else { c with parsv3 := v }
  if c1.parsv1 ≤ c1.parsv2 ∧ c1.parsv2 ≤ c1.parsv3 then c1 else c

/-- A write of SMPCTL: the first sample falls PERIOD cycles after EN is set, and the search starts at slot 0. -/
def CoreSt.writeSmpctl (c : CoreSt) (v : DWord) : CoreSt :=
  let w := BitVec.ofNat 32 (wfld v 31 1 * 2 ^ 31 + wfld v 0 16)
  let c1 := { c with smpctl := w }
  if c1.sampling && !c.sampling then { c1 with smpLeft := c1.period, smpSlot := 63 } else c1

/-- The ring of a place moves with its logical cluster: the cores that consume it, and the bytes of its area in their slices, which are
its interface's from then on (21 R369). -/
def State.moveRing (s : State) (src dst : Nat) (q : Nat × Ring) : State :=
  let s1 := q.2.cmask.foldl (fun s c =>
    (s.takeArea (dst * 4 + c) q.2.area (q.2.slots * q.2.z) q.2.vi).copyRun (spKey (src * 4 + c) q.2.area)
      (spKey (dst * 4 + c) q.2.area) (q.2.slots * q.2.z)) s
  (s1.modCluster src fun c => { c with ring := c.ring.filter fun k => k.1 != q.1 }).setRing dst q.1 q.2

/-- The rings of an interface on a cluster. -/
def State.ringsOf (s : State) (vi cluster : Nat) : List (Nat × Ring) := (s.cluster cluster).ring.filter fun q => q.2.vi == vi

/-- Every ring of a logical cluster has room where the cluster is to move: no other ring of its number, and no ring and no allocation, of
whatever interface, over its area (21 R369). -/
def State.roomToMove (s : State) (vi m phys : Nat) : Bool :=
  s.physCluster vi m == phys || (s.ringsOf vi (s.physCluster vi m)).all fun q =>
    s.ringFits phys q.1 q.2.cmask q.2.area (q.2.slots * q.2.z)

/-- Firmware moves a logical cluster of an interface to a physical cluster (18 R305), and the interface's rings with it (19 R343). -/
def State.moveCluster (s : State) (vi m phys : Nat) : State :=
  let src := s.physCluster vi m
  let s1 := s.modVi vi fun x => { x with lcl := sput 0 x.lcl m (phys + 1) }
  if src = phys then s1 else (s.ringsOf vi src).foldl (fun s q => s.moveRing src phys q) s1

/-- A register that exists: the device has 384 cores, 96 clusters, 16 quadrants, 4 dies (00 R2), 64 interfaces, and routes to 4,096
devices (21 R362). -/
def fwRegThere : FwReg → Bool
  | .parate c | .pacap c => decide (c < 96)
  | .parsv c n => decide (c < 96) && decide (1 ≤ n) && decide (n ≤ 3)
  | .fqhead d | .brhead d | .sthead d | .trhead d | .trctl d | .hctl d | .hdst d => decide (d < 4)
  | .smpctl c | .dbgen c | .mxidle c => decide (c < 384)
  | .bp c n => decide (c < 384) && decide (n < 8)
  | .wp c n | .wpctl c n => decide (c < 384) && decide (n < 4)
  | .drpthr q => decide (q < 16)
  | .pwrlim | .attdst => true
  | .tlim n => decide (n < 3)
  | .ptroot v | .errbase v | .errhead v | .flipbase v | .fabgrp v => decide (v < 64)
  | .pool v n => decide (v < 64) && decide (n < 4)
  | .attnonce n => decide (n < 4)
  | .route d => decide (d < 4096)
  | .logicalCluster v m => decide (v < 64) && decide (m < 96)
  | .communicator v _ _ => decide (v < 64)

/-- The die whose management core writes the register; none for those of the driver (18 R305, R324, 19 R331, 20 R350, 21 R358, 22 R373,
R382). -/
def fwRegDie : FwReg → Option Nat
  | .parate c | .pacap c | .parsv c _ => some (c / 24)
  | .fqhead d | .brhead d | .sthead d | .trhead d | .trctl d | .hctl d | .hdst d => some d
  | .smpctl c | .dbgen c | .mxidle c | .bp c _ | .wp c _ | .wpctl c _ => some (dieOf c)
  | .drpthr q => some (q / 4)
  | .pwrlim | .tlim _ | .route _ | .logicalCluster .. | .communicator .. => some 0
  | .attdst | .attnonce _ | .ptroot _ | .errbase _ | .errhead _ | .flipbase _ | .fabgrp _ | .pool .. => none

/-- The register exists, and what writes it runs (22 R381). -/
def State.fwCan (s : State) (r : FwReg) : Bool :=
  fwRegThere r && match fwRegDie r with
    | some d => s.fwRuns d
    | none => true

/-- The fabric block: the route table and the 1588 configuration (22 R381). -/
def State.fabricBlock (s : State) : List Byte :=
  blockBytes ((List.range 4096).map fun i => BitVec.ofNat 64 (sget 0 s.route i)) ++ Config.ptpConfig

/-- The write of one register. -/
def State.writeReg (s : State) (r : FwReg) (v : DWord) : State :=
  match r with
  | .parate c => if wfld v 16 16 ≠ 0 then s else s.modCluster c fun x => { x with parate := wfld v 0 16 }
  | .pacap c => if wfld v 24 8 ≠ 0 then s else s.modCluster c fun x => { x with pacap := wfld v 0 24 }
  | .parsv c n => if wfld v 16 16 ≠ 0 then s else s.modCluster c fun x => x.setRsv n (wfld v 0 16)
  | .fqhead d => s.modDie d fun x => { x with fqhead := wfld v 0 12 }
  | .brhead d => s.modDie d fun x => { x with brhead := wfld v 0 12 }
  | .sthead d => s.modDie d fun x => { x with sthead := wfld v 0 8 }
  | .trhead d => s.modDie d fun x => { x with trhead := wfld v 0 16 }
  | .smpctl c => s.modCore c fun x => x.writeSmpctl v
  | .dbgen c => s.modCore c fun x => { x with dbgen := v }
  | .bp c n => if wfld v 0 3 ≠ 0 then s else s.modCore c fun x => { x with bp := sput 0 x.bp n v }
  | .wp c n => s.modCore c fun x => { x with wp := sput 0 x.wp n v }
  | .wpctl c n => s.modCore c fun x => { x with wpctl := sput 0 x.wpctl n (BitVec.ofNat 32 (wfld v 0 6)) }
  | .trctl d => s.modDie d fun x => { x with trctl := v.getLsbD 0 }
  | .hctl d =>
    let s1 := s.modDie d fun x => { x with hen := v.getLsbD 0 }
    if v.getLsbD 1 then s1.snapshot d else s1
  | .hdst d => s.modDie d fun x => { x with hdst := wfld v 16 41 * 2 ^ 16 }
  | .pwrlim => { s with pwrlim := min 2700 (wfld v 0 16) }
  | .mxidle c => s.modCore c fun x => { x with mxidle := wfld v 0 16 }
  | .drpthr q => s.modQuad q fun x => { x with drpthr := wfld v 0 8 }
  | .tlim n =>
    if n = 0 then { s with tlim0 := wfld v 0 16 }
    else if n = 1 then { s with tlim1 := wfld v 0 16 }
    else { s with tlim2 := wfld v 0 16 }
  | .ptroot vi => s.viLocked vi fun x => { x with ptroot := keep v 12 40 }
  | .errbase vi => s.viLocked vi fun x => { x with errbase := keep v 12 45 }
  | .errhead vi => s.modVi vi fun x => { x with errhead := wfld v 0 6 }
  | .flipbase vi => s.viLocked vi fun x => { x with flipbase := keep v 12 45 }
  | .fabgrp vi => s.viLocked vi fun x => { x with fabgrp := wfld v 0 16 }
  | .pool vi n => s.viLocked vi fun x => { x with pool := sput 0 x.pool n (keep v 12 52), poolDown := x.poolDown.filter (· != n) }
  | .attnonce n => { s with attnonce := s.attnonce.set n v }
  | .attdst => { s with attdst := v }
  | .route d =>
    let s1 := { s with
      route := sput 0 s.route d (wfld v 0 18), lost := if wfld v 0 18 = 0 then s.lost else s.lost.filter (· != d),
      measSteps := sput 0 s.measSteps 4 1 }
    s1.measExtend 4 (Config.shake256 s1.fabricBlock)
  | .logicalCluster vi m =>
    if 96 ≤ v.toNat ∨ s.clusterOut v.toNat = true ∨ s.othersHold vi v.toNat = true ∨ s.roomToMove vi m v.toNat = false then s
    else s.moveCluster vi m v.toNat
  | .communicator vi n m => s.modVi vi fun x =>
      { x with comm := smod [] x.comm n fun l => (l.take m) ++ [(wfld v 32 32, wfld v 0 32)] ++ l.drop (m + 1) }

/-- REGISTER_WRITE (20 R350 and the tables beside it): bits not listed are discarded, and so is a write where no register is.
The firmware of a die that has not booted writes nothing (22 R381). -/
def execRegisterWrite (r : FwReg) (v : DWord) (s : State) : Res := .next (if s.fwCan r then s.writeReg r v else s)

/-- COUNTER_CLEAR: any write clears the counter (18 R325, 20 R350, 22 R373, R377, R378). -/
def State.clearCounter (s : State) (r : CounterReg) : State :=
  match r with
  | .slip c => s.modCluster c fun x => { x with slip := 0 }
  | .trdrop d => s.modDie d fun x => { x with trdrop := 0 }
  | .hdrop d => s.modDie d fun x => { x with hdropTag := 0, hdropQ := 0 }
  | .mxgates c => s.modCore c fun x => { x with mxgates := 0 }
  | .drpcnt q => s.modQuad q fun x => { x with drpcnt := 0 }
  | .eccce d n => s.modDie d fun x => { x with eccce := sput 0 x.eccce n 0 }
  | .eccue d n => s.modDie d fun x => { x with eccue := sput 0 x.eccue n 0 }
  | .mxrerun d => s.modDie d fun x => { x with mxrerun := 0 }
  | .mxmchk d => s.modDie d fun x => { x with mxmchk := 0 }

/-- A counter that exists (00 R2, 22 R377). -/
def counterThere : CounterReg → Bool
  | .slip c => decide (c < 96)
  | .trdrop d | .hdrop d | .mxrerun d | .mxmchk d => decide (d < 4)
  | .mxgates c => decide (c < 384)
  | .drpcnt q => decide (q < 16)
  | .eccce d n | .eccue d n => decide (d < 4) && decide (n < 6)

/-- The die whose management core clears a counter (18 R325, 20 R350, 22 R373). -/
def counterDie : CounterReg → Nat
  | .slip c => c / 24
  | .trdrop d | .hdrop d | .mxrerun d | .mxmchk d | .eccce d _ | .eccue d _ => d
  | .mxgates c => dieOf c
  | .drpcnt q => q / 4

/-- COUNTER_CLEAR (20 R350). -/
def execCounterClear (r : CounterReg) (s : State) : Res := .next (if counterThere r && s.fwRuns (counterDie r) then s.clearCounter r else s)

/-! ## The host control page (21 R358): a register is read and written whole, at its offset -/

/-- What a read of the page answers; it changes nothing.  `FLIPREQ` and offsets that are not listed read 0. -/
def State.hostPageRead (s : State) (vi off : Nat) : DWord :=
  let x := s.vi vi
  if off % 8 ≠ 0 then 0
  else if off = 0x00 then x.victl
  else if off = 0x08 then x.ptroot
  else if off = 0x10 then x.errbase
  else if off = 0x18 then BitVec.ofNat 64 x.errhead
  else if off = 0x20 then BitVec.ofNat 64 x.errtail
  else if off = 0x28 then x.flipbase
  else if off = 0x38 then BitVec.ofNat 64 x.fabgrp
  else if 0x40 ≤ off ∧ off < 0x60 then sget 0 x.pool ((off - 0x40) / 8)
  else 0

/-- What a write of the page does; writes of `ERRTAIL` and of offsets that are not listed are discarded. -/
def State.hostPageWrite (s : State) (vi off : Nat) (v : DWord) : Res :=
  if off % 8 ≠ 0 then .next s
  else if off = 0x00 then (if v.getLsbD 0 then execViEnable vi v s else execViDisable vi v s)
  else if off = 0x08 then execRegisterWrite (.ptroot vi) v s
  else if off = 0x10 then execRegisterWrite (.errbase vi) v s
  else if off = 0x18 then execRegisterWrite (.errhead vi) v s
  else if off = 0x28 then execRegisterWrite (.flipbase vi) v s
  else if off = 0x30 then execFlipreq vi v s
  else if off = 0x38 then execRegisterWrite (.fabgrp vi) v s
  else if 0x40 ≤ off ∧ off < 0x60 then execRegisterWrite (.pool vi ((off - 0x40) / 8)) v s
  else .next s

end Sys2Proof.Machine
end

