-- ==== Sys2Proof/Machine/Power.lean ====
section
/-!
DEFINITION. Droop, thermal thresholds and the power budget (22 R372 to R376), errors of the silicon (19 R337, R338, 22 R377,
R378), fatal errors and the dump (22 R379, R380), resets, measured boot and attestation (22 R381, R382).
-/

namespace Sys2Proof.Machine

open Sys2Proof

/-! ## Droop (22 R374). Times are in thirds of a nanosecond, the nominal period. -/

/-- The quadrant's clock is stretched at a time. -/
def Quad.stretched (q : Quad) (t : Nat) : Bool := q.stretch != 0 && decide (q.stretch ≤ t + 12) && decide (t < q.stretch)

/-- The halving window is open at a time; one that a trip ends is open until that trip takes effect, a cycle later. -/
def Quad.halved (q : Quad) (t : Nat) : Bool :=
  q.halving != 0 && decide (q.halving ≤ t + 64) && decide (t < q.halving) || decide (t < q.halfCut)

/-- DROOP_TRIP (22 R374): 6 stretched cycles from the next cycle on, then 64 of halving; a trip during a stretch only counts. -/
def execDroopTrip (quad : Nat) (s : State) : Res :=
  let q := s.quad quad
  if q.drpthr = 0 ∨ 16 ≤ quad then .next s
  else
    let q1 := { q with drpcnt := sat32 (q.drpcnt + 1) }
    let t := s.time3
    .next (s.setQuad quad (if q.stretched t || q.stretched (t + 1) then q1 else
      { q1 with stretch := t + 13, halving := t + 77, halfCut := if q.halved t then t + 1 else q.halfCut }))

/-- DROOP_STRETCH_END (22 R374). -/
def execDroopStretchEnd (quad : Nat) (s : State) : Res :=
  let q := s.quad quad
  if q.stretch ≤ s.time3 then .next (s.setQuad quad { q with stretch := 0 }) else .next s

/-- DROOP_HALVING_END (22 R374). -/
def execDroopHalvingEnd (quad : Nat) (s : State) : Res :=
  let q := s.quad quad
  if q.halving ≤ s.time3 then .next (s.setQuad quad { q with halving := 0 }) else .next s

/-! ## Fatal errors and the dump (22 R379, R380) -/

/-- The 64 bytes of a bind record (18 R317). -/
def recBytes (r : BindRec) : List Byte :=
  let b := fun (x : Bool) (n : Nat) => if x then 2 ^ n else 0
  bytesOf 8 (r.state * 2 ^ 62 + b r.hold 61 + b r.resume 60 + r.cls * 2 ^ 58 + b r.rsvd 57 + r.err * 2 ^ 53 + r.groupn * 2 ^ 40 +
    r.group * 2 ^ 24 + r.core * 2 ^ 16 + r.rsv % 2 ^ 16) ++ bytesOf 8 r.lreca ++ bytesOf 4 r.wg ++
    bytesOf 4 (r.vi * 2 ^ 16 + r.lcore) ++ ((List.range 5).map fun i => bytesOf 4 (r.grp.getD i 0)).flatten ++ bytesOf 4 0 ++
    bytesOf 8 (if r.resume then r.save else 0) ++ bytesOf 8 r.tstart.toNat

/-- Every register of 22 R373 to R378, in the order of the tables, each for its cores, quadrants or dies in their order.  DESIGN
CHOICE (log 22): the order, and 8 bytes for each. -/
def State.dumpRegs (s : State) : List Nat :=
  let cores := fun (f : CoreSt → Nat) => (List.range 384).map fun i => f (s.core i)
  let quads := fun (f : Quad → Nat) => (List.range 16).map fun i => f (s.quad i)
  let dies := fun (f : Die → Nat) => (List.range 4).map fun i => f (s.die i)
  let counts := fun (f : Die → Sparse Nat) => (List.range 4).flatMap fun i => (List.range 6).map fun n => sget 0 (f (s.die i)) n
  [s.pwrlim] ++ cores (·.mxidle) ++ cores (·.mxgates) ++ quads (·.drpthr) ++ quads (·.drpcnt) ++ [s.tlim0, s.tlim1, s.tlim2] ++
    quads (·.thstat) ++ quads (·.thcur) ++ counts (·.eccce) ++ counts (·.eccue) ++ dies (·.mxrerun) ++ dies (·.mxmchk)

/-- Where the sections of a dump lie (22 R380): four fault rings of 128 KiB, four slot tables of 128 KiB, the 892 registers, four block
rings of 512 KiB. -/
def dumpFro : Nat := 64
def dumpSto : Nat := dumpFro + 4 * 131072
def dumpCto : Nat := dumpSto + 4 * 131072
def dumpBro : Nat := dumpCto + 8 * 892
def dumpLength : Nat := dumpBro + 4 * 524288

/-- The dump's header. -/
def dumpHeader (s : State) (die cause detail : Nat) : List Byte :=
  let w4 := fun (n : Nat) => bytesOf 4 n
  w4 0x44554D50 ++ w4 1 ++ bytesOf 8 dumpLength ++ bytesOf 8 s.ticks.toNat ++ w4 (cause + die * 2 ^ 8) ++ w4 detail ++
    w4 dumpFro ++ w4 dumpSto ++ w4 dumpCto ++ w4 dumpBro ++ (s.measOf 0).take 8 ++ bytesOf 8 0

/-- Write records of one size at their places behind an offset of the dump. -/
def State.dumpRecords (s : State) (at_ : Nat) (l : List (Nat × List Byte)) : State :=
  l.foldl (fun s q => s.mput (pKey 0 (dumpBase + at_ + q.1)) q.2) s

/-- The dump is written (22 R380). -/
def State.writeDump (s : State) (die cause detail : Nat) : State :=
  let words := fun (l : List DWord) => (l.map fun w => bytesOf 8 w.toNat).flatten
  let s1 := s.memErase (pKey 0 dumpBase) dumpLength
  let s2 := s1.dumpRecords 0 [(0, dumpHeader s die cause detail), (dumpCto, (s.dumpRegs.map (bytesOf 8)).flatten)]
  (List.range 4).foldl (fun s1 d =>
    ((s1.dumpRecords (dumpFro + d * 131072) ((s.die d).faultRing.map fun q => (32 * q.1, words q.2))).dumpRecords
      (dumpSto + d * 131072) ((s.die d).slotTab.map fun q => (64 * q.1, recBytes q.2))).dumpRecords
      (dumpBro + d * 524288) ((s.die d).blockRing.map fun q => (128 * q.1, words q.2))) s2

/-- After a thermal dump the compute dies and stacks 1 to 7 lose power: scratchpads and those stacks lose their bytes (log 24). -/
def State.powerDown (s : State) : State :=
  let keep := fun (k : Nat) => decide (k < 64 * 2 ^ 30) || decide (2 ^ 52 ≤ k) && k / 2 ^ 52 != 4
  { s with mem := s.mem.filter fun q => keep q.1, memPoison := s.memPoison.filter keep }

/-- A fatal error: every core halts without saving, the dump is written, vector 3 is raised, and the device is held. -/
def State.fatal (s : State) (die cause detail : Nat) : State :=
  let s1 := s.writeDump die cause detail
  ({ (if cause = 1 then s1.powerDown else s1) with dumpHeld := true, cyc := none }).raise 0 3

/-- FATAL_ERROR_DUMP (22 R379): the primary firmware writes it, for one of the causes of 22 R380. -/
def execFatalErrorDump (die cause detail : Nat) (s : State) : Res :=
  if s.dumpHeld || decide (4 ≤ die) || cause == 0 || decide (4 < cause) || !s.fwRuns 0 then .next s else .next (s.fatal die cause detail)

/-! ## Thermal thresholds (22 R375, R376) -/

def State.tlim (s : State) (n : Nat) : Nat := if n = 0 then s.tlim0 else if n = 1 then s.tlim1 else s.tlim2

def Quad.changed (q : Quad) (n : Nat) : Option Nat := if n = 0 then q.changed0 else if n = 1 then q.changed1 else q.changed2

def Quad.setChanged (q : Quad) (n t : Nat) : Quad :=
  if n = 0 then { q with changed0 := some t } else if n = 1 then { q with changed1 := some t } else { q with changed2 := some t }

def Quad.entered (q : Quad) (n : Nat) : Bool := tbit q.thstat n

/-- The reading calls for a change of threshold n: entry at or above TEMP, leaving at or below TEMP − 2 °C. -/
def Quad.calls (q : Quad) (lim n : Nat) : Bool := if q.entered n then decide (q.thcur + 16 ≤ lim) else decide (lim ≤ q.thcur)

/-- 250 µs have passed since the last change of the threshold. -/
def Quad.mayChange (q : Quad) (n now : Nat) : Bool :=
  match q.changed n with
  | some t => decide (t + 750000 ≤ now)
  | none => true

/-- The RATE of a cluster whose quadrant enters threshold 0 or 1, or leaves it (22 R375, R376): half, or a quarter, rounded down; what it
was taken from when it leaves, within the 16 bits of the field (log 23). -/
def thRate (n : Nat) (on : Bool) (rate : Nat) : Nat :=
  let k := if n = 0 then 2 else 4
  if on then min (rate * k) 0xFFFF else rate / k

/-- Firmware of the quadrant's die rewrites `PARATE` of its six clusters (22 R372, R376). -/
def State.thScale (s : State) (quad n : Nat) (on : Bool) : State :=
  if !s.fwRuns (quad / 4) then s
  else (List.range 6).foldl (fun s i => s.modCluster (quad * 6 + i) fun c => { c with parate := thRate n on c.parate }) s

/-- Change the state of a threshold: the factor of TLIM0 or TLIM1 acts on RATE; entry to TLIM2 is a fatal error. -/
def State.thChange (s : State) (quad n : Nat) : State :=
  let q := s.quad quad
  let on := q.entered n
  let q1 := { (q.setChanged n s.time3) with
    thstat := if on then q.thstat - 2 ^ n else q.thstat + 2 ^ n, pending := q.pending.filter (· != n) }
  let s1 := s.setQuad quad q1
  if n < 2 then s1.thScale quad n on
  else if on = false ∧ s.dumpHeld = false ∧ s.fwRuns 0 = true then s1.fatal (quad / 4) 1 quad else s1

/-- What a reading does to one threshold. -/
def State.thJudge (s : State) (quad n : Nat) : State :=
  let q := s.quad quad
  if !q.calls (s.tlim n) n then s
  else if q.mayChange n s.time3 then s.thChange quad n
  else s.setQuad quad { q with pending := minsert n q.pending }

/-- THERMAL_READING (22 R375, R376): a sensor reading in eighths of a degree. -/
def execThermalReading (quad temp : Nat) (s : State) : Res :=
  let s1 := s.modQuad quad fun q => { q with thcur := temp % 2 ^ 16 }
  .next (if 16 ≤ quad then s else ((s1.thJudge quad 0).thJudge quad 1).thJudge quad 2)

/-- THERMAL_HOLDOFF_EXPIRY (22 R376): a change that waited takes effect if the current reading still calls for it. -/
def execThermalHoldoffExpiry (quad n : Nat) (s : State) : Res :=
  let q := s.quad quad
  if q.pending.contains n && q.mayChange n s.time3 && decide (quad < 16) then
    let s1 := s.setQuad quad { q with pending := q.pending.filter (· != n) }
    .next (if q.calls (s.tlim n) n then s1.thChange quad n else s1)
  else .next s

/-- The refill of a cluster in a cycle, in sixteenths of a debit (18 R324). -/
def State.refill (s : State) (cluster : Nat) : Nat := (s.cluster cluster).parate

/-- POWER_MEASURE (22 R372): firmware rewrites PARATE of some clusters; each management core those of its die (18 R305). -/
def execPowerMeasure (rates : List (Nat × Nat)) (s : State) : Res :=
  .next ((rates.filter fun q => decide (q.1 < 96) && (s.die (q.1 / 24)).booted).foldl
    (fun s q => s.modCluster q.1 fun c => { c with parate := q.2 % 2 ^ 16 }) s)

/-! ## Soft errors (19 R337, R338, 22 R377) -/

def State.countUe (s : State) (die n : Nat) : State :=
  s.modDie die fun d => { d with eccue := sput 0 d.eccue n (sat32 (sget 0 d.eccue n + 1)) }

def State.countCe (s : State) (die n k : Nat) : State :=
  s.modDie die fun d => { d with eccce := sput 0 d.eccce n (sat32 (sget 0 d.eccce n + k)) }

/-- A machine check writes its record and raises vector 3 (19 R330, 21 R357). -/
def State.machineCheck (s : State) (core va vi slot path ectx src kind cause : Nat) : State :=
  (s.postFault core (faultWords s va 0 vi core slot path ectx src kind cause 3)).raise 0 3

/-- An uncorrectable register element is poisoned, and logged (19 R337).  PATH, which the spec does not give for an element
that no path reads, is 0 (log 38). -/
def State.regError (s : State) (core slot : Nat) (f : Team → Team) : State :=
  let s1 := (s.modTeam core slot f).countUe (dieOf core) 0
  s1.machineCheck core 0 (s.wg core (s.team core slot).w).vi slot 0 0 7 0 0x21

/-- The bytes at a key become free values (log 7). -/
def State.spoil (s : State) (k n : Nat) : State :=
  let f := s.freeBytes n
  f.2.mput k f.1

/-- The interfaces with a workgroup on a core. -/
def State.visOn (s : State) (core : Nat) : List Nat :=
  ((s.wgs.filter fun q => q.2.used && q.1 / 16 == core).map fun q => q.2.vi).eraseDups

/-- Whose record an uncorrectable dirty line writes: the interface of the core's workgroups where they have one, else a free value
(log 38); a line is of no team, so SLOT and PATH are free values too. -/
def State.lineCheck (s : State) (core cause : Nat) : State :=
  let f := fun (i : Nat) => (Config.freeWord (s.fresh + i)).toNat
  let vi := match s.visOn core with
    | [v] => v
    | _ => f 0 % 64
  { s with fresh := s.fresh + 3 }.machineCheck core 0 vi (f 1 % 64) (f 2 % 1024) 0 0 1 cause

/-- The line leaves the L1; what the core wrote of it is lost. -/
def L1.lose (l : L1) (line : Nat) : L1 :=
  { l with lines := l.lines.filter (· != line), data := l.data.filter fun q => lineOf q.1 != line,
           dirty := l.dirty.filter fun k => lineOf k != line, whole := l.whole.filter fun k => lineOf k != line,
           bad := l.bad.filter fun k => lineOf k != line }

/-- The stacks in the order of the base dies that control them, two for each, from those that are left; stack 0 is base die 0's (22
R379), and the rest of the order is left open (00 R1, log 37). -/
def stackOrder : Nat → List Nat → List Nat
  | 0, _ => []
  | n + 1, l => let k := l.getD (Config.stackPick n % l.length) 0; k :: stackOrder n (l.erase k)

/-- The base die whose controllers serve the word at an HBM4 address: each die two stacks of 64 GiB (00 R1, R3, log 37). -/
def hbmDie (addr : Nat) : Nat := (0 :: stackOrder 7 [1, 2, 3, 4, 5, 6, 7]).idxOf (addr / 2 ^ 36) / 2

/-- The place of an error exists: one of the 384 cores with its 64 team slots, 16 workgroup contexts, 256 vector registers of 1,024
lanes, 128 scalar registers, 24 tiles of 16 KiB with their scale stores and 4 accumulators of 8,192 cells (00 R2, R3, 01 R15, R37),
a word of HBM4 or of a scratchpad. -/
def softErrPlace : SoftErr → Bool
  | .vreg core slot reg lane => decide (core < 384) && decide (slot < 64) && decide (reg < 256) && decide (lane < 1024)
  | .sreg core slot reg => decide (core < 384) && decide (slot < 64) && decide (reg < 128)
  | .tile core w n byte => decide (core < 384) && decide (w < 16) && decide (n < 24) && decide (byte < tileStore)
  | .acc core w acc cell => decide (core < 384) && decide (w < 16) && decide (acc < 4) && decide (cell < 8192)
  | .dirtyLine core _ | .penumbra core _ => decide (core < 384)
  | .mem addr => decide (addr < hbmBytes) || decide (4 * 2 ^ 52 ≤ addr) && decide (addr < 4 * 2 ^ 52 + 384 * 2 ^ 22)
  | .corrected die n => decide (die < 4) && decide (n < 6)
  | .icache cluster _ => decide (cluster < 96)

/-- The eight bytes of an aligned word become uncorrectable (19 R337, 22 R377). -/
def State.markBad (s : State) (addr : Nat) : State :=
  { s with memPoison := (List.range 8).foldl (fun l i => minsert (addr / 8 * 8 + i) l) s.memPoison }

/-- The effect of an error, by its place (22 R377): of a tile and its scale store the aligned 32-bit word; a corrected one is
counted; a line of an instruction cache, and a clean line of an L1, is fetched again. -/
def State.softError (s : State) (e : SoftErr) : State :=
  match e with
  | .vreg core slot reg lane => s.regError core slot fun t => { t with vpoison := sput false t.vpoison (reg * 1024 + lane) true }
  | .sreg core slot reg => s.regError core slot fun t => { t with spoison := sput false t.spoison reg true }
  | .tile core w n byte =>
    (s.modWg core w fun g => { g with tiles := smod Tile.empty g.tiles n fun t =>
      { t with poison := (List.range 4).foldl (fun l i => minsert (byte / 4 * 4 + i) l) t.poison } }).countUe (dieOf core) 1
  | .acc core w acc cell =>
    (s.modWg core w fun g => { g with accPoison := minsert (acc * 8192 + cell) g.accPoison }).countUe (dieOf core) 1
  | .mem addr =>
    (s.markBad addr).countUe (if addr < hbmBytes then hbmDie addr else dieOf (addr % 2 ^ 52 / 2 ^ 22))
      (if addr < hbmBytes then 5 else 2)
  | .dirtyLine core line =>
    let l1 := (s.core core).l1
    if !l1.lines.contains line then s
    else
      let s1 := (s.modCore core fun c => { c with l1 := c.l1.lose line }).countUe (dieOf core) 3
      if l1.dirty.any fun k => lineOf k == line then (s1.spoil line 64).lineCheck core 0x25 else s1
  | .penumbra core idx =>
    match (s.core core).pen[idx]? with
    | none => s
    | some q =>
      let s1 := ((s.core core).unresolved q.ids).foldl (fun s x => s.squashId core x) s
      ((s1.gcIds core).countUe (dieOf core) 3).machineCheck core 0 (s.wg core (s.team core q.slot).w).vi q.slot q.path 0 0 0 0x25
  | .corrected die n => s.countCe die n 1
  | .icache cluster line =>
    if (s.cluster cluster).icache.contains line then
      (s.modCluster cluster fun c => { c with icache := c.icache.filter (· != line) }).countCe (cluster / 24) 4 1
    else s

/-- SOFT_ERROR (19 R337). -/
def execSoftError (e : SoftErr) (s : State) : Res := .next (if softErrPlace e then s.softError e else s)

/-- What two records of one check share: VA, CORE, ECTX, SRC, KIND and CAUSE; a check of a line or of a posted write may stand under free
values of VI, SLOT and PATH (log 38). -/
def sameCheck (cause : Nat) (a b : List DWord) : Bool :=
  a.getD 0 0 == b.getD 0 0 &&
    (if cause = 0x24 ∨ cause = 0x25 then
      (let w := (a.getD 1 0).toNat; let v := (b.getD 1 0).toNat
       w % 2 ^ 19 == v % 2 ^ 19 && fld w 35 7 == fld v 35 7)
    else a.getD 1 0 == b.getD 1 0)

/-- The record of a check has been written, or waits for room in the ring. -/
def Die.recorded (d : Die) (cause : Nat) (ws : List DWord) : Bool :=
  (d.faultRing.map (·.2) ++ d.faultQ.map (·.words)).any fun w => sameCheck cause w ws

/-- The launch of a team ends with KIND 2, if it still has the slot (19 R339, R340). -/
def State.checkEnds (s : State) (p : MPlace) (cause : Nat) : State :=
  let t := s.team p.core p.slot
  let g := s.wg p.core t.w
  if t.life = .free then s
  else { s with
    fresh := s.fresh + 8,
    ends := s.ends ++ [⟨g.vi, g.replay, g.node, plainEnd s 2 (some cause) g.node (some (g.wg, g.lcore)) (some (p.slot, p.path))⟩] }

/-- MACHINE_CHECK (19 R338): a check writes a record, unless the operation that met it has (`logged`), and firmware of its die may
make it fatal: the launch it concerns ends (19 R339).  A double mismatch of a step counts toward the engine's retirement (22 R378).
-/
def execMachineCheck (p : MPlace) (cause va : Nat) (logged fatal : Bool) (s : State) : Res :=
  let vi := (s.wg p.core (s.team p.core p.slot).w).vi
  let ws := faultWords s va 0 vi p.core p.slot p.path p.ectx p.src p.kind cause 3
  let real := decide (p.core < 384) && decide (p.slot < 64) && decide (p.ectx < 8) && decide (0x20 ≤ cause) && decide (cause ≤ 0x25)
  if !real || logged && !(s.die (dieOf p.core)).recorded cause ws then .next s
  else
    let s1 := if logged then s else
      let s0 := s.machineCheck p.core va vi p.slot p.path p.ectx p.src p.kind cause
      if cause = 0x20 then (s0.modCore p.core fun c => c.machineCheck s.time3 (s.fwRuns (dieOf p.core))).modDie (dieOf p.core) fun d =>
        { d with mxmchk := sat32 (d.mxmchk + 1) }
      else s0
    .next (if fatal && s.fwRuns (dieOf p.core) then s1.checkEnds p cause else s1)

/-- POSTED_STORE_TIMEOUT (19 R338): a store not acknowledged within 100 µs counts as acknowledged; its bytes are unspecified.
The record of a write-back, which is of no team, is that of `lineCheck` but for its cause. -/
def execPostedStoreTimeout (core idx : Nat) (s : State) : Res :=
  let c := s.core core
  match c.posted[idx]? with
  | none => .next s
  | some q =>
    if s.time3 < q.since + 300000 then .next s
    else
      let s1 := (s.setCore core { c with posted := c.posted.eraseIdx idx }).spoil q.key q.bytes.length
      .next (if q.slot = linkSlot then s1.lineCheck core 0x24
        else s1.machineCheck core 0 (s.wg core (s.team core q.slot).w).vi q.slot (q.paths.headD 0) 0 0 1 0x24)

/-- PATROL_SCRUB (22 R377): the scrubber has read every word of the die's stacks; errors are counted, and uncorrectable words are
uncorrectable for every later read (19 R337). -/
def execPatrolScrub (die corrected : Nat) (uncorrected : List Nat) (s : State) : Res :=
  if die < 4 then
    .next ((uncorrected.filter fun a => decide (a < hbmBytes) && hbmDie a == die).foldl
      (fun s a => (s.markBad a).countUe die 5) (s.countCe die 5 corrected))
  else .next s

/-! ## Resets (22 R379, log 24) -/

/-- Every register at its reset value; memory keeps its bytes, and what stands on peers or is to occur is not changed. -/
def State.toReset (s : State) : State :=
  { State.reset with mem := s.mem, memPoison := s.memPoison, peerGroup := s.peerGroup, agenda := s.agenda, fresh := s.fresh }

/-- DEVICE_RESET (11 R257): the device leaves reset. -/
def execDeviceReset (s : State) : Res := .next s.toReset

/-- PF_RESET (22 R379): the reset of the physical function releases a held device; the dump region survives. -/
def execPfReset (s : State) : Res := .next s.toReset

/-- MODULE_POWER_LOSS (22 R379): the module loses power, and with it every byte of its own memories. -/
def execModulePowerLoss (s : State) : Res :=
  .next { s.toReset with mem := s.mem.filter fun q => q.1 / 2 ^ 52 != 0 && q.1 / 2 ^ 52 != 4, memPoison := [], powered := false }

/-! ## Measured boot and attestation (22 R381, R382) -/

/-- Base die 0 extends MEAS0 in die order, whatever the order of arrival. -/
def State.measArrivals (s : State) : Nat → State
  | 0 => s
  | fuel + 1 =>
    let d := (s.die s.measNext).digest
    if s.measNext < 4 ∧ d ≠ [] then ({ s.measExtend 0 d with measNext := s.measNext + 1 }).measArrivals fuel else s

/-- BOOT_VERIFY (22 R381): an image whose signature does not verify is not run, and the die stays in reset. -/
def execBootVerify (die : Nat) (image sig : List Byte) (s : State) : Res :=
  let digest := Config.shake256 image
  if Config.mldsaVerify digest sig && !(s.die die).booted && decide (die < 4) then
    .next ((s.modDie die fun d => { d with booted := true, fwver := Config.fwVersion image, digest := digest }).measArrivals 4)
  else .next s

/-- How often boot extends a measurement register: MEAS1 by the two training images, MEAS2 to MEAS4 by one block each (22 R381). -/
def bootSteps (n : Nat) : Nat := if n = 1 then 2 else if 2 ≤ n ∧ n ≤ 4 then 1 else 0

/-- The primary firmware measures an image or a block at boot, in the order of the register's steps: a training image into MEAS1,
the security, the power or the fabric block into MEAS2 to MEAS4; the fabric block is the route table and the 1588 configuration that
stand, and after a rewrite of the table, which is measured itself, boot's turn is over (22 R381, log 30). -/
def State.bootMeasure (s : State) (n : Nat) (block : List Byte) : State :=
  if s.fwRuns 0 && decide (sget 0 s.measSteps n < bootSteps n) then
    { s.measExtend n (Config.shake256 (if n = 4 then s.fabricBlock else block)) with
      measSteps := sput 0 s.measSteps n (sget 0 s.measSteps n + 1) }
  else s

/-- FIRMWARE_UPDATE (22 R381): an image with its signature, applied while the die runs; MEAS6 is extended before the image runs. 
One whose signature does not verify is not run. -/
def execFirmwareUpdate (die : Nat) (image : List Byte × List Byte) (s : State) : Res :=
  let digest := Config.shake256 image.1
  if decide (4 ≤ die) || !(s.die die).booted || !Config.mldsaVerify digest image.2 then .next s
  else .next ((s.measExtend 6 digest).modDie die fun d => { d with fwver := Config.fwVersion image.1 })

/-- The signed bytes of a report. -/
def State.reportBytes (s : State) : List Byte :=
  bytesOf 4 0x41545354 ++ bytesOf 4 1 ++ blockBytes s.attnonce ++ (List.range 16).map (fun i => Config.identity i) ++
    ((List.range 8).map fun n => s.measOf n).flatten ++ blockBytes ((List.range 4).map fun d => (s.die d).fwver) ++
    bytesOf 8 ((List.range 64).foldl (fun n v => if (s.vi v).victl.getLsbD 0 then n + 2 ^ v else n) 0) ++
    (List.range 1952).map fun i => Config.identity (16 + i)

/-- A signature of 3,309 bytes. -/
def signOf (bs : List Byte) : List Byte :=
  let q := Config.mldsaSign bs
  (List.range 3309).map fun i => q.2.getD i q.1

/-- ATTGO (22 R382): the driver writes 1, and firmware, where it runs, writes the report to host memory at ATTDST and clears ATTGO. -/
def execAttgo (s : State) : Res :=
  let bs := s.reportBytes
  .next (if s.fwRuns 0 then { s with attgo := false }.mput (hostKey s.attdst.toNat) (bs ++ signOf bs) else { s with attgo := true })

end Sys2Proof.Machine
end

