-- ==== Sys2Proof/Machine/Links.lean ====
section
/-!
DEFINITION. What arrives over the links: host writes, peer accesses, link and port states, and the lines of the instruction cache
(21 R356, R361 to R363, R367, 12 R279, R280, 11 R256).
-/

namespace Sys2Proof.Machine

open Sys2Proof

/-- LINK_TRAINING (21 R356): a partner that requires an unsupported feature fails training on that link alone. -/
def execLinkTraining (link : Nat) (needsUnsupported : Bool) (s : State) : Res :=
  .next (if 2 ≤ link then s
    else { s with links := if needsUnsupported then s.links.filter (· != link) else minsert link s.links })

/-- HOST_MEM_WRITE (12 R279): a host write to device memory is performed in HBM4 and bypasses every L1; the host also writes its
own memory. Keys of other memories, and of HBM4 that does not exist (00 R3), are not the host's. -/
def execHostMemWrite (addr : Nat) (bytes : List Byte) (s : State) : Res :=
  let inside := fun (lo hi : Nat) => decide (lo ≤ addr) && decide (addr + bytes.length ≤ hi)
  if inside 0 hbmBytes || inside (2 ^ 52) (2 * 2 ^ 52) || decide (8 * 2 ^ 52 ≤ addr) then .next (s.mput addr bytes) else .next s

/-- FLIT_CRC_REPLAY (21 R362): the link layer sends a flit again; nothing else changes. -/
def execFlitCrcReplay (_port : Nat) (s : State) : Res := .next s

/-- A port goes down, or comes up again (21 R363). -/
def State.portState (s : State) (port : Nat) (down : Bool) : State :=
  if 18 ≤ port then s
  else if !down then { s with portDown := sput 0 s.portDown port 0 }
  else if sget 0 s.portDown port = 0 then { s with portDown := sput 0 s.portDown port (s.time3 + 1) }
  else s

/-- A port has stayed down for 1 ms. -/
def State.portStaysDown (s : State) (port : Nat) : Bool :=
  sget 0 s.portDown port != 0 && decide (sget 0 s.portDown port + 3000000 ≤ s.time3 + 1)

/-- PORT_DOWN_REMOVAL (21 R363): a port that has stayed down for 1 ms leaves every route entry; a destination left with no port is
lost. -/
def execPortDownRemoval (port : Nat) (s : State) : Res :=
  let clear := fun (m : Nat) => if tbit m port then m - 2 ^ port else m
  if 18 ≤ port || !s.portStaysDown port || !s.fwRuns 0 then .next s
  else .next { s with
    route := (s.route.map fun q => (q.1, clear q.2)).filter fun q => q.2 != 0,
    lost := (s.route.filter fun q => tbit q.2 port && clear q.2 == 0).foldl (fun l q => minsert q.1 l) s.lost,
    ports := minsert port s.ports }

/-- PTP_LOCK (21 R367): firmware reports whether its offset is within bound. -/
def execPtpLock (inBound : Bool) (s : State) : Res := .next (if s.fwRuns 0 then { s with ptp := inBound } else s)

/-- The lines of a cluster's instruction cache: 256 KiB (00 R3). -/
def icacheLines : Nat := 4096

/-- INSTRUCTION_CACHE_LINE_ARRIVAL (11 R256): a line that was asked for arrives; in a full cache it takes the place of a line that the
spec does not name, a free choice (log 42). -/
def execInstructionCacheLineArrival (cluster line : Nat) (s : State) : Res :=
  let c := s.cluster cluster
  if c.icmiss.contains line then
    let q := s.takeFree
    let full := decide (icacheLines ≤ c.icache.length)
    let kept := if full then c.icache.eraseIdx (q.1.toNat % c.icache.length) else c.icache
    .next ((if full then q.2 else s).setCluster cluster
      { c with icmiss := c.icmiss.filter (· != line), icache := minsert line kept })
  else .next s

/-- PEER_ACCESS_ARRIVAL (21 R363, 12 R280): an access of a peer is performed in this device's HBM4; no L1 holds it. -/
def execPeerAccessArrival (a : PeerAcc) (s : State) : Res :=
  let inside := fun (addr n : Nat) => decide (addr + n ≤ hbmBytes)
  match a with
  | .load .. => .next s
  | .store addr bytes => if inside addr bytes.length then .next (s.mput (pKey 0 addr) bytes) else .next s
  | .ratom op ty addr data exp =>
    if inside addr ty.bytes then
      .next (s.mput (pKey 0 addr) (bytesOf ty.bytes (atomNew op ty (s.mnat (pKey 0 addr) ty.bytes) data.toNat exp.toNat)))
    else .next s

/-- POOL_WINDOW_DOWN (21 R361): later accesses to the window fault with cause 0x05. -/
def execPoolWindowDown (vi n : Nat) (s : State) : Res :=
  .next (s.modVi vi fun v => { v with poolDown := minsert n v.poolDown })

end Sys2Proof.Machine
end

