-- ==== Sys2Proof/Machine/Issue.lean ====
section
/-!
DEFINITION. Issue: what a path does next (fetch, decode, the scoreboard, waits, traps that are due), the issue cycle of a core
(11 R250 to R260, 20 R345), and the choices that the spec leaves to hardware and firmware (log 4).
The meaning of an instruction comes in as a parameter `ex`, so that this file stands before the step.
-/

namespace Sys2Proof.Machine

open Sys2Proof

/-! ## Registers of an instruction (04 R87, 11 R253) -/

/-- The registers that a field names. -/
def kindNames (ty : Ty) (a f : Nat) : OpKind → List RegName
  | .v n => (List.range n).map fun i => .v (f + i)
  | .vz => if ty.bytes = 8 then [.v f, .v (f + 1)] else [.v f]
  | .s n => (List.range n).map fun i => .s (f + i)
  | .creg => if f < 0x40 then [.c f] else []
  | .d => [.s (2 * f), .s (2 * f + 1)]
  | .p => if f = 7 then [] else [.p f]
  | .g => [.g f]
  | .idx => if a / 128 = 1 then [.v f] else []
  | .pbase => [.s (2 * (f % 64)), .s (2 * (f % 64) + 1)]
  | .sbase => [.s (f % 128)]
  | .opt => if 128 ≤ f then [.s (f - 128)] else []
  | .q4 => if ty = .q4n then [.s f] else []
  | _ => []

/-- A source field, unless the literal replaces it. -/
def srcNames (x : Args) (ty : Ty) (k : OpKind) (sel : LSel) (f : Nat) : List RegName :=
  if x.lit.map (·.sel) = some sel then [] else kindNames ty x.a f k

def guardNames (g : Guard) : List RegName := if g.sel = 7 then [] else [.p g.sel]

/-- A source of a prism test by BKIND: vector register or scalar register (04 R99). -/
def testNames (t : PTest) : List RegName :=
  RegName.v t.a :: (if t.bkind = 0 then [.v t.b] else if t.bkind = 1 then [.s t.b] else [])

def arcNames (r : PArc) : List RegName :=
  (if r.op = .pset ∨ r.op = .pclr then [RegName.p r.dst] else [.v r.dst]) ++
  (if r.op.sources = 0 then [] else [.v r.a]) ++ (if r.op.sources < 2 || r.lf then [] else [.v r.b])

def subNames (x : SubOp) : List RegName :=
  let src := fun (k : Bool) (f : Nat) => if k then RegName.s f else .v f
  [if x.op = .cmp then .p x.d else .v x.d, src x.ka x.a] ++ (if x.op.sources < 2 then [] else [src x.kb x.b]) ++
  (if x.op.sources < 3 then [] else [src x.kc x.c])

/-- The control registers that an instruction reads or updates without naming them: `%ff` and `%fmode`, `%sparse.drop` and its count,
`%amax`, `%tf`, `%sparse.thr` (03 R69 to R77). -/
def instrCregs (i : Instr) : List Nat :=
  match i with
  | .amaxrd _ => [0x13]
  | .aq _ => [0x11, 0x13]
  | .mma _ | .mmaa _ => [0x11, 0x14]
  | .vdrop _ => [0x10, 0x12, 0x15, 0x16]
  | .prism _ | .wPair _ _ => [0x10, 0x12]
  | .vcvt _ | .vpack _ | .vunpack _ | .vqscale _ | .vqenc _ | .vqdec _ => [0x10, 0x12]
  | _ => match i.view with
    | .s maj _ x _ => if 0x30 ≤ maj ∧ maj < 0x70 ∧ x.ty.isFloat = true then [0x10, 0x12] else []
    | _ => []

/-- Instructions whose virtual addresses a translation register may map (06 R139, R140). -/
def instrMapped (i : Instr) : Bool :=
  match i with
  | .ld _ | .st _ | .pref _ | .atom .. | .ratom .. | .eacq _ | .erel _ | .fcrec _ | .spres _ => true
  | _ => false

/-- SRCC of `vpack` to a 16-bit type is no operand (07 R155). -/
def unusedC (i : Instr) : Bool :=
  match i with
  | .vpack x => x.ty.bits == 16
  | _ => false

/-- Every register that an instruction reads or writes. -/
def instrNames (i : Instr) : List RegName :=
  (instrCregs i).map RegName.c ++ (if instrMapped i then (List.range 8).map RegName.x else []) ++
  match i.view with
  | .s maj _ x f =>
    let ty := q4Ty i x
    (if maj = 0x2A then [.x x.d] else []) ++ guardNames x.guard ++ kindNames ty x.a x.d f.d ++ srcNames x ty f.a .a x.a ++
      srcNames x ty f.b .b x.b ++ (if unusedC i then [] else srcNames x ty f.c .c x.c)
  | .ctl _ x =>
    match i with
    | .brc _ => if x.aux / 2 = 0 then [.p x.opnd] else [.g x.opnd]
    | .brv _ | .brx _ | .call _ | .ret _ => [.v x.opnd]
    | .loop _ => [.s x.opnd]
    | _ => guardNames x.guard
  | .prism x =>
    guardNames x.guard ++ (((List.range 7).filter x.has).map fun n => testNames (x.tests.getD n PTest.zero)).flatten ++
      ((x.arcs.take x.arcn).map arcNames).flatten
  | .pair x y => subNames x ++ subNames y
  | .event => []

/-- The registers that an instruction writes; `vpush` writes the predicate of SRCC too (07 R163), `sxlat` a translation register. -/
def instrDests (i : Instr) : List RegName :=
  match i.view with
  | .s maj _ x f =>
    if maj = 0x71 ∨ maj = 0x73 then []
    else if maj = 0x2A then [.x x.d]
    else kindNames x.ty x.a x.d f.d ++ (if maj = 0x6A then kindNames x.ty x.a x.c .p else [])
  | .ctl _ x => match i with
    | .call _ => [.v x.opnd]
    | .loop _ => [.s x.opnd]
    | _ => []
  | .prism x => ((x.arcs.take x.arcn).map fun r => if r.op = .pset ∨ r.op = .pclr then RegName.p r.dst else .v r.dst)
  | .pair x y => [if x.op = .cmp then .p x.d else .v x.d, if y.op = .cmp then .p y.d else .v y.d]
  | .event => []

/-- The registers of a destination whose data have not returned. -/
def Pend.names (d : Pend) : List RegName := if d.wide then [.v d.dst, .v (d.dst + 1)] else [.v d.dst]

/-- Why an instruction that names these registers has to wait (11 R253). -/
def Path.hazard (p : Path) (cycle : Nat) (ns : List RegName) : Option Nat :=
  (p.pend.findSome? fun d => if d.names.any fun r => ns.contains r then some d.reason else none) <|>
  (p.busy.findSome? fun b => if decide (cycle < b.until_) && ns.contains b.reg then some b.reason else none)

/-- Why a path that is switched away has to wait: a destination of its lookahead instructions is not written (11 R255). -/
def Path.outstanding (p : Path) (cycle : Nat) : Option Nat := p.hazard cycle (p.ahead.map RegName.v)

/-- Instructions before which a lookahead window closes: the control and tree group (04 R91), but for the prism and the padding `nop`,
which R91 names as instructions that a window counts (log 40). -/
def instrClosesWindow (i : Instr) : Bool :=
  match i.view with
  | .ctl maj _ => maj != 0x0B
  | _ => false

/-- A path has to wait on a named synchronisation at an instruction which it is about to issue, and which acts before it waits: a
window closes before it (04 R91). -/
def State.syncWaits (s : State) (h : Here) (i : Instr) : Bool :=
  h.p.wait.tries && (match i with
  | .nbsync x =>
    let s1 := s.nbArrive h.r.core h.t.w x.a (h.execLanes x.guard).length (h.ssrc x .b x.b).toNat
    ((s1.wg h.r.core h.t.w).bar x.a).phase == (h.g.bar x.a).phase
  | .tbar _ => true
  | _ => false)

/-- Instructions that act and then wait, or split their path: a trap that waits in a window is delivered before them (11 R242; of a
split only one path could take it, log 48). -/
def instrStays (i : Instr) : Bool :=
  match i with
  | .nbsync _ | .tbar _ | .spres _ | .spjoin _ | .prism _ => true
  | _ => false

/-! ## What a path does next -/

/-- The stall reason that a wait carries (01 R43, 11 R253, R345). -/
def Wait.reason : Wait → Nat
  | .none => 0
  | .retry n | .pause n => n
  | .join .. => 7
  | .barrier .. | .tree .. => 6
  | .timeline .. => 5
  | .matrix _ => 4
  | .spres _ | .compare _ | .compareFail .. | .commit .. | .held _ | .heldDone _ => 13
  | .parked | .trap => 12

/-- The answer of `prepare`: the path cannot issue and waits under a reason; or it does something other than issue an instruction
(a trap is delivered, a merge, a parked access that resumes); or it is at an instruction of a length that may issue. -/
inductive Prep where
  | no (reason : Nat) (s : State)
  | act (reason : Nat) (s : State)
  | run (i : Instr) (len : Nat) (s : State)
deriving DecidableEq, Repr

/-- The counts that decode judges operands by (04 R87). -/
def Here.limits (h : Here) : Limits := ⟨h.t.vcount, h.t.scount, h.g.tileN, h.g.accN⟩

/-- The 64-bit words of an instruction from a physical key on: as many as its form has (04 R83). -/
def State.wordsAt (s : State) (k : Nat) : List Nat :=
  let w0 := s.mnat k 8
  w0 :: (List.range (formLen w0 / 8 - 1)).map fun i => s.mnat (k + 8 * (i + 1)) 8

/-- The comparator that matches an instruction address (20 R351). -/
def State.breakHit (s : State) (core vi : Nat) (va : DWord) : Option Nat :=
  let c := s.core core
  (List.range 8).find? fun i =>
    let w := (sget 0 c.bp i).toNat
    tbit w 63 && fld w 57 6 == vi && w % 2 ^ 57 == va.toNat

/-- The trap of a decode check (05 R112). -/
def decCause : DecTrap → Nat
  | .opcode => tcIllegalOpcode
  | .encoding => tcIllegalEncoding
  | .pair => tcIllegalPair

/-- Before an instruction issues: a window closes at it, a trap that waited in the window is delivered, the scoreboard holds it
back (04 R91, 11 R242, R253, R255). -/
def settle (s : State) (r : PathRef) (i : Instr) (len : Nat) : Prep :=
  let p := s.path r
  let cycle := (s.core r.core).cycle
  let closes := decide (p.window = 0) || (instrClosesWindow i) || s.syncWaits (s.hereAt r) i
  match p.hazard cycle (instrNames i) with
  | some n => if p.pendTrap.isSome then .act 12 (s.deliverPending r) else .no n (s.waitFor r n)
  | none =>
    if p.pendTrap.isSome && (closes || instrStays i) then .act 12 (s.deliverPending r)
    else
      match if p.away && closes then p.outstanding cycle else none with
      | some n => .no n (s.waitFor r n)
      | none =>
        .run i len (if closes && (p.away || p.window != 0) then s.modPath r fun p => { p with window := 0, away := false, ahead := [] }
                    else s)

/-- The cluster's instruction cache: a miss asks for the line, counts one slip, and freezes the path (11 R256).  `key` is where
the instruction stands; a line with an uncorrectable word is logged (19 R338). -/
def State.icMiss (s : State) (r : PathRef) (vi key : Nat) : Option State :=
  let a := icKey vi (s.path r).pc.toNat
  let k := clusterOf r.core
  let c := s.cluster k
  if c.icache.contains a then none
  else
    let frozen := (s.path r).wait == .retry 9
    let s1 := s.setCluster k { c with icmiss := minsert a c.icmiss, slip := if frozen then c.slip else sat32 (c.slip + 1) }
    let s2 := if !frozen && s.mbad (lineOf key) 64 then s1.logRead (s.hereAt r) 3 0 (key / 2 ^ 52) (s.path r).pc.toNat else s1
    some (s2.waitFor r 9)

/-- The instruction at which a path waits has issued: it is not stopped before it issues a second time (20 R351). -/
def Wait.issued : Wait → Bool
  | .none | .retry _ => false
  | _ => true

/-- Fetch and decode at a path's program counter (TLANE of a decode trap: the lowest active lane, log 36): translation with SRC 3
(19 R330), instruction cache, breakpoints before decode (20 R351), decode (05 R112). -/
def fetch (s : State) (r : PathRef) : Prep :=
  let h := s.hereAt r
  let pc := h.p.pc
  let low := leastOf h.p.mask
  match s.translate r.core h.g.vi { h.t with xt := [] } pc.toNat false with
  | .bad true cause base psz =>
    if !s.faultRoom r.core 1 then .no 12 (s.waitFor r 12)
    else .act 12 ((s.postFaults h 3 0 0 [(pc.toNat, cause, base, psz)]).trapHere r 8 tcMemFatal pc.toNat low)
  | .bad false cause base psz =>
    if !s.faultRoom r.core 1 then .no 12 (s.waitFor r 12)
    else .act 12 (s.park h 3 0 [(pc.toNat, cause, base, psz)] (h.allLanes pc.toNat) .again pc (pc + 8))
  | .ok tgt pa w base size =>
    let s1 := s.tlbKeep r.core h.g.vi pc.toNat (.ok tgt pa w base size)
    match s1.icMiss r h.g.vi (pKey tgt pa) with
    | some s2 => .no 9 s2
    | none =>
      let ws := s1.wordsAt (pKey tgt pa)
      let len := formLen (ws.getD 0 0)
      match if h.p.skipCmp || h.p.wait.issued then none else s1.breakHit r.core h.g.vi pc with
      | some n =>
        if h.p.pendTrap.isSome then .act 12 (s1.deliverPending r)
        else .act (if (s1.core r.core).dbgen.getLsbD h.g.vi then 14 else 12)
          (s1.takeTrap r 1 n ⟨tcBreak, BitVec.ofNat 64 n, low, pc, pc + BitVec.ofNat 64 len, 0⟩)
      | none =>
        match decode h.limits pc.toNat ws with
        | .error e => .act 12 (s1.trapHere r len (decCause e) 0 low)
        | .ok (i, len) => settle s1 r i len

/-- The state of an outcome that goes on. -/
def nextOr (o : Res) (s : State) : State :=
  match o with
  | .next t => t
  | _ => s

/-- A parked access resumes; otherwise the path's instruction, which in one that it has issued and waits in needs no line again
(11 R256). -/
def fetchOr (s : State) (r : PathRef) : Prep :=
  let p := s.path r
  if p.parked.isSome then .act 12 (nextOr (s.resumeParked r false) s)
  else match if p.wait.fresh then none else p.code with
    | some q => settle s r q.1 q.2
    | none => fetch s r

/-- What a path does next. -/
def prepare (s : State) (r : PathRef) : Prep :=
  let t := s.team r.core r.slot
  let p := t.path r.path
  if t.life ≠ .running ∨ p.mask = [] ∨ p.onChip = false then .no 15 s
  else if p.eclipse.isSome then .no 14 s
  else
    match p.wait with
    | .parked | .trap => .no 12 s
    | .join tok inst => if t.joinReady tok inst then .act 7 (s.tryMerge r.core r.slot tok inst) else .no 7 s
    | .matrix _ => .no 4 s
    | .pause n => .act n (s.modPath r fun p => { p with wait := .none })
    | .commit .. => .no (s.commitReason r.core r.slot) s
    | .compare fs => if s.compareStuck r fs then .no 12 s else fetchOr s r
    | .held ids =>
      match (s.core r.core).heldVerdict ids with
      | some b => .act 13 (s.modPath r fun p => { p with wait := .heldDone b })
      | none => .no 13 s
    | _ => fetchOr s r

/-- The path waits in an instruction that it has issued: it keeps it. -/
def State.keepCode (s : State) (r : PathRef) (i : Instr) (len : Nat) : State :=
  if (s.path r).live && !(s.path r).wait.fresh then s.modPath r fun p => { p with code := some (i, len) } else s

/-- An attempt left its path waiting: for something that is tried again, held before it issues (10 R233), or where it already stood. -/
def stalled (old new : Wait) : Bool :=
  match new with
  | .retry _ | .held _ => true
  | .none => false
  | w => w == old

/-! ## Units, passes, debits (11 R250 to R252, R258) -/

/-- The units of 11 R250; `both` takes the two FMA pipes. -/
inductive IssueUnit where
  | fma | both | scalar | mem | port
deriving DecidableEq, Repr

def instrUnit (i : Instr) : IssueUnit :=
  match i.view with
  | .s maj .. => if maj < 0x30 then .scalar else if maj < 0x70 then .fma else if maj < 0x90 then .mem else .port
  | .prism _ => .fma
  | .pair .. => .both
  | _ => .scalar

/-- A W-pair or prism takes both issue slots. -/
def instrWide (i : Instr) : Bool :=
  match i.view with
  | .prism _ | .pair .. => true
  | _ => false

def instrSpecial (i : Instr) : Bool :=
  match i.view with
  | .s maj .. => 0x50 ≤ maj && maj ≤ 0x58
  | _ => false

/-- A memory-pipe instruction with lanes takes a guard. -/
def instrWithLanes (i : Instr) : Bool :=
  match i.view with
  | .s _ _ _ f => f.guard
  | _ => true

/-- The debit of an issue (11 R258). `steps` is the occupancy of a step it queued.  DESIGN CHOICE (log 49): `amaxrd`, which touches no
lane (07 R160), makes one pass. -/
def instrDebit (i : Instr) (passes steps : Nat) : Nat :=
  match i.view with
  | .s maj .. =>
    if maj < 0x30 then 1
    else if maj = 0x66 then 2
    else if 0x50 ≤ maj ∧ maj ≤ 0x58 then 4 * passes
    else if maj < 0x70 then 2 * passes
    else if maj < 0x90 then (if (instrWithLanes i) then 2 * passes else 1)
    else if maj = 0x94 ∨ maj = 0x95 then 4 * steps
    else if maj < 0xC0 then 8
    else 1
  | .prism _ => 2 * passes
  | .pair .. => 4 * passes
  | _ => 1

/-- Cycles from issue to the write of the destination, and the reason a reader waits under (11 R252, R253); scratchpad data, `aread`
and the limit accumulator's results have their own times (`dueOf`). -/
def instrLatency (i : Instr) (passes width : Nat) : Nat × Nat :=
  match i.view with
  | .s maj sub _ _ =>
    if maj = 0x7B then (2, 2)
    else if maj = 0xB4 then (16, 3)
    else if maj < 0x30 ∨ maj = 0x66 ∨ maj = 0x7D ∨ maj = 0x82 ∨ maj = 0x93 ∨ maj = 0xA2 ∨ maj = 0xBA ∨
      maj = 0xBE ∨ 0xC0 ≤ maj then (2, 1)
    else if (instrSpecial i) then (4 * (passes - 1) + 16, 1)
    else if (maj = 0x6C ∨ maj = 0x6D ∨ maj = 0x6E) ∧ 32 ≤ sub then (passes - 1 + 4 + 2 * (width / 32), 1)
    else (passes - 1 + 4, 1)
  | .ctl .. => (2, 1)
  | _ => (passes - 1 + 4, 1)

/-- Cycles in which an instruction keeps its unit (11 R251): one for each pass, four for a special function's, one for `amaxrd`, which
touches no lane (07 R160). -/
def instrBusy (i : Instr) (passes : Nat) : Nat :=
  match i.view with
  | .s maj .. => if maj = 0x66 then 1 else if instrSpecial i then 4 * passes else passes
  | _ => passes

/-! ## The wheel of the scratchpad's banks (08 R170) -/

/-- Cycle c of bank b belongs to the vector lanes: slots 0 to 3 of eight. -/
def vectorSlot (bank cycle : Nat) : Bool := (cycle + bank) % 8 < 4

/-- The vector slots that a pass issued in a cycle may use in a bank, and that no earlier pass has claimed. -/
def freeSlots (claims : List (Nat × Nat)) (cycle bank : Nat) : List (Nat × Nat) :=
  (((List.range 8).map (· + cycle + 1)).filter fun c => vectorSlot bank c && !claims.contains (bank, c)).map fun c => (bank, c)

/-- The claims of a pass with these granules, if every bank it names has the slots. -/
def claimPass (claims : List (Nat × Nat)) (cycle : Nat) (granules : List Nat) : Option (List (Nat × Nat)) :=
  granules.foldl (fun acc g => acc.bind fun l => (freeSlots l cycle (g % 32)).head?.map fun q => q :: l) (some claims)

/-- The first cycle from one on at which a pass can claim its slots: within eight cycles every earlier claim lies behind. -/
def passCycle (claims : List (Nat × Nat)) (granules : List Nat) : Nat → Nat → Nat × List (Nat × Nat)
  | 0, cycle => (cycle, claims)
  | fuel + 1, cycle =>
    match claimPass claims cycle granules with
    | some l => (cycle, l)
    | none => passCycle claims granules fuel (cycle + 1)

/-- The cycles in which the passes of an instruction issue from a cycle on, and the claims after them. -/
def passCycles : List (List Nat × List Nat) → List (Nat × Nat) → Nat → List (List Nat × Nat) × List (Nat × Nat)
  | [], claims, _ => ([], claims)
  | q :: l, claims, cycle =>
    let a := passCycle claims q.2 9 cycle
    let r := passCycles l a.2 (a.1 + 1)
    ((q.1, a.1) :: r.1, r.2)

/-- The first pass of a memory instruction has to wait before issue, under reason 3. -/
def CoreSt.banksWait (c : CoreSt) (parts : List (List Nat × List Nat)) : Bool :=
  match parts with
  | [] => false
  | q :: _ => (claimPass c.claims c.cycle q.2).isNone

/-- The cycles at which lanes of a destination are written (11 R252): `aread` 8 cycles after issue, the limit accumulator's results 16,
lanes on the core's own slice 12 cycles after their pass. -/
def dueOf (i : Instr) (cycle : Nat) (sched : List (List Nat × Nat)) (d : Pend) : List (Nat × Nat) :=
  match i.view with
  | .s maj .. =>
    if maj = 0x98 then d.vals.map fun q => (q.1, cycle + 8)
    else if maj = 0xB3 ∨ maj = 0xB4 ∨ maj = 0xB5 then d.vals.map fun q => (q.1, cycle + 16)
    else (sched.map fun q => q.1.map fun l => (l, q.2 + 12)).flatten
  | _ => []

/-! ## The issue cycle -/

/-- A path that is ready in a cycle, with what 11 R250 to R259 ask about its next instruction; `trap` says that the instruction ends in
a trap detected at issue, which takes no slot (11 R240). -/
structure Cand where
  r : PathRef
  i : Instr
  passes : Nat
  debit : Nat
  cls : Nat
  admitNo : Nat
  yielded : Nat
  forced : Bool
  readyFor : Nat
deriving DecidableEq, Repr

/-- What the paths of a core were found to do in a cycle: the state, the ready ones, the reasons of the others. -/
structure Poll where
  s : State
  ready : List Cand
  why : List (PathRef × Nat)
deriving Repr

/-- The paths of a core that hold an on-chip entry, by slot and index. -/
def State.corePaths (s : State) (core : Nat) : List PathRef :=
  ((s.slotsOf core).map fun k => ((s.team core k).livePaths.filter fun i => ((s.team core k).path i).onChip).map
    fun i => (⟨core, k, i⟩ : PathRef)).flatten

/-- Passes of an instruction: the ranks of the active mask, or more where a memory instruction is split (01 R14, 08 R170). -/
def passCount (s s1 : State) (r : PathRef) : Nat :=
  max (ranks (s.path r).mask).length ((s1.team r.core r.slot).passes - (s.team r.core r.slot).passes)

/-- An attempt ended in a trap detected at decode or issue: nothing was counted, and the path is in a handler, ended or stopped
(11 R240). -/
def trapped (s s1 : State) (r : PathRef) : Bool :=
  let p := s.path r
  let q := s1.path r
  (s1.team r.core r.slot).issued == (s.team r.core r.slot).issued &&
    (q.wait == .trap || q.eclipse.isSome || q.inh && !p.inh)

/-- A wait in an instruction that had issued is over: the path may go on in the same cycle (08 R187). -/
def waitOver (old : Wait) (p : Path) : Bool := !old.tries && p.live && p.wait == .none && p.eclipse.isNone

/-- Look at one path: perform what it does without issuing, and find out whether its next instruction could issue.  A wait that is over
lets the next instruction be looked at in the same cycle (08 R187). -/
def pollPath (ex : Instr → State → Res) : Nat → Poll → PathRef → Poll
  | 0, q, _ => q
  | fuel + 1, q, r =>
    match prepare q.s r with
    | .no n s | .act n s => { q with s := s, why := q.why ++ [(r, n)] }
    | .run i _ s0 =>
      let s := s0.modCore r.core fun c => { c with banks := [] }
      match ex i { s with cur := r } with
      | .next s1 =>
        let old := (s.path r).wait
        let new := (s1.path r).wait
        if stalled old new then { q with s := s1, why := q.why ++ [(r, new.reason)] }
        else if !old.tries then
          if waitOver old (s1.path r) && decide (0 < fuel) then pollPath ex fuel { q with s := s1 } r
          else { q with s := s1, why := q.why ++ [(r, old.reason)] }
        else if (s.core r.core).banksWait (s1.core r.core).banks then { q with s := s.stallFor r 3, why := q.why ++ [(r, 3)] }
        else
          let t := s.team r.core r.slot
          let p := s.path r
          let n := if (instrUnit i) = .both then (ranks p.mask).length else passCount s s1 r
          let steps := match (s1.core r.core).mqueue.getLast? with
            | some m => m.cycles
            | none => 0
          { q with s := s, ready := q.ready ++ [⟨r, i, n, instrDebit i n steps, (s.wg r.core t.w).cls, t.admitNo, p.yielded,
                                                 p.forced || decide (3840 ≤ p.lostFor), p.readyFor⟩] }
      | _ => q

/-- RSV(c) (18 R324). -/
def Cluster.rsv (c : Cluster) (cls : Nat) : Nat :=
  if cls = 1 then c.parsv1 else if cls = 2 then c.parsv2 else if cls = 3 then c.parsv3 else 0

/-- The pipes that a unit stands for: a W-pair takes those of the FMA unit. -/
def IssueUnit.pipe : IssueUnit → IssueUnit
  | .both => .fma
  | u => u

/-- Cycles for which a candidate may keep its unit: each pass of a memory instruction waits up to eight for its slots (08 R170). -/
def Cand.span (q : Cand) : Nat := if instrUnit q.i = .mem then 9 * q.passes else instrBusy q.i q.passes

/-- Cycles for which a unit is still taken. -/
def CoreSt.busyFor (c : CoreSt) (u : IssueUnit) : Nat :=
  match u with
  | .fma => min c.fma0 c.fma1 - c.cycle
  | .both => max c.fma0 c.fma1 - c.cycle
  | .mem => c.memPipe - c.cycle
  | .scalar => c.scalPipe - c.cycle
  | .port => c.engPort - c.cycle

/-- A ready path has to be served now, whatever its class and age, for the bound of 01 R43: of its 4,096 cycles no more are left than its
unit is taken for, than one that is chosen before it may keep that unit, than those that have been ready for as long and need it may, and
two for each of these (log 3). -/
def Cand.urgent (c : CoreSt) (l : List Cand) (q : Cand) : Bool :=
  let u := (instrUnit q.i).pipe
  let rivals := l.filter fun k => k.r != q.r && (instrUnit k.i).pipe == u
  let older := l.filter fun k => decide (q.readyFor ≤ k.readyFor)
  let load := (rivals.filter fun k => decide (q.readyFor ≤ k.readyFor)).foldl
    (fun n k => n + if instrUnit k.i = .both then 2 * k.span else k.span) 0
  4096 ≤ q.readyFor + c.busyFor (instrUnit q.i) + (rivals.map Cand.span).foldl max 0 + (if u = .fma then (load + 1) / 2 else load) +
    2 * older.length

/-- The allowance does not withhold a candidate (11 R258, R259), nor one that the bound calls for (01 R43). -/
def State.affords (s : State) (q : Cand) : Bool :=
  let c := s.cluster (clusterOf q.r.core)
  q.forced || decide (((q.debit + c.rsv q.cls) * 16 : Nat) ≤ c.allow)

/-- The unit of a candidate is free (11 R250, R251); `used` are the units that missing slots would have taken. -/
def CoreSt.unitFree (c : CoreSt) (used : List IssueUnit) (u : IssueUnit) : Bool :=
  let busy := fun (n : Nat) => decide (c.cycle < n)
  let fmas := (used.filter (· == .fma)).length
  match u with
  | .fma => !(used.contains .both) && (busy c.fma0).toNat + (busy c.fma1).toNat + fmas < 2
  | .both => !(busy c.fma0) && !(busy c.fma1) && fmas == 0
  | .mem => !(busy c.memPipe) && !(used.contains .mem)
  | .scalar => !(busy c.scalPipe) && !(used.contains .scalar)
  | .port => !(busy c.engPort) && !(used.contains .port)

/-- An older or preferred candidate: those that yielded rank youngest (06 R131), then team admission, then path index, also among
several that have yielded (log 49). -/
def Cand.before (a b : Cand) : Bool :=
  if (a.yielded != 0) ≠ (b.yielded != 0) then a.yielded == 0
  else if a.admitNo ≠ b.admitNo then a.admitNo < b.admitNo
  else a.r.path < b.r.path

/-- The first of a list by an order. -/
def firstBy (lt : Cand → Cand → Bool) : List Cand → Option Cand
  | [] => none
  | q :: l => some (l.foldl (fun b k => if lt k b then k else b) q)

/-- The choice for a slot among the ready paths, whether or not their units are free and the allowance suffices (01 R43): a path that
the bound calls for, else by class, then the slot's current path, then the oldest that is not current on the other slot (11 R254). -/
def pickFor (c : CoreSt) (cur other : Option (Nat × Nat)) (l : List Cand) : Option Cand :=
  let at_ := fun (q : Cand) => some (q.r.slot, q.r.path)
  let l1 := l.filter fun q => at_ q != other && q.yielded != 2
  match firstBy (fun a b => b.readyFor < a.readyFor) (l1.filter (Cand.urgent c l)) with
  | some q => some q
  | none =>
    let best := leastOf (l1.map (·.cls))
    let top := l1.filter fun q => q.cls == best
    (top.find? fun q => at_ q == cur && q.yielded == 0) <|> firstBy Cand.before top

/-- Account for an issue: the units, the allowance, the scoreboard, the passes to run. `old` is how many data were on their way to the
path before, `before` how many passes its team had counted. -/
def account (s : State) (q : Cand) (old before : Nat) (halved : Bool) : State :=
  let p := s.path q.r
  let t := s.team q.r.core q.r.slot
  let c := s.core q.r.core
  let unit := instrUnit q.i
  let until_ := c.cycle + instrBusy q.i q.passes
  let sched := passCycles c.banks c.claims c.cycle
  let memEnd := match sched.1.getLast? with
    | some k => k.2 + 1
    | none => if instrWithLanes q.i then until_ else c.cycle + 1
  let c1 : CoreSt := { c with
    fma0 := if unit = .both ∨ (unit = .fma ∧ c.fma0 ≤ c.cycle) then until_ else c.fma0,
    fma1 := if unit = .both ∨ (unit = .fma ∧ c.cycle < c.fma0) then until_ else c.fma1,
    memPipe := if unit = .mem then memEnd else c.memPipe,
    scalPipe := if unit = .scalar then c.cycle + 1 else c.scalPipe,
    engPort := if unit = .port then c.cycle + 1 else c.engPort,
    noSlot := halved && (instrWide q.i), banks := [], claims := sched.2 }
  let lat := instrLatency q.i q.passes t.width
  let waits := (instrDests q.i).filter fun r => !(p.pend.any fun d => d.names.contains r)
  let live := p.busy.filter fun b => c.cycle < b.until_
  let when_ := fun (k : Nat) => match sched.1[k]? with
    | some a => a.2
    | none => c.cycle + (if instrSpecial q.i then 4 * k else if unit = .both then k / 2 else k)
  let run := (t.recent.filter fun k => k.1 == c.cycle || k.2.any fun e => decide (c.cycle ≤ e)) ++
    [(c.cycle, (List.range (t.passes - before)).map when_)]
  let s1 := ((s.setCore q.r.core c1).modCluster (clusterOf q.r.core) fun k => { k with allow := k.allow - (q.debit * 16 : Nat) }).modTeam
    q.r.core q.r.slot fun t => { t with recent := run }
  if p.mask = [] then s1
  else s1.modPath q.r fun p => { p with
    busy := live ++ waits.map (fun r => ⟨r, c.cycle + lat.1, lat.2⟩),
    pend := p.pend.zipIdx.map fun k => if k.2 < old then k.1 else { k.1 with due := dueOf q.i c.cycle sched.1 k.1 } }

/-- The result of filling slots: the state, the ready paths left, the units taken by missing slots, what issued, what would have issued
but for the missing slots, and the paths that turned out not to issue, with their reasons. -/
structure Filled where
  s : State
  left : List Cand
  used : List IssueUnit
  issued : List (PathRef × DWord)
  lost : List PathRef
  why : List (PathRef × Nat)
  full : Bool
deriving Repr

/-- The slot's current path. -/
def CoreSt.setCur (c : CoreSt) (slot : Nat) (q : Cand) : CoreSt :=
  if slot = 0 then { c with cur0 := some (q.r.slot, q.r.path) } else { c with cur1 := some (q.r.slot, q.r.path) }

/-- A candidate can issue in this cycle: the allowance, its unit, both slots where it needs them (11 R250, R258). -/
def Filled.can (f : Filled) (c : CoreSt) (q : Cand) : Bool :=
  f.s.affords q && c.unitFree f.used (instrUnit q.i) && !((instrWide q.i) && (f.issued != [] || f.lost != []))

/-- Fill one slot: the path chosen issues if it can, and the slot stays with it if it cannot (11 R250).  A trap detected at issue takes
no slot (11 R240): the slot is offered again.  A slot that is missing because of droop halving only marks the choice (11 R260). -/
def fillSlot (ex : Instr → State → Res) (core : Nat) (halved missing : Bool) (slot : Nat) : Nat → Filled → Filled
  | 0, f => f
  | fuel + 1, f =>
    let c := f.s.core core
    if f.full then f
    else
    match pickFor c (if slot = 0 then c.cur0 else c.cur1) (if slot = 0 then c.cur1 else c.cur0) f.left with
    | none => f
    | some q =>
      let left := f.left.filter fun k => k.r != q.r
      if missing then
        if f.can c q then { f with left := left, used := (instrUnit q.i) :: f.used, lost := f.lost ++ [q.r], full := (instrWide q.i) }
        else f
      else
        let g := { f with s := f.s.modCore core fun c => c.setCur slot q }
        if !f.can c q then g
        else
          match prepare g.s q.r with
          | .no n s | .act n s => fillSlot ex core halved missing slot fuel { g with s := s, left := left, why := g.why ++ [(q.r, n)] }
          | .run i len s0 =>
            let s := s0.modCore core fun c => { c with banks := [] }
            let p := s.path q.r
            match ex i { s with cur := q.r } with
            | .next s1 =>
              if stalled p.wait (s1.path q.r).wait then
                fillSlot ex core halved missing slot fuel { g with s := s1, left := left, why := g.why ++ [(q.r, (s1.path q.r).wait.reason)] }
              else if trapped s s1 q.r then
                fillSlot ex core halved missing slot fuel { g with s := s1, left := left, why := g.why ++ [(q.r, 12)] }
              else { g with s := (account s1 { q with i := i } p.pend.length (s.team core q.r.slot).passes halved).keepCode q.r i len,
                            left := left, issued := g.issued ++ [(q.r, p.pc)],
                            full := (instrWide i) }
            | _ => { g with left := left }

/-- The entry of a list with the least path among those of a slot. -/
def lowestIn (slot : Nat) (l : List (PathRef × Nat)) : Option (PathRef × Nat) :=
  match l.filter fun q => q.1.slot == slot with
  | [] => none
  | q :: l => some (l.foldl (fun b k => if k.1.path < b.1.path then k else b) q)

/-- The reason of a ready path that did not issue (11 R250, R258, R260); a path that yielded loses its cycles to the others of its class
under reason 15 (06 R131). -/
def Cand.reason (s : State) (ready : List Cand) (lost : List PathRef) (q : Cand) : Nat :=
  if q.yielded = 2 then 15
  else if !s.affords q then 10
  else if lost.contains q.r then 11
  else if q.yielded = 1 && ready.any fun k => k.r != q.r && k.cls == q.cls && k.yielded == 0 then 15
  else 0

/-- The stall reason of a team in a cycle in which it did not issue, and the path that decided it (20 R345). -/
def stallOf (s : State) (core slot : Nat) (ready : List Cand) (lost : List PathRef) (why : List (PathRef × Nat)) : Nat × Nat :=
  if (s.team core slot).life ≠ .running then (15, 0)
  else
    match lowestIn slot (ready.map fun q => (q.r, q.reason s ready lost)) <|> lowestIn slot why with
    | some q => (q.2, q.1.path)
    | none => (15, 0)

/-- A team that waits in Draining for room in the block ring counts nothing (20 R345). -/
def State.waitsForRoom (s : State) (core slot : Nat) : Bool :=
  let d := s.die (dieOf core)
  s.drained core slot && (d.brtail + 1) % 4096 == d.brhead

/-- Advance the counters of one team for a cycle, in which the given path issued at an address, or which the given reason and path
decide; note it for the sampler. -/
def State.closeTeam (s : State) (core slot : Nat) (issued : Option (Nat × DWord)) (stall : Nat × Nat) : State :=
  let t := s.team core slot
  if t.life = .starting ∨ s.waitsForRoom core slot = true then s
  else
    match issued with
    | some q => s.modCore core fun c => { c with notes := c.notes ++ [⟨slot, 16, q.1, q.2⟩] }
    | none =>
      (s.setTeam core slot { t with stall := smod 0 t.stall stall.1 fun k => sat32 (k + 1) }).modCore core fun c =>
        { c with notes := c.notes ++ [⟨slot, stall.1, stall.2, (t.path stall.2).pc⟩] }

/-- The path of a team that issued in a cycle, the lowest-indexed of two (20 R347). -/
def issuedIn (slot : Nat) (l : List (PathRef × DWord)) : Option (Nat × DWord) :=
  match l.filter fun q => q.1.slot == slot with
  | [] => none
  | q :: l => let k := l.foldl (fun b k => if k.1.path < b.1.path then k else b) q
              some (k.1.path, k.2)

/-- A cycle passes for a path: ready cycles without an issue (01 R43), those lost to withholding or halving (11 R259), the cycle after a
yield, the ticks of a timed wait while no path of its workgroup is eclipsed (08 R185). -/
def Path.pass (p : Path) (ready lost issued waits : Bool) (dt : Nat) : Path :=
  { p with readyFor := if ready && !issued then p.readyFor + 1 else p.readyFor,
           lostFor := if ready && lost && !issued then p.lostFor + 1 else p.lostFor,
           yielded := if p.yielded = 2 ∧ issued = false then 1 else p.yielded,
           waited := if waits then p.waited + dt else p.waited }

/-- A path of the workgroup is eclipsed. -/
def State.frozen (s : State) (core w : Nat) : Bool :=
  (s.slotsOfWg core w).any fun k => (s.team core k).paths.any fun q => q.2.eclipse.isSome

/-- A path holds no on-chip entry. -/
def Path.off (p : Path) : Bool := p.live && !p.onChip

/-- What a spilled path would be in a cycle if it held an entry (01 R44): ready, its wait over if it has one, or at a join that would
merge; and withheld by the allowance (11 R258, R259). -/
def State.offReady (ex : Instr → State → Res) (s : State) (r : PathRef) : Bool × Bool :=
  let s1 := s.modPath r fun p => { p with onChip := true }
  match (pollPath ex 3 ⟨s1, [], []⟩ r).ready with
  | q :: _ => (true, !s1.affords q)
  | [] => match (s1.path r).wait with
    | .join tok inst => ((s1.team r.core r.slot).joinReady tok inst, false)
    | _ => (false, false)

/-- A cycle passes for the paths of a team. -/
def passTeam (ex : Instr → State → Res) (ready : List Cand) (f : Filled) (core dt : Nat) (s : State) (slot : Nat) : State :=
  let fz := s.frozen core (s.team core slot).w
  s.modTeam core slot fun t => { t with paths := t.paths.map fun q =>
    let r : PathRef := ⟨core, slot, q.1⟩
    let off := if q.2.off then s.offReady ex r else (false, false)
    let lost := f.lost.contains r || (ready.any fun k => k.r == r && !s.affords k) || off.2
    (q.1, q.2.pass (off.1 || ready.any fun k => k.r == r) lost (f.issued.any fun k => k.1 == r) (!fz && s.timedAt r) dt) }

/-- A spilled path of a team has to come in: an entry is free (01 R26), or, for the bound of 01 R44, it has been ready for 2,048
cycles. -/
def Team.mustUnspill (t : Team) : Bool :=
  (t.paths.any fun q => q.2.off) &&
  (decide ((t.paths.filter fun q => q.2.live && q.2.onChip).length < 16) ||
    t.paths.any fun q => q.2.off && decide (2048 ≤ q.2.readyFor))

/-- Bring in what has to come in. -/
def State.bringIn (core : Nat) (s : State) (slot : Nat) : State :=
  (List.range 16).foldl (fun s _ => if (s.team core slot).mustUnspill then nextOr (execPathUnspill core slot s) s else s) s

/-- The period of a core's current cycle in thirds of a nanosecond: two while its quadrant is stretched (22 R374). -/
def State.period (s : State) (core : Nat) : Nat := if (s.quad (quadOf core)).stretched s.time3 then 2 else 1

/-- The oldest queued step begins its occupancy with the current cycle, when the engine is awake and idle (09 R201). -/
def CoreSt.startNow (c : CoreSt) : CoreSt :=
  match c.running, c.mqueue with
  | none, m :: rest => if c.gated || c.waking then c else { c with running := some m, mqueue := rest, runLeft := m.cycles - 1 }
  | _, _ => c

/-- The rest of an issue cycle that ISSUE_CYCLE has opened: look at every path, fill the two slots, count. -/
def runCycle (ex : Instr → State → Res) (core : Nat) (s0 : State) : State :=
  let sA := { s0 with cyc := none }
  let s := (sA.slotsOf core).foldl (State.bringIn core) sA
  let q := (s.corePaths core).foldl (pollPath ex 3) ⟨s.modCore core fun c => { c with notes := [], noSlot := false }, [], []⟩
  let halved := (s.quad (quadOf core)).halved s.time3
  let none0 := (s.core core).noSlot
  let all := q.ready.map fun k => { k with forced := k.forced || Cand.urgent (q.s.core core) q.ready k }
  let f0 : Filled := ⟨q.s, all, [], [], [], [], false⟩
  let n := all.length + 1
  let f1 := fillSlot ex core halved none0 0 n f0
  let f2 := fillSlot ex core halved (none0 || halved) 1 n f1
  let ready := all.filter fun k => !(f2.why.any fun w => w.1 == k.r)
  let why := q.why ++ f2.why
  let sB := f2.s.modCore core CoreSt.startNow
  let slots := sB.slotsOf core
  let s1 := slots.foldl (fun s k => s.closeTeam core k (issuedIn k f2.issued) (stallOf s core k ready f2.lost why)) sB
  let dt := s.period core
  let s2 := slots.foldl (passTeam ex ready f2 core dt) s1
  let t3 := max ((s2.core core).t3 + dt) s2.time3
  { s2.modCore core fun c => { c with t3 := t3 } with time3 := t3 }

/-- One core cycle of the units that count cycles: the matrix engine's wake, occupancy and idle time (11 R257), the sampler's period. -/
def CoreSt.pass (c : CoreSt) : CoreSt :=
  { c with cycle := c.cycle + 1, wakeLeft := c.wakeLeft - 1, runLeft := c.runLeft - 1, smpLeft := c.smpLeft - 1,
           claims := c.claims.filter fun q => c.cycle < q.2,
           idle := if !c.gated && !c.waking && c.running.isNone && c.mqueue == [] then c.idle + 1 else c.idle }

/-- What is due in a path at the cycle that begins: lanes whose exact time has come. -/
def State.arrivals (s : State) (r : PathRef) : State :=
  let cycle := (s.core r.core).cycle
  let n := (s.path r).pend.length
  (List.range n).foldl (fun s i => s.arrive r (n - 1 - i) fun d l => d.due.any fun q => q.1 == l && decide (q.2 ≤ cycle)) s

/-- A new cycle of a core looks back: a snapshot that is over ends, the histogram engine folds, one record in a cycle (20 R349), and a
sample that is due is taken of the cycle before (20 R347). -/
def State.lookBack (s : State) (core : Nat) : State :=
  let sE := nextOr (execHistSnapshotEnd (dieOf core) s) s
  let s0 := nextOr (execHistFold (dieOf core) sE) sE
  if (s0.core core).sampleDue then s0.takeSample core else s0

/-- A cluster's allowance is refilled once in a cycle of the cluster, by the first of its cores whose cycle begins (18 R324). -/
def State.refillNow (s : State) (core : Nat) : State :=
  let c := s.cluster (clusterOf core)
  let begins := max (s.core core).t3 (s.time3 - s.period core)
  if begins < c.refillAt then s
  else s.setCluster (clusterOf core) { c with
    allow := min (c.allow + (s.refill (clusterOf core) : Nat)) ((c.pacap * 16 : Nat) : Int), refillAt := begins + s.period core }

/-- A new cycle of a core goes on: the counters advance; a matrix step whose occupancy has ended writes; a wake that is over, a step that
can begin and an engine that has been idle for long enough follow; data arrive; the cluster's allowance is refilled. -/
def State.enterCycle (s1 : State) (core : Nat) : State :=
  let c1 := s1.core core
  let s2 := s1.modCore core CoreSt.pass
  let s3 := if c1.running.isSome && c1.runLeft == 0 then nextOr (execMatrixStepEnd core 0 s2) s2 else s2
  let s4 := nextOr (execMatrixWakeDone core s3) s3
  let s5 := s4.modCore core CoreSt.startNow
  let s6 := nextOr (execMatrixEngineGate core s5) s5
  let refs := ((s6.slotsOf core).map fun k => (s6.team core k).livePaths.map fun i => (⟨core, k, i⟩ : PathRef)).flatten
  (refs.foldl State.arrivals s6).refillNow core

/-- A cycle of a core begins. -/
def State.beginCycle (s : State) (core : Nat) : State := (s.lookBack core).enterCycle core

/-- ISSUE_CYCLE (11 R254): a cycle of a core begins; the next step of the machine looks at the paths and fills the issue slots. -/
def execIssueCycle (core : Nat) (s : State) : Res :=
  if s.cyc.isSome || decide (384 ≤ core) then .next s else .next { s.beginCycle core with cyc := some core }

/-- STARVATION_OVERRIDE (11 R259): a path that has lost 3,840 ready cycles to withholding or halving is no longer withheld. -/
def execStarvationOverride (core slot path : Nat) (s : State) : Res :=
  let r : PathRef := ⟨core, slot, path⟩
  if 3840 ≤ (s.path r).lostFor then .next (s.modPath r fun p => { p with forced := true }) else .next s

/-! ## Choices of hardware and firmware (log 4) -/

/-- The L1 evicts a line (08 R175). -/
def State.evict (s : State) (core line : Nat) : State := s.l1Drop core line

/-- A TLB drops an entry (19 R329, log 11). -/
def State.tlbDrop (s : State) (core page : Nat) : State :=
  s.modCore core fun c => { c with tlb := c.tlb.filter fun e => e.base != page }

/-- Firmware of the core's die places a team's private region (19 R336): 1 GiB, when it has none. -/
def State.placePrivate (s : State) (core slot base : Nat) : State :=
  let t := s.team core slot
  if s.fwRuns (dieOf core) = true ∧ t.life ≠ .free ∧ t.privBase = 0 then s.setTeam core slot { t with privBase := base } else s

/-- Firmware raises a team's high-water mark (19 R336). -/
def State.growPrivate (s : State) (core slot mark : Nat) : State :=
  let t := s.team core slot
  if s.fwRuns (dieOf core) = true ∧ t.life ≠ .free ∧ t.privMark ≤ mark ∧ mark ≤ 2 ^ 30 then s.setTeam core slot { t with privMark := mark } else s

/-- The zero flag of a tile is cleared (09 R200). -/
def State.zfClear (s : State) (core w tile : Nat) : State :=
  s.modWg core w fun g => { g with tiles := smod Tile.empty g.tiles tile fun t => { t with zf := false, watched := [] } }

end Sys2Proof.Machine
end

