-- ==== Sys2Proof/Machine/Special.lean ====
section
/-!
DEFINITION. The special functions (07 R153).  Where the spec gives only a bound, the result is the exact value, computed far
more closely than the bound, moved by a free number of steps that keeps it inside the bound (log 8).
-/

namespace Sys2Proof.Machine

open Sys2Proof

/-- The nine functions. -/
inductive SpFn where
  | rcp | rsq | sqrt | exp2 | log2 | sin | cos | tanh | sigm
deriving DecidableEq, Repr

def SpFn.code : SpFn → Nat
  | .rcp => 0 | .rsq => 1 | .sqrt => 2 | .exp2 => 3 | .log2 => 4 | .sin => 5 | .cos => 6 | .tanh => 7 | .sigm => 8

/-! ## Close values in fixed point (128 fraction bits) -/

def one128 : Nat := 2 ^ 128
/-- ln 2 × 2^128. -/
def ln2Fx : Nat := 0xb17217f7d1cf79abc9e3b39803f2f6af
/-- π × 2^320. -/
def piFx : Nat := 0x3243f6a8885a308d313198a2e03707344a4093822299f31d0082efa98ec4e6c89452821e638d01377

/-- ⌊√n⌋ for n < 4^b. -/
def isqrt (n : Nat) : Nat → Nat → Nat
  | 0, r => r
  | b + 1, r => isqrt n b (if (r + 2 ^ b) * (r + 2 ^ b) ≤ n then r + 2 ^ b else r)

/-- The terms of e^y from the k-th on, y < 1. -/
def expTerms (y : Nat) : Nat → Nat → Nat → Nat
  | 0, _, _ => 0
  | fuel + 1, k, t => t + expTerms y fuel (k + 1) (t * y / one128 / k)

/-- 2^x. -/
def exp2X (x : XR) : XR :=
  let i := x.toPair.1
  let n := i / x.den
  let fr := (i - n * x.den).toNat * one128 / x.den
  .scaled false (expTerms (fr * ln2Fx / one128) 40 1 one128) (n - 128)

/-- e^x. -/
def expX (x : XR) : XR := exp2X ⟨x.neg, x.num * one128, x.den * ln2Fx⟩

/-- The bits of log2 m, m in [1, 2) with 128 fraction bits. -/
def log2Bits : Nat → Nat → Nat → Nat
  | 0, _, r => r
  | b + 1, m, r =>
    let q := m * m / one128
    if 2 * one128 ≤ q then log2Bits b (q / 2) (2 * r + 1) else log2Bits b q (2 * r)

/-- log2 x for x > 0: exact for a power of two. -/
def log2X (x : XR) : XR :=
  let e := flog2 x.num x.den
  let p := scale2 x.num x.den (-e)
  .ofPair (e * (2 ^ 64 : Nat) + (log2Bits 64 (p.1 * one128 / p.2) 0 : Nat)) (2 ^ 64)

/-- Terms t, −t y²/(k(k+1)), … of a sine or cosine. -/
def trigTerms (y : Int) : Nat → Nat → Int → Int
  | 0, _, _ => 0
  | fuel + 1, k, t => t + trigTerms y fuel (k + 2) (-(t * y / (one128 : Int) * y / (one128 : Int)) / ((k * (k + 1) : Nat) : Int))

/-- x reduced modulo 2π into −π to π. -/
def reduceX (x : XR) : Int :=
  let i := x.toPair.1 * (2 ^ 320 : Nat) / x.den
  let r := i % ((2 * piFx : Nat) : Int)
  (if (piFx : Int) < r then r - ((2 * piFx : Nat) : Int) else r) / (2 ^ 192 : Nat)

/-- x − x³ / k: sine and tangent near 0. -/
def cubicX (x : XR) (k : Nat) : XR :=
  x.add ⟨!x.neg, x.num ^ 3, x.den ^ 3 * k⟩

def XR.absLt (x : XR) (n d : Nat) : Bool := x.num * d < n * x.den

def xrOne : XR := ⟨false, 1, 1⟩

/-- The value of a function at a number that is no special input, and whether the result is that value exactly: for `vexp2` at an
integral x in range, from −149 on, the least whose power FP32 holds (at −150 the result is free inside the bound). -/
def SpFn.value (f : SpFn) (x : XR) : XR × Bool :=
  match f with
  | .rcp => (⟨x.neg, x.den, x.num⟩, false)
  | .rsq => (⟨false, isqrt (x.den * 2 ^ 400 / x.num) 288 0, 2 ^ 200⟩, false)
  | .sqrt =>
    let q := x.num * 2 ^ 400 / x.den
    let r := isqrt q 288 0
    if r * r * x.den = x.num * 2 ^ 400 then (⟨false, r, 2 ^ 200⟩, true) else (⟨false, 2 * r + 1, 2 ^ 201⟩, true)
  | .exp2 =>
    if x.neg && !XR.absLt x 200 1 then (.scaled false 1 (-200), false)
    else (exp2X x, x.toPair.1 % x.den == 0 && XR.absLt x 150 1)
  | .log2 => (log2X x, (let e := flog2 x.num x.den; let p := scale2 x.num x.den (-e); p.1 == p.2))
  | .sin =>
    if XR.absLt x 1 (2 ^ 20) then (cubicX x 6, false)
    else let y := reduceX x; (.ofPair (trigTerms y 40 2 y) one128, false)
  | .cos => (.ofPair (trigTerms (reduceX x) 40 1 one128) one128, false)
  | .tanh =>
    if XR.absLt x 1 (2 ^ 12) then (cubicX x 3, false)
    else if !XR.absLt x 40 1 then (⟨x.neg, 2 ^ 100 - 1, 2 ^ 100⟩, false)
    else
      let e := expX ⟨false, 2 * x.num, x.den⟩
      (⟨x.neg, e.num - e.den, e.num + e.den⟩, false)
  | .sigm =>
    if !XR.absLt x 200 1 then (if x.neg then .scaled false 1 (-200) else ⟨false, 2 ^ 100 - 1, 2 ^ 100⟩, false)
    else let e := expX x; (⟨false, e.num, e.num + e.den⟩, false)

/-! ## Bounds -/

/-- n ulps of a format at a value's binade. -/
def ulps (t : Ty) (n : Nat) (r : XR) : XR :=
  let f := t.fmt
  let qmin : Int := 1 - (f.bias : Int) - f.m
  let q := if r.num = 0 then qmin else max qmin (flog2 r.num r.den - f.m)
  .scaled false n q

/-- The larger of two positive numbers. -/
def XR.sup (a b : XR) : XR := if XR.lt a b then b else a

/-- The bound of the table of R153 for a type. -/
def SpFn.bound (f : SpFn) (t : Ty) (r : XR) : XR :=
  if t = .f32 then
    match f with
    | .rcp | .rsq | .sqrt => ulps t 1 r
    | .exp2 => ulps t 2 r
    | .log2 | .tanh => XR.sup (ulps t 2 r) ⟨false, 1, 2 ^ 22⟩
    | .sin | .cos => ⟨false, 1, 2 ^ 21⟩
    | .sigm => ⟨false, 1, 2 ^ 22⟩
  else
    match f with
    | .sin | .cos => XR.sup (ulps t 1 r) ⟨false, 1, 2 ^ 11⟩
    | _ => ulps t 1 r

/-- The range results never leave. -/
def SpFn.inRange (f : SpFn) (y : XR) : Bool :=
  match f with
  | .sin | .cos => y.num ≤ y.den
  | .sigm => (!y.neg || y.num == 0) && y.num ≤ y.den
  | _ => true

/-- A value lies within the bound of the close value r.  Where the exact value is rational r is that value; elsewhere no value of
the format lies at the bound, and r is closer to the exact value than any is. -/
def SpFn.within (f : SpFn) (t : Ty) (r y : XR) : Bool :=
  f.inRange y && !XR.lt (f.bound t r) (r.add y.negate).absv

/-- A pattern moved by steps along the finite values of its format; the sign of a zero stays. -/
def moveBy (t : Ty) (p : Nat) (k : Int) : Nat :=
  let f := t.fmt
  let neg := p / f.signBit % 2 == 1
  let o : Int := (if neg then -((p % f.signBit : Nat) : Int) else ((p % f.signBit : Nat) : Int)) + k
  let m := min o.natAbs f.maxFin
  if o < 0 || (o == 0 && neg) then f.signBit + m else m

/-- The FP32 result: some value within the bound, one for each input. -/
def SpFn.pick (f : SpFn) (x : Nat) (r : XR) (exact : Bool) : Nat :=
  let p := (fround .f32 .rne 0 false (.num r)).1
  if exact then p
  else
    let c := moveBy .f32 p (Config.special f.code 9 x)
    match fdecode .f32 c with
    | .num y => if f.within .f32 r y then c else p
    | _ => p

/-- The result for an input that is no special one: the FP32 result, and for a narrow type that result rounded once. -/
def SpFn.result (f : SpFn) (t : Ty) (x : XR) : Nat :=
  let v := f.value x
  let w := f.pick (fround .f32 .rne 0 false (.num x)).1 v.1 v.2
  if t = .f32 then w
  else
    let p := (fround t .rne 0 false (fdecode .f32 w)).1
    match fdecode t p with
    | .num y => if v.2 || f.within t v.1 y then p else (fround t .rne 0 false (.num v.1)).1
    | _ => p

/-! ## Special inputs and flags -/

/-- The results the table fixes (R153): none for an ordinary input. -/
def SpFn.fixed (f : SpFn) (x : FVal) : Option (FVal × Flags) :=
  match x with
  | .nan s => some (.nan false, if s then flNV else 0)
  | .inf n =>
    match f with
    | .rcp => some (.num (.zero n), 0)
    | .rsq => some (if n then (.nan false, flNV) else (.num (.zero false), 0))
    | .sqrt | .log2 => some (if n then (.nan false, flNV) else (.inf false, 0))
    | .exp2 => some (if n then .num (.zero false) else .inf false, 0)
    | .sin | .cos => some (.nan false, flNV)
    | .tanh => some (.num { xrOne with neg := n }, 0)
    | .sigm => some (if n then .num (.zero false) else .num xrOne, 0)
  | .num v =>
    if v.num = 0 then
      match f with
      | .rcp | .rsq => some (.inf v.neg, flDZ)
      | .log2 => some (.inf true, flDZ)
      | .sqrt | .sin | .tanh => some (.num v, 0)
      | .exp2 | .cos => some (.num xrOne, 0)
      | .sigm => some (.num ⟨false, 1, 2⟩, 0)
    else
      match f with
      | .rsq | .sqrt | .log2 => if v.neg then some (.nan false, flNV) else none
      | .exp2 =>
        if !v.neg && !XR.absLt v 128 1 then some (.inf false, flOF)
        else if v.neg && XR.lt ⟨false, 150, 1⟩ v.absv then some (.num (.zero false), flUF)
        else none
      | _ => none

/-- One lane of a special function (R153). -/
def SpFn.lane (f : SpFn) (fm : Word) (t : Ty) (a : Nat) : Nat × Flags :=
  let x := flushIn fm t a
  match f.fixed x with
  | some v => ((fround t .rne 0 false v.1).1, v.2)
  | none =>
    match x with
    | .num v =>
      let maxFin : XR := match fdecode t t.fmt.maxFin with
        | .num m => m
        | _ => xrOne
      if f = .rcp ∧ XR.lt maxFin (f.value v).1.absv then
        ((fround t .rne 0 false (.inf v.neg)).1, flOF)
      else
        let p := f.result t v
        let ix : Flags := if f = .sqrt then (fround t .rne 0 false (.num (f.value v).1)).2 &&& flIX else 0
        let uf : Flags :=
          if (f = .rcp ∨ f = .exp2) ∧ isSub t p then flUF else 0
        flushOut fm t (p, ix ||| uf)
    | _ => (0, 0)

/-- The form of the nine instructions: results by lane, pending like a load's when a lookahead count follows (11 R255). -/
def specialOp (f : SpFn) (x : Args) (s : State) : Res :=
  onPath s fun h =>
    let e := h.execLanes x.guard
    needClean s h 8 e [x.a] [] <|
      let t := h.t.vresults x.d (e.map fun l => (l, f.lane h.t.fmode x.ty (h.t.vget x.a l).toNat))
      .next (((s.putTeam h t).finish h.r 8 (passesOf h.p.mask)).modPath h.r fun p => p.openWindow h.p.window x.ext [x.d])

/-- `vrcp` (07 R153). -/
def execVrcp (x : Args) (s : State) : Res := specialOp .rcp x s
/-- `vrsq` (07 R153). -/
def execVrsq (x : Args) (s : State) : Res := specialOp .rsq x s
/-- `vsqrt` (07 R153). -/
def execVsqrt (x : Args) (s : State) : Res := specialOp .sqrt x s
/-- `vexp2` (07 R153). -/
def execVexp2 (x : Args) (s : State) : Res := specialOp .exp2 x s
/-- `vlog2` (07 R153). -/
def execVlog2 (x : Args) (s : State) : Res := specialOp .log2 x s
/-- `vsin` (07 R153). -/
def execVsin (x : Args) (s : State) : Res := specialOp .sin x s
/-- `vcos` (07 R153). -/
def execVcos (x : Args) (s : State) : Res := specialOp .cos x s
/-- `vtanh` (07 R153). -/
def execVtanh (x : Args) (s : State) : Res := specialOp .tanh x s
/-- `vsigm` (07 R153). -/
def execVsigm (x : Args) (s : State) : Res := specialOp .sigm x s

end Sys2Proof.Machine
end

