-- ==== Sys2Proof/Machine/Dispatch.lean ====
section
/-!
DEFINITION. The dispatch: one arm per constructor, each one call of its meaning.
-/

namespace Sys2Proof.Machine

open Sys2Proof

def exec (i : Instr) (s : State) : Host.Outcome State Fault Refusal :=
  match i with
  | .bra x => Sys2Proof.Machine.execBra x s
  | .brc x => Sys2Proof.Machine.execBrc x s
  | .brv x => Sys2Proof.Machine.execBrv x s
  | .brx x => Sys2Proof.Machine.execBrx x s
  | .call x => Sys2Proof.Machine.execCall x s
  | .ret x => Sys2Proof.Machine.execRet x s
  | .prism x => Sys2Proof.Machine.execPrism x s
  | .join x => Sys2Proof.Machine.execJoin x s
  | .joinMerge core slot tok inst => Sys2Proof.Machine.execJoinMerge core slot tok inst s
  | .exit x => Sys2Proof.Machine.execExit x s
  | .loop x => Sys2Proof.Machine.execLoop x s
  | .nop x => Sys2Proof.Machine.execNop x s
  | .ipref x => Sys2Proof.Machine.execIpref x s
  | .yield x => Sys2Proof.Machine.execYield x s
  | .sadd x => Sys2Proof.Machine.execSadd x s
  | .ssub x => Sys2Proof.Machine.execSsub x s
  | .smul x => Sys2Proof.Machine.execSmul x s
  | .smulh x => Sys2Proof.Machine.execSmulh x s
  | .smad x => Sys2Proof.Machine.execSmad x s
  | .sand x => Sys2Proof.Machine.execSand x s
  | .sor x => Sys2Proof.Machine.execSor x s
  | .sxor x => Sys2Proof.Machine.execSxor x s
  | .snot x => Sys2Proof.Machine.execSnot x s
  | .sshl x => Sys2Proof.Machine.execSshl x s
  | .sshr x => Sys2Proof.Machine.execSshr x s
  | .ssra x => Sys2Proof.Machine.execSsra x s
  | .smin x => Sys2Proof.Machine.execSmin x s
  | .smax x => Sys2Proof.Machine.execSmax x s
  | .spop x => Sys2Proof.Machine.execSpop x s
  | .sclz x => Sys2Proof.Machine.execSclz x s
  | .scmp c x => Sys2Proof.Machine.execScmp c x s
  | .ssel x => Sys2Proof.Machine.execSsel x s
  | .smov x => Sys2Proof.Machine.execSmov x s
  | .sli x => Sys2Proof.Machine.execSli x s
  | .dadd x => Sys2Proof.Machine.execDadd x s
  | .dsub x => Sys2Proof.Machine.execDsub x s
  | .dmov x => Sys2Proof.Machine.execDmov x s
  | .slea x => Sys2Proof.Machine.execSlea x s
  | .sget x => Sys2Proof.Machine.execSget x s
  | .sset x => Sys2Proof.Machine.execSset x s
  | .sxlat x => Sys2Proof.Machine.execSxlat x s
  | .vadd x => Sys2Proof.Machine.execVadd x s
  | .vsub x => Sys2Proof.Machine.execVsub x s
  | .vmul x => Sys2Proof.Machine.execVmul x s
  | .vmulh x => Sys2Proof.Machine.execVmulh x s
  | .vmad x => Sys2Proof.Machine.execVmad x s
  | .vneg x => Sys2Proof.Machine.execVneg x s
  | .vabs x => Sys2Proof.Machine.execVabs x s
  | .vmin x => Sys2Proof.Machine.execVmin x s
  | .vmax x => Sys2Proof.Machine.execVmax x s
  | .vand x => Sys2Proof.Machine.execVand x s
  | .vor x => Sys2Proof.Machine.execVor x s
  | .vxor x => Sys2Proof.Machine.execVxor x s
  | .vnot x => Sys2Proof.Machine.execVnot x s
  | .vandn x => Sys2Proof.Machine.execVandn x s
  | .vshl x => Sys2Proof.Machine.execVshl x s
  | .vshr x => Sys2Proof.Machine.execVshr x s
  | .vsra x => Sys2Proof.Machine.execVsra x s
  | .vrot x => Sys2Proof.Machine.execVrot x s
  | .vpop x => Sys2Proof.Machine.execVpop x s
  | .vclz x => Sys2Proof.Machine.execVclz x s
  | .vbfe x => Sys2Proof.Machine.execVbfe x s
  | .vbfi x => Sys2Proof.Machine.execVbfi x s
  | .vcmp c x => Sys2Proof.Machine.execVcmp c x s
  | .vsel x => Sys2Proof.Machine.execVsel x s
  | .vmov x => Sys2Proof.Machine.execVmov x s
  | .vdot4 x => Sys2Proof.Machine.execVdot4 x s
  | .vsad x => Sys2Proof.Machine.execVsad x s
  | .vclass x => Sys2Proof.Machine.execVclass x s
  | .vround x => Sys2Proof.Machine.execVround x s
  | .wPair x y => Sys2Proof.Machine.execWPair x y s
  | .vrcp x => Sys2Proof.Machine.execVrcp x s
  | .vrsq x => Sys2Proof.Machine.execVrsq x s
  | .vsqrt x => Sys2Proof.Machine.execVsqrt x s
  | .vexp2 x => Sys2Proof.Machine.execVexp2 x s
  | .vlog2 x => Sys2Proof.Machine.execVlog2 x s
  | .vsin x => Sys2Proof.Machine.execVsin x s
  | .vcos x => Sys2Proof.Machine.execVcos x s
  | .vtanh x => Sys2Proof.Machine.execVtanh x s
  | .vsigm x => Sys2Proof.Machine.execVsigm x s
  | .vcvt x => Sys2Proof.Machine.execVcvt x s
  | .vpack x => Sys2Proof.Machine.execVpack x s
  | .vunpack x => Sys2Proof.Machine.execVunpack x s
  | .vqscale x => Sys2Proof.Machine.execVqscale x s
  | .vqenc x => Sys2Proof.Machine.execVqenc x s
  | .vqdec x => Sys2Proof.Machine.execVqdec x s
  | .amaxrd x => Sys2Proof.Machine.execAmaxrd x s
  | .vdrop x => Sys2Proof.Machine.execVdrop x s
  | .vperm x => Sys2Proof.Machine.execVperm x s
  | .vshfl x => Sys2Proof.Machine.execVshfl x s
  | .vpush x => Sys2Proof.Machine.execVpush x s
  | .vbcast x => Sys2Proof.Machine.execVbcast x s
  | .vred team op x => Sys2Proof.Machine.execVred team op x s
  | .vscan team op x => Sys2Proof.Machine.execVscan team op x s
  | .vballot x => Sys2Proof.Machine.execVballot x s
  | .vballotTeam x => Sys2Proof.Machine.execVballotTeam x s
  | .vid x => Sys2Proof.Machine.execVid x s
  | .ld x => Sys2Proof.Machine.execLd x s
  | .st x => Sys2Proof.Machine.execSt x s
  | .lds x => Sys2Proof.Machine.execLds x s
  | .sts x => Sys2Proof.Machine.execSts x s
  | .pref x => Sys2Proof.Machine.execPref x s
  | .atom op o x => Sys2Proof.Machine.execAtom op o x s
  | .atoms op o x => Sys2Proof.Machine.execAtoms op o x s
  | .ratom op o x => Sys2Proof.Machine.execRatom op o x s
  | .fence o x => Sys2Proof.Machine.execFence o x s
  | .ebind x => Sys2Proof.Machine.execEbind x s
  | .eunbind x => Sys2Proof.Machine.execEunbind x s
  | .eacq x => Sys2Proof.Machine.execEacq x s
  | .erel x => Sys2Proof.Machine.execErel x s
  | .nbarr x => Sys2Proof.Machine.execNbarr x s
  | .nbwait x => Sys2Proof.Machine.execNbwait x s
  | .nbsync x => Sys2Proof.Machine.execNbsync x s
  | .tbar x => Sys2Proof.Machine.execTbar x s
  | .treeBarrierComplete core w level => Sys2Proof.Machine.execTreeBarrierComplete core w level s
  | .barrierTimeout core slot path => Sys2Proof.Machine.execBarrierTimeout core slot path s
  | .tlwait x => Sys2Proof.Machine.execTlwait x s
  | .tlread x => Sys2Proof.Machine.execTlread x s
  | .rput x => Sys2Proof.Machine.execRput x s
  | .ringSlotPublish cluster ring slot => Sys2Proof.Machine.execRingSlotPublish cluster ring slot s
  | .rtake x => Sys2Proof.Machine.execRtake x s
  | .rdone x => Sys2Proof.Machine.execRdone x s
  | .qput x => Sys2Proof.Machine.execQput x s
  | .qtake x => Sys2Proof.Machine.execQtake x s
  | .fbopen x => Sys2Proof.Machine.execFbopen x s
  | .fbnext x => Sys2Proof.Machine.execFbnext x s
  | .fbend x => Sys2Proof.Machine.execFbend x s
  | .fbget x => Sys2Proof.Machine.execFbget x s
  | .fbclose x => Sys2Proof.Machine.execFbclose x s
  | .tld x => Sys2Proof.Machine.execTld x s
  | .tileLoadWhole core w tile => Sys2Proof.Machine.execTileLoadWhole core w tile s
  | .tst x => Sys2Proof.Machine.execTst x s
  | .tzero x => Sys2Proof.Machine.execTzero x s
  | .tzf x => Sys2Proof.Machine.execTzf x s
  | .mma x => Sys2Proof.Machine.execMma x s
  | .mmaa x => Sys2Proof.Machine.execMmaa x s
  | .matrixStepStart core => Sys2Proof.Machine.execMatrixStepStart core s
  | .matrixStepEnd core mismatches => Sys2Proof.Machine.execMatrixStepEnd core mismatches s
  | .mcommit x => Sys2Proof.Machine.execMcommit x s
  | .mwait x => Sys2Proof.Machine.execMwait x s
  | .aread x => Sys2Proof.Machine.execAread x s
  | .awrite x => Sys2Proof.Machine.execAwrite x s
  | .azero x => Sys2Proof.Machine.execAzero x s
  | .aq x => Sys2Proof.Machine.execAq x s
  | .cpyToScratchpad x => Sys2Proof.Machine.execCpyToScratchpad x s
  | .cpyToMemory x => Sys2Proof.Machine.execCpyToMemory x s
  | .cpym x => Sys2Proof.Machine.execCpym x s
  | .copyFault core op => Sys2Proof.Machine.execCopyFault core op s
  | .copyComplete core op => Sys2Proof.Machine.execCopyComplete core op s
  | .gath x => Sys2Proof.Machine.execGath x s
  | .gpool m x => Sys2Proof.Machine.execGpool m x s
  | .scat x => Sys2Proof.Machine.execScat x s
  | .gatherComplete core op => Sys2Proof.Machine.execGatherComplete core op s
  | .collAllreduce r x => Sys2Proof.Machine.execCollAllreduce r x s
  | .collAllgather x => Sys2Proof.Machine.execCollAllgather x s
  | .collAlltoall x => Sys2Proof.Machine.execCollAlltoall x s
  | .collectiveComplete core op => Sys2Proof.Machine.execCollectiveComplete core op s
  | .estat x => Sys2Proof.Machine.execEstat x s
  | .lainit x => Sys2Proof.Machine.execLainit x s
  | .laadd x => Sys2Proof.Machine.execLaadd x s
  | .lachk x => Sys2Proof.Machine.execLachk x s
  | .laest x => Sys2Proof.Machine.execLaest x s
  | .lastag x => Sys2Proof.Machine.execLastag x s
  | .lastagDivg x => Sys2Proof.Machine.execLastagDivg x s
  | .laflag x => Sys2Proof.Machine.execLaflag x s
  | .laclr x => Sys2Proof.Machine.execLaclr x s
  | .fcbind x => Sys2Proof.Machine.execFcbind x s
  | .fcrec x => Sys2Proof.Machine.execFcrec x s
  | .fctake m x => Sys2Proof.Machine.execFctake m x s
  | .spres x => Sys2Proof.Machine.execSpres x s
  | .toleranceCompareDone core fs => Sys2Proof.Machine.execToleranceCompareDone core fs s
  | .deferredOpPerform core slot => Sys2Proof.Machine.execDeferredOpPerform core slot s
  | .heldOpRelease core slot path => Sys2Proof.Machine.execHeldOpRelease core slot path s
  | .spjoin x => Sys2Proof.Machine.execSpjoin x s
  | .spabort x => Sys2Proof.Machine.execSpabort x s
  | .spstat x => Sys2Proof.Machine.execSpstat x s
  | .trap x => Sys2Proof.Machine.execTrap x s
  | .tret x => Sys2Proof.Machine.execTret x s
  | .brk x => Sys2Proof.Machine.execBrk x s
  | .tsread x => Sys2Proof.Machine.execTsread x s
  | .wake x => Sys2Proof.Machine.execWake x s
  | .pmread x => Sys2Proof.Machine.execPmread x s
  | .mark x => Sys2Proof.Machine.execMark x s
  | .trapDelivery core slot path => Sys2Proof.Machine.execTrapDelivery core slot path s
  | .stopRecord die => Sys2Proof.Machine.execStopRecord die s
  | .loadDataReturn core slot d => Sys2Proof.Machine.execLoadDataReturn core slot d s
  | .storeAcknowledge core idx => Sys2Proof.Machine.execStoreAcknowledge core idx s
  | .faultRecord die => Sys2Proof.Machine.execFaultRecord die s
  | .pathUnspill core slot => Sys2Proof.Machine.execPathUnspill core slot s
  | .issueCycle core => Sys2Proof.Machine.execIssueCycle core s
  | .starvationOverride core slot path => Sys2Proof.Machine.execStarvationOverride core slot path s
  | .matrixEngineGate core => Sys2Proof.Machine.execMatrixEngineGate core s
  | .matrixWakeDone core => Sys2Proof.Machine.execMatrixWakeDone core s
  | .teamRetire core slot => Sys2Proof.Machine.execTeamRetire core slot s
  | .dispatchAction die => Sys2Proof.Machine.execDispatchAction die s
  | .readyRecordStarve die idx => Sys2Proof.Machine.execReadyRecordStarve die idx s
  | .teamStart core slot => Sys2Proof.Machine.execTeamStart core slot s
  | .graphRegister vi n v => Sys2Proof.Machine.execGraphRegister vi n v s
  | .graphUnregister vi n => Sys2Proof.Machine.execGraphUnregister vi n s
  | .kick vi v => Sys2Proof.Machine.execKick vi v s
  | .nodeComplete vi replay node => Sys2Proof.Machine.execNodeComplete vi replay node s
  | .errClear vi v => Sys2Proof.Machine.execErrClear vi v s
  | .mcset vi v => Sys2Proof.Machine.execMcset vi v s
  | .multicastChangeDone vi entry => Sys2Proof.Machine.execMulticastChangeDone vi entry s
  | .viEnable vi v => Sys2Proof.Machine.execViEnable vi v s
  | .viDisable vi v => Sys2Proof.Machine.execViDisable vi v s
  | .flipreq vi v => Sys2Proof.Machine.execFlipreq vi v s
  | .flipToDevice vi page frame host => Sys2Proof.Machine.execFlipToDevice vi page frame host s
  | .flipToHost vi page host => Sys2Proof.Machine.execFlipToHost vi page host s
  | .flipDone vi idx => Sys2Proof.Machine.execFlipDone vi idx s
  | .flipRefused vi idx => Sys2Proof.Machine.execFlipRefused vi idx s
  | .shootPage die v => Sys2Proof.Machine.execShootPage die v s
  | .shootVi die v => Sys2Proof.Machine.execShootVi die v s
  | .shootDone die => Sys2Proof.Machine.execShootDone die s
  | .replayByPage core v => Sys2Proof.Machine.execReplayByPage core v s
  | .replayByToken core v => Sys2Proof.Machine.execReplayByToken core v s
  | .replayAllVi core v => Sys2Proof.Machine.execReplayAllVi core v s
  | .replayByPageFatal core v => Sys2Proof.Machine.execReplayByPageFatal core v s
  | .replayByTokenFatal core v => Sys2Proof.Machine.execReplayByTokenFatal core v s
  | .replayAllViFatal core v => Sys2Proof.Machine.execReplayAllViFatal core v s
  | .preempt core v => Sys2Proof.Machine.execPreempt core v s
  | .preemptHalted core w => Sys2Proof.Machine.execPreemptHalted core w s
  | .contextSaved core w save => Sys2Proof.Machine.execContextSaved core w save s
  | .launchEnd vi replay node => Sys2Proof.Machine.execLaunchEnd vi replay node s
  | .timeSliceExpiry vi => Sys2Proof.Machine.execTimeSliceExpiry vi s
  | .eclres core v => Sys2Proof.Machine.execEclres core v s
  | .sample core => Sys2Proof.Machine.execSample core s
  | .histFold die => Sys2Proof.Machine.execHistFold die s
  | .histSnapshot die => Sys2Proof.Machine.execHistSnapshot die s
  | .histSnapshotEnd die => Sys2Proof.Machine.execHistSnapshotEnd die s
  | .counterClear r => Sys2Proof.Machine.execCounterClear r s
  | .registerWrite r v => Sys2Proof.Machine.execRegisterWrite r v s
  | .droopTrip quad => Sys2Proof.Machine.execDroopTrip quad s
  | .droopStretchEnd quad => Sys2Proof.Machine.execDroopStretchEnd quad s
  | .droopHalvingEnd quad => Sys2Proof.Machine.execDroopHalvingEnd quad s
  | .thermalReading quad temp => Sys2Proof.Machine.execThermalReading quad temp s
  | .thermalHoldoffExpiry quad n => Sys2Proof.Machine.execThermalHoldoffExpiry quad n s
  | .powerMeasure rates => Sys2Proof.Machine.execPowerMeasure rates s
  | .softError e => Sys2Proof.Machine.execSoftError e s
  | .machineCheck p cause va logged fatal => Sys2Proof.Machine.execMachineCheck p cause va logged fatal s
  | .postedStoreTimeout core idx => Sys2Proof.Machine.execPostedStoreTimeout core idx s
  | .patrolScrub die corrected uncorrected => Sys2Proof.Machine.execPatrolScrub die corrected uncorrected s
  | .fatalErrorDump die cause detail => Sys2Proof.Machine.execFatalErrorDump die cause detail s
  | .deviceReset => Sys2Proof.Machine.execDeviceReset s
  | .pfReset => Sys2Proof.Machine.execPfReset s
  | .bootVerify die image sig => Sys2Proof.Machine.execBootVerify die image sig s
  | .attgo => Sys2Proof.Machine.execAttgo s
  | .linkTraining link needsUnsupported => Sys2Proof.Machine.execLinkTraining link needsUnsupported s
  | .hostMemWrite addr bytes => Sys2Proof.Machine.execHostMemWrite addr bytes s
  | .flitCrcReplay port => Sys2Proof.Machine.execFlitCrcReplay port s
  | .portDownRemoval port => Sys2Proof.Machine.execPortDownRemoval port s
  | .ptpLock inBound => Sys2Proof.Machine.execPtpLock inBound s
  | .instructionCacheLineArrival cluster line => Sys2Proof.Machine.execInstructionCacheLineArrival cluster line s
  | .peerAccessArrival a => Sys2Proof.Machine.execPeerAccessArrival a s
  | .poolWindowDown vi n => Sys2Proof.Machine.execPoolWindowDown vi n s
  | .engineOperationAbort core op => Sys2Proof.Machine.execEngineOperationAbort core op s
  | .firmwareUpdate die image => Sys2Proof.Machine.execFirmwareUpdate die image s
  | .modulePowerLoss => Sys2Proof.Machine.execModulePowerLoss s

end Sys2Proof.Machine
end

