-- ==== Sys2Proof/Machine/Schedule.lean ====
section
/-!
DEFINITION. How the machine goes on: the occurrences of the agenda, the issue of one path, and the default schedule that applies when
the agenda is empty (log 3, log 4).  Step.lean joins these to the meanings.
-/

namespace Sys2Proof.Machine

open Sys2Proof

/-! ## Time -/

/-- What a nominal cycle has seen: nothing issued; a path issued at an address; or a path was looked at that could not issue, and waits
under a reason. -/
inductive Did where
  | nothing
  | issued (r : PathRef) (pc : DWord)
  | waited (r : PathRef) (reason : Nat)
deriving DecidableEq, Repr

/-- What a team counts in a nominal cycle in which it issued nothing: the reason of its lowest ready path, else of its lowest path, as
each would be found in that cycle (20 R345); of the paths in `known` the reason is known. -/
def State.idleReason (ex : Instr → State → Res) (s : State) (core slot : Nat) (known : List (PathRef × Nat)) : Nat × Nat :=
  let others := (s.corePaths core).filter fun r => r.slot == slot && !known.any fun k => k.1 == r
  let q := others.foldl (pollPath ex 3) ⟨s, [], []⟩
  stallOf q.s core slot q.ready [] (q.why ++ known)

/-- The counters of a team's nominal cycle. -/
def State.tickTeam (ex : Instr → State → Res) (did : Did) (s : State) (key : Nat) : State :=
  let core := key / 64
  let slot := key % 64
  let at_ := fun (r : PathRef) => r.core == core && r.slot == slot
  let idle := fun (l : List (PathRef × Nat)) => s.closeTeam core slot none (s.idleReason ex core slot l)
  let s1 := match did with
    | .issued r pc => if at_ r then s.closeTeam core slot (some (r.path, pc)) (0, 0) else idle []
    | .waited r n => idle (if at_ r then [(r, n)] else [])
    | .nothing => idle []
  let dt := s.period core
  s1.modTeam core slot fun t => { t with paths := t.paths.map fun p =>
    (p.1, p.2.pass false false false (!s.frozen core t.w && s.timedAt ⟨core, slot, p.1⟩) dt) }

/-- A core's cycle is over: a stretched one lasts two thirds of a nanosecond (22 R374). -/
def State.cycleOver (s : State) (core : Nat) : Bool := decide ((s.core core).t3 ≤ s.time3)

/-- The cores in use, ascending. -/
def State.coresInUse (s : State) : List Nat := (s.teams.map (·.1 / 64)).foldl (fun l c => minsert c l) (s.cores.map (·.1))

/-- Every third of a nanosecond is one nominal cycle of every core in use whose last one is over: counters, units and the time base
advance. -/
def State.tick (ex : Instr → State → Res) (s : State) (did : Did) : State :=
  let cs := s.coresInUse.filter s.cycleOver
  let s1 := cs.foldl State.lookBack s
  let s2 := cs.foldl (fun s c => s.modCore c fun x => { x with notes := [] }) s1
  let s3 := ((s2.teams.map (·.1)).filter fun k => cs.contains (k / 64)).foldl (State.tickTeam ex did) s2
  let s4 := cs.foldl (fun s c => (s.enterCycle c).modCore c fun x => { x with t3 := s.time3 + s.period c }) s3
  { s4 with time3 := s4.time3 + 1 }

/-! ## Issuing one path -/

/-- The path of a state, then the next live on-chip path in the order of cores, slots and indices, wrapping round. -/
def State.allPaths (s : State) : List PathRef :=
  (s.teams.map fun q => (q.2.livePaths.filter fun i => (q.2.path i).onChip).map fun i =>
    (⟨q.1 / 64, q.1 % 64, i⟩ : PathRef)).flatten

def PathRef.key (r : PathRef) : Nat := (r.core * 64 + r.slot) * 1024 + r.path

/-- The paths after `cur`, in order, then those up to it. -/
def rotate (cur : PathRef) (l : List PathRef) : List PathRef :=
  (l.filter fun r => cur.key < r.key) ++ l.filter fun r => r.key ≤ cur.key

/-- The path with the turn goes first; a core in the middle of a stretched cycle has no slot to give. -/
def State.turns (s : State) : List PathRef :=
  let l := s.allPaths.filter fun r => s.cycleOver r.core
  if l.contains s.cur then s.cur :: (rotate s.cur l).filter (· != s.cur) else rotate s.cur l

/-- The turn passes to the next path. -/
def State.passTurn (s : State) : State :=
  match (rotate s.cur s.allPaths).head? with
  | some r => { s with cur := r }
  | none => s

/-- What a step of one path comes to: it was not able to go on; or the machine goes on or stops. -/
inductive Turn where
  | idle (s : State)
  | moved (o : Res)

/-- Run the next instruction of a path, or what it does instead (`prepare`).  An instruction that ends in a trap detected at issue has
not issued (11 R240); one that had issued and waited does not issue again, and the next may issue in the same cycle. -/
def issueOn (ex : Instr → State → Res) (r : PathRef) : Nat → State → Turn
  | 0, s => .idle s
  | fuel + 1, s =>
    match prepare s r with
    | .no _ s1 => .idle s1
    | .act n s1 => .moved (.next (s1.tick ex (.waited r n)))
    | .run i len s1 =>
    match ex i { s1 with cur := r } with
    | .next s2 =>
      if stalled (s1.path r).wait (s2.path r).wait then .idle s2
      else if !(s1.path r).wait.tries then (if waitOver (s1.path r).wait (s2.path r) then issueOn ex r fuel s2 else .idle s2)
      else if trapped s1 s2 r then .moved (.next (s2.tick ex (.waited r 12)).passTurn)
      else .moved (.next ((s2.keepCode r i len).tick ex (.issued r (s1.path r).pc)).passTurn)
    | o => .moved o

/-- The first path of a list that can go on. -/
def firstTurn (ex : Instr → State → Res) : List PathRef → State → Turn
  | [], s => .idle s
  | r :: l, s =>
    match issueOn ex r 3 s with
    | .idle s1 => firstTurn ex l s1
    | o => o

/-! ## What the hardware does by itself -/

/-- The meaning of an event with its operands. -/
abbrev Due := State → Res

/-- The events of a path. -/
def pathRows (core slot : Nat) (q : Nat × Path) : List Due :=
  ((List.range q.2.pend.length).map fun i => execLoadDataReturn core slot ⟨q.1, i⟩) ++
  [execBarrierTimeout core slot q.1]

/-- The events of a team. -/
def teamRows (q : Nat × Team) : List Due :=
  let core := q.1 / 64
  let slot := q.1 % 64
  (if q.2.life = .starting then [execTeamStart core slot] else []) ++
  (if q.2.life = .draining then [execTeamRetire core slot] else []) ++
  (if q.2.flushing then [execDeferredOpPerform core slot] else []) ++
  (if q.2.paths.any fun p => !p.2.onChip && p.2.live then [execPathUnspill core slot] else []) ++
  (q.2.paths.map fun p => pathRows core slot p).flatten

/-- The events of a workgroup. -/
def wgRows (q : Nat × Wg) : List Due :=
  let core := q.1 / 16
  let w := q.1 % 16
  ((q.2.tiles.filter fun t => t.2.loading).map fun t => execTileLoadWhole core w t.1) ++
  ((List.range q.2.levels.length).map fun i => execTreeBarrierComplete core w (i + 3))

/-- The completion event of an engine operation. -/
def opRow (core : Nat) (o : EngOp) : List Due :=
  match o.kind with
  | .cpyIn | .cpyOut | .cpym .. => [execCopyFault core o.id, execCopyComplete core o.id]
  | .gath .. | .scat .. | .gpool .. => [execCopyFault core o.id, execGatherComplete core o.id]
  | _ => [execCopyFault core o.id, execCollectiveComplete core o.id]

/-- The events of a core. -/
def coreRows (q : Nat × CoreSt) : List Due :=
  ((List.range q.2.posted.length).map fun i => execStoreAcknowledge q.1 i) ++
  ((List.range q.2.posted.length).map fun i => execPostedStoreTimeout q.1 i) ++
  (if q.2.running.isSome then [execMatrixStepEnd q.1 0] else []) ++
  (if q.2.mqueue = [] then [] else [execMatrixStepStart q.1]) ++
  (if q.2.waking then [execMatrixWakeDone q.1] else []) ++
  (if !q.2.gated && !q.2.waking then [execMatrixEngineGate q.1] else []) ++
  (q.2.ops.map fun o => opRow q.1 o).flatten ++
  (q.2.fs.map fun f => execToleranceCompareDone q.1 f.1) ++
  (q.2.preempt.map fun w => execPreemptHalted q.1 w)

/-- The events of a cluster. -/
def clusterRows (q : Nat × Cluster) : List Due :=
  (q.2.icmiss.map fun l => execInstructionCacheLineArrival q.1 l) ++
  (q.2.ring.map fun r => (r.2.slot.filter fun k => k.2.full && !k.2.published).map fun k => execRingSlotPublish q.1 r.1 k.1).flatten

/-- The events of a die. -/
def dieRows (q : Nat × Die) : List Due :=
  [execDispatchAction q.1, execFaultRecord q.1, execStopRecord q.1, execShootDone q.1, execHistFold q.1, execHistSnapshotEnd q.1]

/-- What firmware takes up again once a page it waited for is the device's (log 16). -/
def execFirmwareRetry (vi : Nat) (s : State) : Res := .next ((s.checkGraphs vi).startReplays vi 16)

/-- The events of an interface that firmware performs as soon as they are due. -/
def viRows (q : Nat × Vi) : List Due :=
  (if q.2.waiting = [] && !(q.2.graphs.any fun g => g.2.valid && !g.2.ok) then [] else [execFirmwareRetry q.1]) ++
  (q.2.replays.map fun r => (List.range r.nodes.length).map fun n => execNodeComplete q.1 r.id n).flatten ++
  ((q.2.replays.map fun r => r.mc).flatten.filter fun m => m.2.changing).map fun m => execMulticastChangeDone q.1 m.1

/-- Everything that may happen by itself. -/
def State.rows (s : State) : List Due :=
  (s.teams.map teamRows).flatten ++ (s.wgs.map wgRows).flatten ++ (s.cores.map coreRows).flatten ++
  (s.clusters.map clusterRows).flatten ++ (s.dies.map dieRows).flatten ++ (s.vis.map viRows).flatten

/-- The first of a list of events that changes the state. -/
def firstRow : List Due → State → Option Res
  | [], _ => none
  | f :: l, s =>
    match f s with
    | .next t => if t = s then firstRow l s else some (.next t)
    | o => some o

/-- A list from a place on, then its beginning: no event is left behind for ever. -/
def rotateBy {α : Type} (n : Nat) (l : List α) : List α := l.drop (n % (l.length + 1)) ++ l.take (n % (l.length + 1))

/-! ## The default schedule and the agenda -/

/-- An event that takes a cycle; without one, the alternative. -/
def timed (ex : Instr → State → Res) (o : Option Res) (other : Res) : Res :=
  match o with
  | some (.next t) => .next (t.tick ex .nothing)
  | some r => r
  | none => other

/-- What happens when nothing is named: every fourth step an event that is due; otherwise the path with the turn, or the next that can
go on; otherwise an event that is due; otherwise time passes (log 3). -/
def idleStep (ex : Instr → State → Res) (s : State) : Res :=
  let due := fun (s : State) => firstRow (rotateBy (s.time3 / 4) s.rows) s
  let go := fun (s : State) =>
    match firstTurn ex s.turns s with
    | .moved o => o
    | .idle s1 => timed ex (due s1) (.next (s1.tick ex .nothing))
  if s.time3 % 4 = 3 then timed ex (due s) (go s) else go s

/-- One occurrence of the agenda. -/
def occur (ex : Instr → State → Res) (o : Occ) (s : State) : Res :=
  match o with
  | .row i => ex i s
  | .issue r =>
    match issueOn ex r 3 s with
    | .idle s1 => .next s1
    | .moved o => o
  | .evict core line => .next (s.evict core line)
  | .tlbDrop core page => .next (s.tlbDrop core page)
  | .zfClear core w tile => .next (s.zfClear core w tile)
  | .element core op n half => .next (s.elementNow core op n half)
  | .evictWord core key => .next (s.l1CleanWord core key)
  | .bind die idx r => .next (s.fwBind die idx r)
  | .placePrivate core slot base => .next (s.placePrivate core slot base)
  | .growPrivate core slot mark => .next (s.growPrivate core slot mark)
  | .reserve die idx hold => .next (if hold then s else s.fwRelease die idx)
  | .freeRecord die idx => .next (s.fwFree die idx)
  | .peerGroup device group => .next { s with peerGroup := sput 0 s.peerGroup device (group % 2 ^ 16) }
  | .bootMeasure n block => .next (s.bootMeasure n block)
  | .peerImage v => .next { s with saves := s.saves ++ [{ v with peer := true }] }
  | .portState port down => .next (s.portState port down)

/-- A row that still acts while the device is held after a fatal error or without power (22 R379). -/
def Occ.resets : Occ → Bool
  | .row .pfReset | .row .deviceReset | .row .modulePowerLoss => true
  | _ => false

/-- The whole step, for a meaning `ex` of instructions and events. -/
def stepWith (ex : Instr → State → Res) (s : State) : Res :=
  if s.dumpHeld || !s.powered then
    match s.agenda with
    | [] => .next (s.tick ex .nothing)
    | o :: rest => if o.resets then occur ex o { s with agenda := rest } else .next { s with agenda := rest }
  else
    match s.cyc with
    | some core => .next (runCycle ex core s)
    | none =>
      match s.agenda with
      | o :: rest => occur ex o { s with agenda := rest }
      | [] => idleStep ex s

/-! ## A program put in place (log 5) -/

/-- The virtual address, and the physical address of HBM4, at which `withFetchWord` puts an instruction. -/
def fetchVa : Nat := 0x10000

/-- The image of `withFetchWord`: one workgroup of one team of 32 lanes. -/
def fetchWg : Wg :=
  { Wg.empty with used := true, tileN := 24, accN := 4, code := fetchVa, codeSize := 64, spGran := 16 }

def fetchTeam : Team :=
  Team.seedRst { Team.empty with
    life := .running, vcount := 256, scount := 128, member := List.range 32,
    paths := [(0, { Path.empty with pc := BitVec.ofNat 64 fetchVa, mask := List.range 32 })] }

/-- The bytes of a number, the zero ones left out: they are what unlisted memory reads as (log 1). -/
def codeCells (k n w : Nat) : List Host.Cell :=
  ((List.range n).map fun i => (k + i, BitVec.ofNat 8 (w / 2 ^ (8 * i)))).filter fun c => c.2 != 0

/-- What the launch of a program leaves, as far as the fetch of one instruction needs it: a running team whose path stands at the
instruction, its workgroup, the translation in the TLB, the line in the instruction cache, the bytes in HBM4, and the path's issue
as the next thing that happens. -/
def State.placed (s : State) (nbits w : Nat) : State :=
  { s with
    teams := sput Team.empty s.teams (teamKey 0 0) fetchTeam,
    wgs := sput Wg.empty s.wgs (wgKey 0 0) fetchWg,
    cores := smod CoreSt.empty s.cores 0 fun c => { c with tlb := [⟨0, fetchVa, 2 ^ 16, fetchVa, 0, true⟩], bp := [] },
    clusters := smod Cluster.empty s.clusters 0 fun c => { c with icache := minsert (icKey 0 fetchVa) c.icache },
    mem := (s.mem.filter fun c => c.1 < fetchVa) ++ codeCells fetchVa 64 (w % 2 ^ nbits) ++
           s.mem.filter fun c => fetchVa + 64 ≤ c.1,
    dumpHeld := false, powered := true, agenda := [.issue ⟨0, 0, 0⟩], cyc := none, cur := ⟨0, 0, 0⟩ }

end Sys2Proof.Machine
end

