-- ==== Sys2Proof/Safety.lean ====
section
/-!
DEFINITION. The terms in which statements about this machine are made: a path that can issue, an instruction that runs,
what completing leaves, and what stays as it was.
-/

namespace Sys2Proof.Machine

open Sys2Proof

/-- The issuing path with its team and workgroup. -/
abbrev State.here (s : State) : Here := s.hereAt s.cur

/-- The issuing path is live: it has lanes (01 R18). -/
abbrev State.live (s : State) : Prop := s.here.p.mask ≠ []

/-- No executing lane reads a poisoned element of the vector registers `vs`, and no scalar register of `ss` is poisoned
(19 R337). -/
abbrev Here.clean (h : Here) (e : Mask) (vs ss : List Nat) : Prop :=
  h.t.poisonLanes e vs = [] ∧ h.t.spoisoned ss = false

/-- The instruction or event executes: `exec` answers a next state, and `P` holds of it. -/
def Runs (i : Instr) (s : State) (P : State → Prop) : Prop := ∃ t, exec i s = .next t ∧ P t

/-! ## Completing -/

/-- The issuing path has issued an instruction and goes on at `pc`, waiting for nothing; the team has counted one issue and `n`
passes; the counters saturate where they are read (11 R248). -/
structure Went (s t : State) (pc : DWord) (n : Nat) : Prop where
  cur : t.cur = s.cur
  pc : t.here.p.pc = pc
  wait : t.here.p.wait = .none
  issued : t.here.t.issued = s.here.t.issued + 1
  passes : t.here.t.passes = s.here.t.passes + n

/-- The issuing path has completed an instruction of `len` bytes: it goes on at the next one (04 R84). -/
abbrev Completed (s t : State) (len n : Nat) : Prop := Went s t (s.here.p.pc + BitVec.ofNat 64 len) n

/-- The issuing path has ended the wait of an instruction that was counted when the wait began, and goes on at `pc` (11 R248). -/
structure WentOn (s t : State) (pc : DWord) : Prop where
  cur : t.cur = s.cur
  pc : t.here.p.pc = pc
  wait : t.here.p.wait = .none
  issued : t.here.t.issued = s.here.t.issued
  passes : t.here.t.passes = s.here.t.passes

/-- The issuing path has issued an instruction and waits in it: it stands at it with its lanes, and the team has counted the issue and
`n` passes (11 R248). -/
structure Began (s t : State) (w : Wait) (n : Nat) : Prop where
  cur : t.cur = s.cur
  pc : t.here.p.pc = s.here.p.pc
  mask : t.here.p.mask = s.here.p.mask
  wait : t.here.p.wait = w
  issued : t.here.t.issued = s.here.t.issued + 1
  passes : t.here.t.passes = s.here.t.passes + n

/-- The instruction, of `len` bytes, traps at issue with this cause, INFO and lane, and has no other effect (11 R239 to R242). -/
def TrapsAt (i : Instr) (s : State) (len cause info lane : Nat) : Prop :=
  exec i s = .next (s.trapHere s.cur len cause info lane)

/-! ## What stays -/

/-- Every byte of memory reads as before. -/
def SameMem (s t : State) : Prop := ∀ a, t.mget a = s.mget a

/-- Nothing has changed outside the issuing team, but for what a trap hands to firmware: stop records of the dies and requests
to end a launch (11 R240, 20 R352). -/
structure OnlyTeam (s t : State) : Prop where
  rest : t = { s with teams := t.teams, dies := t.dies, ends := t.ends }
  others : ∀ c k, teamKey c k ≠ teamKey s.cur.core s.cur.slot → t.team c k = s.team c k

/-- The registers of a team outside the written places: vector elements and predicates by place (register × 1024 + lane), scalar
and guard registers by number. -/
structure RegsKept (t u : Team) (vs ps ss gs : List Nat) : Prop where
  v : ∀ k, k ∉ vs → sget 0 u.vregs k = sget 0 t.vregs k ∧ sget false u.vpoison k = sget false t.vpoison k
  p : ∀ k, k ∉ ps → sget false u.preds k = sget false t.preds k
  s : ∀ r, r ∉ ss → u.sgetr r = t.sgetr r ∧ sget false u.spoison r = sget false t.spoison r
  g : ∀ n, n ∉ gs → u.gget n = t.gget n

/-- The places of some lanes of a register. -/
def places (r : Nat) (e : Mask) : List Nat := e.map fun l => r * 1024 + l

/-- The paths of a team outside the issuing one are as before; the issuing path keeps its lanes and its token stack; its trap
record (11 R241) changes only when a trap is taken, which sets INH. -/
structure PathsKept (s t : State) : Prop where
  others : ∀ p, p ≠ s.cur.path → t.here.t.path p = s.here.t.path p
  mask : t.here.p.mask = s.here.p.mask
  stack : t.here.p.stack = s.here.p.stack
  record : t.here.p.inh = s.here.p.inh →
    t.here.p.tcause = s.here.p.tcause ∧ t.here.p.twin = s.here.p.twin ∧ t.here.p.tpc = s.here.p.tpc ∧
    t.here.p.tresume = s.here.p.tresume ∧ t.here.p.tinfo = s.here.p.tinfo ∧ t.here.p.tlane = s.here.p.tlane

end Sys2Proof.Machine
end

