-- ==== Sys2Proof/WellFormed.lean ====
section
/-!
DEFINITION. A well-formed instruction: every field satisfies its rule, and a pair its pairing rules.
-/

namespace Sys2Proof

/-- The instruction's encoding passes steps 4 and 5 of 05 R112 in a section that declares `lim`.  The checks are those
of Decode.lean: guard (04 R86), operand indices (R87), type (R88), modifier (R89), bits 63:60 (R90), literal (R92),
pair fields (R93, R94), prism (R97 to R103), control fields (06 R115) and pairing (04 R95).  An event has no encoding and
no rule to break. -/
def WellFormed (lim : Limits) (i : Instr) : Bool := fieldsOk lim i && pairingOk i

end Sys2Proof
end

