-- ==== Sys2Proof/Certificates/Slice0/Obligations.lean ====
section
/-!
DEFINITION. The statements about this machine that are offered for proof.  Each is a Prop `Obligations.<Name>`; the tables
before them give, per instruction, the value that the rules of spec/ state.
-/

open Sys2Proof Sys2Proof.Machine

namespace Sys2Proof.Spec

/-- A 64-bit address moved by the signed 20-bit field TGT in units of 8 bytes (06 R115). -/
def jump (pc : DWord) (tgt : Nat) : DWord := pc + BitVec.ofInt 64 (8 * (BitVec.ofNat 20 tgt).toInt)

/-! ## Scalar instructions (06 R133 to R138) -/

/-- The instructions of R133 that write sD, with the sources they read and their results for source values A, B, C. -/
def scalarTable (x : Args) (A B C : Word) : List (Instr × List (LSel × Nat) × Word) :=
  let a := (LSel.a, x.a)
  let b := (LSel.b, x.b)
  let n := B.toNat % 64
  [(.sadd x, [a, b], A + B), (.ssub x, [a, b], A - B), (.smul x, [a, b], A * B),
   (.smulh { x with ty := .i32 }, [a, b], BitVec.ofInt 32 (A.toInt * B.toInt / 2 ^ 32)),
   (.smulh { x with ty := .n32 }, [a, b], BitVec.ofNat 32 (A.toNat * B.toNat / 2 ^ 32)),
   (.smad x, [a, b, (.c, x.c)], A * B + C),
   (.sand x, [a, b], A &&& B), (.sor x, [a, b], A ||| B), (.sxor x, [a, b], A ^^^ B), (.snot x, [a], ~~~A),
   (.sshl x, [a, b], if 32 ≤ n then 0 else A <<< n), (.sshr x, [a, b], if 32 ≤ n then 0 else A >>> n),
   (.ssra x, [a, b], A.sshiftRight (min n 31)),
   (.smin { x with ty := .i32 }, [a, b], if B.slt A then B else A),
   (.smin { x with ty := .n32 }, [a, b], if B.ult A then B else A),
   (.smax { x with ty := .i32 }, [a, b], if A.slt B then B else A),
   (.smax { x with ty := .n32 }, [a, b], if A.ult B then B else A),
   (.spop x, [a], BitVec.ofNat 32 ((List.range 32).filter fun i => A.getLsbD i).length),
   (.sclz x, [a], if A = 0 then 32 else BitVec.ofNat 32 (31 - Nat.log2 A.toNat)),
   (.smov x, [a], A), (.sli x, [a], A)]

/-- The scalar and the guard registers that an instruction of the scalar group writes. -/
def scalarDests : Instr → Option (List Nat × List Nat)
  | .sadd x | .ssub x | .smul x | .smulh x | .smad x | .sand x | .sor x | .sxor x | .snot x | .sshl x | .sshr x | .ssra x
  | .smin x | .smax x | .spop x | .sclz x | .ssel x | .smov x | .sli x | .sget x => some ([x.d], [])
  | .dadd x | .dsub x | .dmov x | .slea x => some ([2 * x.d, 2 * x.d + 1], [])
  | .scmp _ x => some ([], [x.d])
  | _ => none

/-- The condition of `scmp` on two words (04 R100): signed for `.i32`, unsigned for `.n32`, bits for `.b32`. -/
def wordCond (c : Cond) (t : Ty) (A B : Word) : Option Bool :=
  match t, c with
  | .i32, .eq | .n32, .eq | .b32, .eq => some (A == B)
  | .i32, .ne | .n32, .ne | .b32, .ne => some (A != B)
  | .i32, .lt => some (A.slt B)
  | .i32, .le => some (A.sle B)
  | .i32, .gt => some (B.slt A)
  | .i32, .ge => some (B.sle A)
  | .n32, .lt => some (A.ult B)
  | .n32, .le => some (A.ule B)
  | .n32, .gt => some (B.ult A)
  | .n32, .ge => some (B.ule A)
  | .b32, .any => some (A &&& B != 0)
  | .b32, .none => some (A &&& B == 0)
  | _, _ => none

end Sys2Proof.Spec

/-! ## Encoding, fetch and reset -/

/-- Words written out bit by bit from the spec's encodings decode to the instructions they stand for, and words that no encoding
allows are turned away by name: an opcode that does not exist, a reserved bit, a type the row does not have (04 R83 to R97, 05 R108 to
R112). -/
def Obligations.DecodeWords : Prop :=
  let always : Guard := ⟨false, 7⟩
  let ctl := fun (opnd tgt token : Nat) => (⟨always, opnd, tgt, token, 0⟩ : Ctl)
  let args := fun (d a b c : Nat) (t : Ty) => (⟨always, d, a, b, c, t, 0, 0, none⟩ : Args)
  (∀ q ∈ [([0x0030_0030_2017_00C0], Instr.vadd (args 1 2 3 0 .i32)), ([0x0000_0000_4007_0004], Instr.bra (ctl 0 4 0)),
      ([0x0003_0000_6077_000C], Instr.brv (ctl 7 6 3)), ([0x0003_0000_0007_0020], Instr.join (ctl 0 0 3)),
      ([0x0000_0000_0007_002C], Instr.nop (ctl 0 0 0)), ([0x0000_2020_1047_01A8], Instr.vpush (args 4 1 2 2 .b32)),
      ([0x0000_0000_5002_0300], Instr.trap { args 0 5 0 0 .b32 with guard := ⟨false, 2⟩ }),
      ([0x0000_0008_9007_0304], Instr.tret (args 0 137 0 0 .b32)), ([0x0000_0000_0037_0258], Instr.mcommit (args 3 0 0 0 .b32)),
      ([0x0000_0000_2067_0314], Instr.pmread (args 6 2 0 0 .b32))],
    decode maxLimits 0 q.1 = .ok (q.2, 8)) ∧
  decode maxLimits 0 [0x0030_0000_4017_0919, 0x0000_0001_0000_0000] =
    .ok (Instr.vcmp .lt { args 1 4 0 0 .i32 with lit := some ⟨.b, 0⟩ }, 16) ∧
  (∀ w ∈ [0x0000_0000_0000_0000, 0x0030_0030_2017_04C0, 0x0030_0030_2017_00C3], decode maxLimits 0 [w] = .error .opcode) ∧
  ∀ w ∈ [0x00C0_0030_2017_00C0, 0x0030_0030_201F_00C0], decode maxLimits 0 [w] = .error .encoding

/-- Decoding the words of a well-formed instruction, at an address aligned to its length, gives the instruction and its length,
for every field at every value the encoding admits (04 R83 to R106, 05 R112). -/
def Obligations.DecodeOfEncode : Prop :=
  ∀ (lim : Limits) (pc : Nat) (i : Instr), WellFormed lim i = true → i.view ≠ .event →
    pc % (8 * (encode i).length) = 0 → decode lim pc (encode i) = .ok (i, 8 * (encode i).length)

/-- What decodes is well formed, and its words are those the encoder gives: no two encodings mean one instruction, and no bit
of a word is passed over (05 R112). -/
def Obligations.EncodeOfDecode : Prop :=
  ∀ (lim : Limits) (pc : Nat) (ws : List Nat) (i : Instr) (len : Nat), (∀ w ∈ ws, w < 2 ^ 64) →
    decode lim pc ws = .ok (i, len) →
    WellFormed lim i = true ∧ (List.range (len / 8)).map (fun k => ws.getD k 0) = encode i ∧ pc % len = 0

/-- Reset leaves no team, no workgroup and nothing listed in memory (what unlisted memory reads as is the model's choice, log 1 and log
2); the power limit is 2,700 W and the
temperature thresholds are 95, 102 and 110 degrees (22 R373, R375); every core starts with its matrix engine gated (11 R257). -/
def Obligations.ResetState : Prop :=
  State.reset.mem = [] ∧ State.reset.teams = [] ∧ State.reset.wgs = [] ∧ State.reset.pwrlim = 2700 ∧
  State.reset.tlim0 = 95 * 8 ∧ State.reset.tlim1 = 102 * 8 ∧ State.reset.tlim2 = 110 * 8 ∧
  (∀ c, (State.reset.core c).gated = true) ∧ (∀ c, (State.reset.core c).mxidle = 0x400) ∧
  (∀ c, (State.reset.cluster c).pacap = 0x4000 ∧ (State.reset.cluster c).parate = 0x400)

/-- Memory stays in canonical form at every step: addresses rise strictly, and no listed byte is the one unlisted memory reads as
(the form of memory is the model's own, log 1). -/
def Obligations.MemoryStaysCanonical : Prop :=
  ∀ s t : State, Memory.wf s.mem = true → step s = .next t → Memory.wf t.mem = true

/-- When the words at the program counter of a running path decode to a well-formed instruction `i`, the step is `exec` of `i`. The
path is on chip, waits for nothing, is in no lookahead window and has nothing outstanding; its address translates through the TLB,
its line is in the instruction cache, and no comparator matches.  Around `exec`: the path keeps an instruction that it has issued
and waits in, the time base advances and the turn passes, unless the instruction is left waiting; a trap detected at issue counts as
a wait under reason 12 (04 R83, R84, 01 R18, 11 R240, R256; whose turn it is: the model's order, log 3). -/
def Obligations.StepRunsDecoded : Prop :=
  ∀ (s : State) (r : PathRef) (rest : List Occ) (e : Tlb) (i : Instr) (len : Nat),
    let h := s.hereAt r
    let pc := h.p.pc.toNat
    let pa := e.frame + (pc - e.base)
    s.dumpHeld = false → s.powered = true → s.cyc = none →
    (s.agenda = .issue r :: rest ∨
      s.agenda = [] ∧ rest = [] ∧ s.time3 % 4 ≠ 3 ∧ s.cur = r ∧ s.allPaths.contains r = true ∧
        (s.core r.core).t3 ≤ s.time3) →
    h.t.life = .running → h.p.mask ≠ [] → h.p.onChip = true → h.p.eclipse = none → h.p.wait = .none → h.p.parked = none →
    h.p.window = 0 → h.p.pend = [] → h.p.busy = [] → h.p.away = false → h.p.pendTrap = none →
    (s.core r.core).tlbHit h.g.vi pc = some e → pc < 2 ^ 57 → s.unreachable h.g.vi e.tgt pa = false →
    h.t.overMark pc = false → (s.cluster (clusterOf r.core)).icache.contains (icKey h.g.vi pc) = true →
    s.breakHit r.core h.g.vi h.p.pc = none →
    decode h.limits pc (s.wordsAt (pKey e.tgt pa)) = .ok (i, len) →
    WellFormed h.limits i = true ∧
    (∀ t, exec i { s with agenda := rest, cur := r } = .next t → stalled .none (t.path r).wait = false → trapped s t r = false →
      step s = .next ((t.keepCode r i len).tick exec (.issued r h.p.pc)).passTurn) ∧
    (∀ t, exec i { s with agenda := rest, cur := r } = .next t → stalled .none (t.path r).wait = false → trapped s t r = true →
      step s = .next (t.tick exec (.waited r 12)).passTurn) ∧
    (∀ t, exec i { s with agenda := rest, cur := r } = .next t → stalled .none (t.path r).wait = true →
      s.agenda ≠ [] → step s = .next t)

/-! ## Traps -/

/-- Taking a trap writes the path's trap record and continues at the trap entry: cause, the window count 0, the offset of the
trapping instruction and of the next one, INFO, the lane; INH is set; the delivery lasts one cycle under reason 12 (log 48). 
Registers, token stack, lanes and memory stay, and nothing is counted.  It holds for a path outside a handler, of a launch with a
trap entry, in no window, and not for a BREAK or WATCH that debugging takes.  A trap inside a handler, or in a launch without a trap
entry, ends the launch: the path stays parked with its record as it was, and the request names the trap (11 R240, R241, 19 R339). -/
def Obligations.Traps : Prop :=
  (∀ (s : State) (len cause info lane : Nat),
    let h := s.here
    h.p.pendTrap = none → h.p.inh = false → h.g.trapEntry ≠ 0xFFFFFFFF → cause ≠ tcBreak → cause ≠ tcWatch →
    let t := s.trapHere s.cur len cause info lane
    let q := t.here.p
    q.tcause = cause ∧ q.twin = 0 ∧ q.tpc = h.offset h.p.pc ∧ q.tresume = h.offset (h.p.pc + BitVec.ofNat 64 len) ∧
    q.tinfo = BitVec.ofNat 64 info ∧ q.tlane = BitVec.ofNat 32 lane ∧ q.inh = true ∧
    q.pc = BitVec.ofNat 64 (h.g.code + h.g.trapEntry) ∧ q.wait = .pause 12 ∧ q.mask = h.p.mask ∧ q.stack = h.p.stack ∧
    t.here.t = { h.t with paths := t.here.t.paths } ∧ OnlyTeam s t ∧ SameMem s t) ∧
  (∀ (s : State) (len cause info lane : Nat),
    let h := s.here
    h.p.pendTrap = none → (h.p.inh = true ∨ h.g.trapEntry = 0xFFFFFFFF) → cause ≠ tcBreak → cause ≠ tcWatch →
    let t := s.trapHere s.cur len cause info lane
    (∃ e : EndReq, t.ends = s.ends ++ [e] ∧ e.vi = h.g.vi ∧ e.replay = h.g.replay ∧ e.node = h.g.node ∧
      (e.words.getD 0 0).toNat % 2 ^ 8 = cause % 2 ^ 8 ∧ e.words.getD 3 0 = BitVec.ofNat 64 info) ∧
    t.here.p = { h.p with wait := .trap } ∧ OnlyTeam s t ∧ SameMem s t)

/-- The listed instructions, without a literal, trap POISON when they read a poisoned register, before they are counted (at issue: log
49): INFO is the lowest executing lane that reads a poisoned vector element; for a scalar register it is the lowest active lane (07
R145, 19 R337). -/
def Obligations.PoisonTraps : Prop :=
  ∀ (s : State) (x : Args) (c : Cond) (i : Instr), s.live → x.lit = none →
    let h := s.here
    let e := h.execLanes x.guard
    let low := fun (rs : List Nat) => leastOf (h.t.poisonLanes e rs)
    (i ∈ [Instr.vadd x, .vsub x, .vmul x, .vmulh x, .vmin x, .vmax x, .vand x, .vor x, .vxor x, .vandn x, .vshl x, .vshr x,
        .vsra x, .vrot x, .vbfe x, .vcmp c x, .vsel x, .vshfl x, .vpush x] →
      h.t.poisonLanes e [x.a, x.b] ≠ [] → TrapsAt i s 8 tcPoison (low [x.a, x.b]) (low [x.a, x.b])) ∧
    (i ∈ [Instr.vmad x, .vbfi x, .vdot4 x, .vsad x] →
      h.t.poisonLanes e [x.a, x.b, x.c] ≠ [] → TrapsAt i s 8 tcPoison (low [x.a, x.b, x.c]) (low [x.a, x.b, x.c])) ∧
    (i ∈ [Instr.vneg x, .vabs x, .vnot x, .vpop x, .vclz x, .vmov x, .vclass x, .vround x, .vrcp x, .vrsq x, .vsqrt x,
        .vexp2 x, .vlog2 x, .vsin x, .vcos x, .vtanh x, .vsigm x, .vunpack x, .vdrop x] →
      h.t.poisonLanes e [x.a] ≠ [] → TrapsAt i s 8 tcPoison (low [x.a]) (low [x.a])) ∧
    (i ∈ [Instr.sadd x, .ssub x, .smul x, .smulh x, .sand x, .sor x, .sxor x, .sshl x, .sshr x, .ssra x, .smin x, .smax x,
        .scmp c x, .ssel x] →
      h.t.spoisoned [x.a, x.b] = true → TrapsAt i s 8 tcPoison (leastOf h.p.mask) (leastOf h.p.mask))

/-! ## Control -/

/-- The jumps: `bra` goes to its target; `loop` counts sA down and goes to its target while the count is not 0; `call` gives every
active lane the image offset of the next instruction and goes to its target; `ret` goes to the offset that all active lanes hold, and
checks in order: lanes that differ trap ILLEGAL_CONVERGENCE, an offset that is not a multiple of 8 traps ALIGN, one outside the code
traps MEM_FATAL.  `nop`, `ipref` and `yield` only go on: the cluster's instruction cache may be asked for lines of the image, and a path
that yields does not issue in the following cycle (06 R119, R123 to R125, R129 to R131; that INFO is the offset: log 49). -/
def Obligations.JumpsAndHints : Prop :=
  (∀ (s : State) (x : Ctl), s.live →
    let h := s.here
    let next := h.p.pc + 8
    let there := Spec.jump h.p.pc x.tgt
    let v := h.t.vget x.opnd (leastOf h.p.mask)
    Runs (.bra x) s (fun t => Went s t there 0) ∧
    (h.clean [] [] [x.opnd] → Runs (.loop x) s fun t =>
      t.here.t.sgetr x.opnd = h.t.sgetr x.opnd - 1 ∧ Went s t (if h.t.sgetr x.opnd = 1 then next else there) 0) ∧
    Runs (.call x) s (fun t =>
      (∀ l ∈ h.p.mask, t.here.t.vget x.opnd l = h.offset h.p.pc + 8) ∧ Went s t there 0) ∧
    (h.clean h.p.mask [x.opnd] [] → (∀ l ∈ h.p.mask, h.t.vget x.opnd l = v) → v.toNat % 8 = 0 → v.toNat < h.g.codeSize →
      Runs (.ret x) s fun t => Went s t (BitVec.ofNat 64 (h.g.code + v.toNat)) 0)) ∧
  (∀ (s : State) (x : Ctl), s.live →
    let h := s.here
    let low := leastOf h.p.mask
    let v := h.t.vget x.opnd low
    h.clean h.p.mask [x.opnd] [] →
    ((∃ l ∈ h.p.mask, h.t.vget x.opnd l ≠ v) → TrapsAt (.ret x) s 8 tcIllegalConvergence 0 low) ∧
    ((∀ l ∈ h.p.mask, h.t.vget x.opnd l = v) →
      (v.toNat % 8 ≠ 0 → TrapsAt (.ret x) s 8 tcAlign v.toNat low) ∧
      (v.toNat % 8 = 0 → h.g.codeSize ≤ v.toNat → TrapsAt (.ret x) s 8 tcMemFatal v.toNat low))) ∧
  (∀ (s : State) (x : Ctl), s.live →
    Runs (.nop x) s (fun t => Completed s t 8 0) ∧
    Runs (.ipref x) s (fun t => Completed s t 8 0 ∧ SameMem s t ∧ t.here.t = { s.here.t with
      paths := t.here.t.paths, issued := t.here.t.issued, passes := t.here.t.passes } ∧
      ∀ k ∈ (s.cluster (clusterOf s.cur.core)).icmiss, k ∈ (t.cluster (clusterOf s.cur.core)).icmiss) ∧
    Runs (.yield x) s (fun t => Completed s t 8 0 ∧ t.here.p.yielded = 2))

namespace Sys2Proof.Spec

/-- The successor of each lane under the branches of 06 R120 to R122, and their successor order (01 R19). -/
def branchTo (h : Here) (i : Instr) : Option (Ctl × List DWord × (Nat → DWord)) :=
  let next := h.p.pc + 8
  match i with
  | .brc x =>
    let there := jump h.p.pc x.tgt
    let on := fun (l : Nat) => if x.aux / 2 % 2 = 1 then h.t.gget x.opnd else h.t.pred x.opnd l
    some (x, [next, there], fun l => if on l ≠ (x.aux % 2 == 1) then there else next)
  | .brv x =>
    let there := jump h.p.pc x.tgt
    let on := fun (l : Nat) =>
      if x.aux / 2 % 2 = 1 then
        !(flushIn h.t.fmode .f32 (h.t.vget x.opnd l).toNat).eqv (.num (.zero false))
      else h.t.vget x.opnd l ≠ 0
    some (x, [next, there], fun l => if on l ≠ (x.aux % 2 == 1) then there else next)
  | .brx x =>
    let entry := fun (k : Nat) => jump h.p.pc x.tgt + BitVec.ofNat 64 (8 * k)
    some (x, next :: (List.range (x.aux + 1)).map entry,
      fun l => let k := (h.t.vget x.opnd l).toNat; if k < x.aux + 1 then entry k else next)
  | _ => none

/-- The vector registers that a branch reads. -/
def branchReads : Instr → List Nat
  | .brv x | .brx x => [x.opnd]
  | _ => []

/-- A split of the path's lanes by their successors spills beyond the high-water mark (01 R26, 19 R336). -/
def spillsOver (s : State) (order : List DWord) (succ : Nat → DWord) (token : Nat) : Bool :=
  s.splitOver s.here order (s.here.p.mask.map fun l => (l, some (succ l))) token

/-- The instruction, of `len` bytes, has done nothing; its path is parked with all its lanes on a fault at the high-water mark and
executes it again (19 R336): cause 0x04, a write from SRC 5. -/
def spillParks (s t : State) (len : Nat) : Prop :=
  let h := s.here
  let va := h.t.privBase + h.t.privMark
  t.here.p.wait = .parked ∧ t.here.p.pc = h.p.pc ∧ t.here.p.mask = h.p.mask ∧ t.here.p.stack = h.p.stack ∧ SameMem s t ∧
  (∀ q, q ≠ s.cur.path → t.here.t.path q = h.t.path q) ∧
  (∃ k, t.here.p.parked = some k ∧ k.op = .again ∧ k.at_ = h.p.pc ∧ k.resume = h.p.pc + BitVec.ofNat 64 len ∧
    k.lanes = h.p.mask.map fun l => ⟨l, va, 0, 0⟩) ∧
  ∃ q, (t.die (dieOf s.cur.core)).faultQ = (s.die (dieOf s.cur.core)).faultQ ++ [q] ∧ q.words.getD 0 0 = BitVec.ofNat 64 va ∧
    (q.words.getD 1 0).toNat % 2 ^ 16 = 0x5104

/-- A split that leaves the issuing team as `t` can spill what it has to: it spills nothing more, or what is spilled lies below the
high-water mark in pages that take the store (01 R25, R26, 19 R336). -/
def spillFits (s : State) (t : Team) : Prop :=
  s.here.t.spillsMore t = false ∨ t.spillSize ≤ s.here.t.privMark ∧
    ∀ q ∈ s.spillLines s.here t.spillSize true, ∃ tgt pa w base size, q.2 = .ok tgt pa w base size

/-- What it has to spill lies below the mark, and a page of it does not take the store (19 R328, R336). -/
def spillFaults (s : State) (t : Team) : Prop :=
  s.here.t.spillsMore t = true ∧ t.spillSize ≤ s.here.t.privMark ∧
    ∃ q ∈ s.spillLines s.here t.spillSize true, ∃ fatal cause base psz, q.2 = .bad fatal cause base psz

/-- The instruction has not run: the path stands with its lanes and its token stack, no other path and no byte of memory has changed; a
fault record is on its way, or the path waits under reason 12 for room in the ring. -/
def notRun (s t : State) : Prop :=
  let d := dieOf s.cur.core
  t.here.p.mask = s.here.p.mask ∧ t.here.p.stack = s.here.p.stack ∧ t.here.t.member = s.here.t.member ∧
  (∀ q, q ≠ s.cur.path → t.here.t.path q = s.here.t.path q) ∧ SameMem s t ∧
  (t = s.waitFor s.cur 12 ∨ s.faultRoom s.cur.core 1 = true ∧ ∃ q l, (t.die d).faultQ = (s.die d).faultQ ++ q :: l)

/-- The team as a split by the lanes' successors leaves it. -/
def splitBy (s : State) (order : List DWord) (succ : Nat → DWord) (token : Nat) : Team :=
  s.splitTeam s.here order (s.here.p.mask.map fun l => (l, some (succ l))) token

/-- The tokens that a split pushes (01 R21). -/
def pushed (h : Here) (x : Ctl) : List (Nat × Nat) := if x.token = 0 then [] else [(x.token, h.t.inst)]

end Sys2Proof.Spec

/-- A branch whose lanes all take one successor goes there with all its lanes; a token is pushed all the same.  A two-way branch
that diverges: the larger group continues in place, a tie goes to the lanes that take next; the other group becomes a new path at
the lowest index not live, with the same tokens.  After any branch every lane of the path is on a live path that stands at the
lane's successor and carries the pushed token; no member lane leaves.  A branch whose spilled paths or tokens go beyond the team's
high-water mark does nothing and parks on a fault of cause 0x04, or waits under reason 12 while the fault ring has no room (19
R331); one whose spill meets a page that does not take the store faults instead of running; how many bytes a spill takes is a free
value, log 25 (01 R19, R21, R25, R26, 06 R120 to R122, 19 R336). -/
def Obligations.Branches : Prop :=
  (∀ (s : State) (i : Instr) (x : Ctl) (order : List DWord) (succ : Nat → DWord) (a : DWord), s.live →
    let h := s.here
    Spec.branchTo h i = some (x, order, succ) → h.clean h.p.mask (Spec.branchReads i) [] →
    (∀ l ∈ h.p.mask, succ l = a) → Spec.spillFits s (Spec.splitBy s order succ x.token) →
    Runs i s fun t => Went s t a 0 ∧ t.here.p.mask = h.p.mask ∧ t.here.p.stack = Spec.pushed h x ++ h.p.stack ∧
      t.here.t.inst = (if x.token = 0 then h.t.inst else h.t.inst + 1) ∧
      ∀ q, q ≠ s.cur.path → t.here.t.path q = h.t.path q) ∧
  (∀ (s : State) (i : Instr) (x : Ctl) (next there : DWord) (succ : Nat → DWord), s.live →
    let h := s.here
    let stay := h.p.mask.filter fun l => succ l = next
    let go := h.p.mask.filter fun l => succ l = there
    let big := if stay.length < go.length then (there, go) else (next, stay)
    let small := if stay.length < go.length then (next, stay) else (there, go)
    Spec.branchTo h i = some (x, [next, there], succ) → h.clean h.p.mask (Spec.branchReads i) [] →
    stay ≠ [] → go ≠ [] → next ≠ there → Spec.spillFits s (Spec.splitBy s [next, there] succ x.token) →
    Runs i s fun t => Went s t big.1 0 ∧ t.here.p.mask = big.2 ∧ t.here.p.stack = Spec.pushed h x ++ h.p.stack ∧
      ∃ q, q ∉ h.t.livePaths ∧ (∀ j, j < q → j ∈ h.t.livePaths) ∧
        (t.here.t.path q).pc = small.1 ∧ (t.here.t.path q).mask = small.2 ∧
        (t.here.t.path q).stack = Spec.pushed h x ++ h.p.stack ∧
        ∀ j, j ≠ s.cur.path → j ≠ q → t.here.t.path j = h.t.path j) ∧
  (∀ (s : State) (i : Instr) (x : Ctl) (order : List DWord) (succ : Nat → DWord), s.live →
    let h := s.here
    Spec.branchTo h i = some (x, order, succ) → h.clean h.p.mask (Spec.branchReads i) [] →
    (Spec.spillFits s (Spec.splitBy s order succ x.token) → Runs i s fun t => t.here.t.member = h.t.member ∧
      ∀ l ∈ h.p.mask, ∃ q, l ∈ (t.here.t.path q).mask ∧ (t.here.t.path q).pc = succ l ∧
        (t.here.t.path q).stack = Spec.pushed h x ++ h.p.stack) ∧
    (Spec.spillsOver s order succ x.token = true →
      (s.faultRoom s.cur.core 1 = true → Runs i s fun t => Spec.spillParks s t 8) ∧
      (s.faultRoom s.cur.core 1 = false → exec i s = .next (s.waitFor s.cur 12))) ∧
    (Spec.spillFaults s (Spec.splitBy s order succ x.token) → Runs i s fun t => Spec.notRun s t))

/-- `exit`: lanes whose guard holds leave the members and the path; the others go on at next.  When a lane remains in the team but
none on the path, the path ends.  An `exit` that would empty a team that holds an unresolved speculation id traps SPEC_ILLEGAL (a
team whose ids have resolved may leave: log 41); `join` without the token on top of the stack traps ILLEGAL_CONVERGENCE.  `join` and
the merge: a path waits until its stores to other slices are performed (12 R276), and then arrives, after one load from the private
region when it holds more than four entries (01 R25, log 25); a path that has arrived waits while some live path that holds the
instance has not arrived, or has arrived and is spilled (01 R22, R23; of more than 16 paths that hold one instance not all can have
a table entry, and there a spilled path counts: log 46); the arrived paths merge into the first of them, which has the lanes of all,
the instance popped, and goes on after its own join (log 40, where the joins differ); JOIN_MERGE does the same for paths that
already wait (06 R127, R128, 01 R13, R41, 10 R233). -/
def Obligations.ExitsAndJoins : Prop :=
  ((∀ (s : State) (x : Ctl), s.live →
    let h := s.here
    let e := h.execLanes x.guard
    let rest := h.p.mask.filter fun l => !e.contains l
    s.exitIllegal h e = false →
    Runs (.exit x) s fun t =>
      (rest ≠ [] → mdiff h.t.member e ≠ [] → Went s t (h.p.pc + 8) 0 ∧ t.here.p.mask = rest ∧ t.here.p.stack = h.p.stack) ∧
      (rest = [] → t.here.p.mask = []) ∧
      (mdiff h.t.member e ≠ [] → t.here.t.member = mdiff h.t.member e ∧
        ∀ q, q ≠ s.cur.path → t.here.t.path q = h.t.path q) ∧
      (mdiff h.t.member e = [] → rest = [] → t.here.t.life = .draining ∧ t.here.t.member = [] ∧ t.here.t.livePaths = [])) ∧
  (∀ (s : State) (x : Ctl), s.live →
    let h := s.here
    let e := h.execLanes x.guard
    (e ≠ [] → mdiff h.t.member e = [] → (s.core s.cur.core).unresolved h.t.ids ≠ [] →
      TrapsAt (.exit x) s 8 tcSpecIllegal 0 (leastOf e)) ∧
    ((∀ i, h.p.stack.head? ≠ some (x.token, i)) → TrapsAt (.join x) s 8 tcIllegalConvergence 0 (leastOf h.p.mask)))) ∧
  (∀ (s : State) (x : Ctl) (inst core slot tok i : Nat) (p : Path) (others : List (Nat × Path)), s.live →
    let h := s.here
    let a := (s.count s.cur 0).modPath s.cur fun p => { p with wait := .join x.token inst, window := 0, skipCmp := false }
    let m := (s.team core slot).merge tok inst
    ((s.team core slot).joinReady tok inst = true ↔ ∀ q ∈ (s.team core slot).paths, (tok, inst) ∈ q.2.stack →
      q.2.wait = .join tok inst ∧ (q.2.onChip = true ∨
        16 < ((s.team core slot).paths.filter fun k => decide ((tok, inst) ∈ k.2.stack)).length)) ∧
    (h.p.stack.head? = some (x.token, inst) → h.p.wait ≠ .join x.token inst →
      (s.core s.cur.core).unperformed s.cur.slot s.cur.path 0 = true → exec (.join x) s = .next (s.stallFor s.cur 2)) ∧
    (h.p.stack.head? = some (x.token, inst) → h.p.wait ≠ .join x.token inst →
      (s.core s.cur.core).unperformed s.cur.slot s.cur.path 0 = false →
      (h.p.stack.length ≤ 4 ∨ ∀ q ∈ s.spillLines h h.t.spillSize false, ∃ tgt pa w base size, q.2 = .ok tgt pa w base size) →
      (a.here.t.joinReady x.token inst = false → Runs (.join x) s fun t =>
        t.here.p.wait = .join x.token inst ∧ t.here.p.pc = h.p.pc ∧ t.here.p.mask = h.p.mask) ∧
      (a.here.t.joinReady x.token inst = true → Runs (.join x) s fun t =>
        t.here.t = a.here.t.merge x.token inst)) ∧
    Runs (.joinMerge core slot tok inst) s (fun t =>
      ((s.team core slot).joinReady tok inst = true → t.team core slot = m) ∧
      ((s.team core slot).joinReady tok inst = false → t = s)) ∧
    ((s.team core slot).arrived tok inst = (i, p) :: others →
      (∀ l, l ∈ (m.path i).mask ↔ l ∈ p.mask ∨ ∃ q ∈ others, l ∈ q.2.mask) ∧
      (m.path i).stack = p.stack.drop 1 ∧ (m.path i).pc = p.pc + 8 ∧ (m.path i).wait = .none ∧
      (∀ q ∈ others, q.1 ≠ i → m.path q.1 = Path.empty) ∧
      ∀ j, j ≠ i → (∀ q ∈ others, q.1 ≠ j) → m.path j = (s.team core slot).path j))

namespace Sys2Proof.Spec

/-- The way of a lane through a prism (01 R28, 06 R126): the positions it visits, root first, each with whether its test holds. -/
def wayFrom (h : Here) (x : Prism) (l : Nat) : Nat → Nat → List (Nat × Bool)
  | 0, _ => []
  | fuel + 1, n =>
    let c := (h.testVal x (x.tests.getD n PTest.zero) l).1
    let next := if c then 2 * n + 1 else 2 * n + 2
    (n, c) :: (if x.has next then wayFrom h x l fuel next else [])

def way (h : Here) (x : Prism) (l : Nat) : List (Nat × Bool) := wayFrom h x l 3 0

/-- The edge that leaves a position to one side (04 R101). -/
def edgeOf (p : Nat × Bool) : Nat := if p.2 then 2 * p.1 else 2 * p.1 + 1

/-- The arcs a lane crosses, root first (04 R101). -/
def crossed (h : Here) (x : Prism) (l : Nat) : List PArc :=
  (way h x l).filterMap fun p => (x.arcs.take x.arcn).find? fun r => r.edge = edgeOf p

/-- The leaf code at which the way of a lane ends (04 R98, R103). -/
def leafCode (h : Here) (x : Prism) (l : Nat) : Nat :=
  match (way h x l).getLast? with
  | some p => x.leaf.getD (leafSlot (edgeOf p + 1)) 0
  | none => 0

/-- Where a lane goes: next when it does not execute, else as its leaf says; none for exit (04 R103). -/
def prismTo (h : Here) (x : Prism) (l : Nat) : Option DWord :=
  if l ∈ h.execLanes x.guard then
    match leafCode h x l with
    | 0 => some (h.p.pc + 64)
    | 1 => some (jump h.p.pc x.tgtA)
    | 2 => some (jump h.p.pc x.tgtB)
    | _ => none
  else some (h.p.pc + 64)

def PArc.isPred (r : PArc) : Bool := r.op == .pset || r.op == .pclr

/-- One rounding to nearest even into a type, then output flushing (07 R143, 03 R68, R70). -/
def rounded (fm : Word) (t : Ty) (v : FVal × Flags) : Nat × Flags :=
  let r := fround t .rne 0 false v.1
  flushOut fm t (r.1, r.2 ||| v.2)

/-- A pattern after input flushing (03 R71). -/
def flat (fm : Word) (t : Ty) (p : Nat) : Nat :=
  if flushes fm t && isSub t p then p / t.fmt.signBit % 2 * t.fmt.signBit else p % 2 ^ t.bits

/-- The canonical NaN of a type that has one (03 R62). -/
def canonicalNan (t : Ty) : Nat := t.fmt.nan.getD 0

/-- The choice of a float minimum or maximum (07 R147). -/
def chosen (fm : Word) (mx : Bool) (t : Ty) (p q : Nat) : Nat × Flags :=
  let a := flushIn fm t p
  let b := flushIn fm t q
  if a.isSnan || b.isSnan then (canonicalNan t, flNV)
  else if a.isNan && b.isNan then (canonicalNan t, 0)
  else if a.isNan then (flat fm t q, 0)
  else if b.isNan then (flat fm t p, 0)
  else (if (if mx then a.ltz b else b.ltz a) then flat fm t q else flat fm t p, 0)

/-- A float with its sign changed, and without its sign (07 R147). -/
def negated (fm : Word) (t : Ty) (p : Nat) : Nat × Flags :=
  let i := flushIn fm t p
  if i.isNan then (canonicalNan t, if i.isSnan then flNV else 0)
  else (if t.fmt.signBit ≤ flat fm t p then flat fm t p - t.fmt.signBit else flat fm t p + t.fmt.signBit, 0)
def magnitude (fm : Word) (t : Ty) (p : Nat) : Nat × Flags :=
  let i := flushIn fm t p
  if i.isNan then (canonicalNan t, if i.isSnan then flNV else 0) else (flat fm t p % t.fmt.signBit, 0)

/-- A conversion of one element: the exact product with the scale, one rounding, output flushing (07 R154). -/
def converted (fm : Word) (dt st : Ty) (rm : RMode) (rnd : Nat) (scale : Option FVal) (A : Nat) : Nat × Flags :=
  let v := flushIn fm st A
  let y := match scale with
    | some k => fmul v k
    | none => (v, if v.isSnan then flNV else 0)
  let r := roundTo dt rm rnd y.1
  flushOut fm dt (r.1, r.2 ||| y.2)

/-- Operand B of a prism test (04 R99): a vector register, a scalar register, the immediate as a word or, for `.f32`, its exact
conversion (every integer from −128 to 127 is an FP32 value), or the literal. -/
def testOperand (h : Here) (x : Prism) (t : PTest) (l : Nat) : Word :=
  let imm : Int := (BitVec.ofNat 8 t.b).toInt
  match t.bkind with
  | 0 => h.t.vget t.b l
  | 1 => h.t.sgetr t.b
  | 2 => if t.tty = .f32 then BitVec.ofNat 32 (fround .f32 .rne 0 false (.num (.ofInt imm))).1 else BitVec.ofInt 32 imm
  | _ => x.lit

/-- Whether a prism test holds in a lane, with its flags: as `vcmp` with its condition and type (04 R99, R100). -/
def testResult (h : Here) (x : Prism) (t : PTest) (l : Nat) : Option (Bool × Flags) :=
  let A := h.t.vget t.a l
  let B := testOperand h x t l
  if t.tty = .f32 then
    let a := flushIn h.t.fmode .f32 A.toNat
    let b := flushIn h.t.fmode .f32 B.toNat
    some (floatCond t.cond a b, if a.isSnan || b.isSnan ||
      (t.cond ∈ [Cond.lt, .le, .gt, .ge] && (a.isNan || b.isNan)) then flNV else 0)
  else (wordCond t.cond t.tty A B).map fun c => (c, 0)

/-- What an arc operation computes from its sources A and B: the arithmetic of the vector instruction of the same name, rounding to
nearest even (01 R30, 04 R102, 07 R146 to R148, R154). -/
def arcResult (fm : Word) (op : ArcOp) (A B : Word) : Word × Flags :=
  let f := fun (v : Nat × Flags) => (BitVec.ofNat 32 v.1, v.2)
  let i := fun (w : Word) => flushIn fm .f32 w.toNat
  match op with
  | .mov => (A, 0)
  | .addI => (A + B, 0)
  | .subI => (A - B, 0)
  | .mulI => (A * B, 0)
  | .and => (A &&& B, 0)
  | .or => (A ||| B, 0)
  | .xor => (A ^^^ B, 0)
  | .not => (~~~A, 0)
  | .shl => (if 32 ≤ B.toNat % 64 then 0 else A <<< (B.toNat % 64), 0)
  | .shr => (if 32 ≤ B.toNat % 64 then 0 else A >>> (B.toNat % 64), 0)
  | .sra => (A.sshiftRight (min (B.toNat % 64) 31), 0)
  | .minI => (if B.slt A then B else A, 0)
  | .maxI => (if A.slt B then B else A, 0)
  | .minN => (if B.ult A then B else A, 0)
  | .maxN => (if A.ult B then B else A, 0)
  | .negI => (-A, 0)
  | .absI => (if A.slt 0 then -A else A, 0)
  | .addF => f (rounded fm .f32 (fadd (i A) (i B)))
  | .subF => f (rounded fm .f32 (fadd (i A) (i B).negate))
  | .mulF => f (rounded fm .f32 (fmul (i A) (i B)))
  | .minF => f (chosen fm false .f32 A.toNat B.toNat)
  | .maxF => f (chosen fm true .f32 A.toNat B.toNat)
  | .negF => f (negated fm .f32 A.toNat)
  | .absF => f (magnitude fm .f32 A.toNat)
  | .pset => (1, 0)
  | .pclr => (0, 0)
  | .cvtFI => f (converted fm .f32 .i32 .rne 0 none A.toNat)
  | .cvtIF => f (converted fm .i32 .f32 .rne 0 none A.toNat)

/-- An arc in a lane: with LF set its last source is the literal (04 R101). -/
def arcIn (h : Here) (x : Prism) (r : PArc) (l : Nat) : Word × Flags :=
  let one := r.op ∈ [ArcOp.mov, .not, .negI, .absI, .negF, .absF, .cvtFI, .cvtIF]
  arcResult h.t.fmode r.op (if r.lf ∧ one then x.lit else h.t.vget r.a l) (if r.lf then x.lit else h.t.vget r.b l)

/-- The flags that a lane's way through a prism raises: those of the tests it evaluates and of the arcs it crosses (01 R30). -/
def wayFlags (h : Here) (x : Prism) (l : Nat) : Flags :=
  (way h x l).foldl (fun f p => f ||| (h.testVal x (x.tests.getD p.1 PTest.zero) l).2) 0 |||
    (crossed h x l).foldl (fun f r => f ||| (h.arcVal x r l).2) 0

end Sys2Proof.Spec

/-- A prism completes for every lane: each executing lane walks the tree on the registers before the prism, the arcs it crosses
write, the deeper one last, and it goes on where its leaf says; lanes that exit leave the members.  A test holds where `vcmp` with
its condition and type would; an arc computes what the vector instruction of its name computes; their flags go to the lanes that
evaluate them, and to no other.  The prism that would empty a team that holds an unresolved speculation id traps SPEC_ILLEGAL
instead; one whose spilled paths or tokens go beyond the team's high-water mark parks or waits, and one whose spill meets a page
that does not take the store faults, as a branch does (06 R126, 01 R25, R26, R28 to R31, R41, 04 R99 to R102, 10 R233, 19 R336; log
25, log 41). -/
def Obligations.PrismCompletes : Prop :=
  ∀ (s : State) (x : Prism), s.live → (∀ l ∈ s.here.p.mask, l < 1024) →
    let h := s.here
    let e := h.execLanes x.guard
    let gone := h.p.mask.filter fun l => Spec.prismTo h x l = none
    let split := s.splitTeam h [h.p.pc + 64, Spec.jump h.p.pc x.tgtA, Spec.jump h.p.pc x.tgtB]
      (h.p.mask.map fun l => (l, Spec.prismTo h x l)) x.token
    let tooMuch := s.splitOver h [h.p.pc + 64, Spec.jump h.p.pc x.tgtA, Spec.jump h.p.pc x.tgtB]
      (h.p.mask.map fun l => (l, Spec.prismTo h x l)) x.token
    (gone ≠ [] → mdiff h.t.member gone = [] → (s.core s.cur.core).unresolved h.t.ids ≠ [] →
      TrapsAt (.prism x) s 64 tcSpecIllegal 0 (leastOf gone)) ∧
    (∀ n l v, Spec.testResult h x (x.tests.getD n PTest.zero) l = some v → h.testVal x (x.tests.getD n PTest.zero) l = v) ∧
    (∀ r l, BitVec.ofNat 32 (h.arcVal x r l).1 = (Spec.arcIn h x r l).1 ∧ (h.arcVal x r l).2 = (Spec.arcIn h x r l).2) ∧
    (s.exitIllegal h gone = false → tooMuch = true →
      (s.faultRoom s.cur.core 1 = true → Runs (.prism x) s fun t => Spec.spillParks s t 64) ∧
      (s.faultRoom s.cur.core 1 = false → exec (.prism x) s = .next (s.waitFor s.cur 12))) ∧
    (s.exitIllegal h gone = false → Spec.spillFaults s split → Runs (.prism x) s fun t => Spec.notRun s t) ∧
    (s.exitIllegal h gone = false → Spec.spillFits s split → Runs (.prism x) s fun t =>
      (∀ l ∈ e, ∀ r, t.here.t.vget r l =
        match ((Spec.crossed h x l).filter fun a => !Spec.PArc.isPred a && a.dst == r).getLast? with
        | some a => BitVec.ofNat 32 (h.arcVal x a l).1
        | none => h.t.vget r l) ∧
      (∀ l ∈ e, ∀ n, n < 7 → t.here.t.pred n l =
        match ((Spec.crossed h x l).filter fun a => Spec.PArc.isPred a && a.dst == n).getLast? with
        | some a => a.op == .pset
        | none => h.t.pred n l) ∧
      (∀ l, t.here.t.ffGet l = h.t.ffGet l ||| (if l ∈ e then Spec.wayFlags h x l else 0)) ∧
      (∀ l ∈ gone, l ∉ t.here.t.member) ∧
      (mdiff h.t.member gone ≠ [] → ∀ l ∈ h.p.mask, ∀ a, Spec.prismTo h x l = some a →
        ∃ q, l ∈ (t.here.t.path q).mask ∧ (t.here.t.path q).pc = a ∧
          (t.here.t.path q).stack = (if x.token = 0 then [] else [(x.token, h.t.inst)]) ++ h.p.stack))

namespace Sys2Proof.Spec

/-- A set of lanes as 01 R10 has it: ascending, below 1,024. -/
def laneSet (m : Mask) : Prop := m.Pairwise (· < ·) ∧ ∀ l ∈ m, l < 1024

/-- The member mask and the masks of all paths of a team are such sets. -/
def lanesOk (t : Team) : Prop := laneSet t.member ∧ ∀ q ∈ t.paths, laneSet q.2.mask

/-- The instructions and the event that may change which lanes a path has. -/
def changesPaths : Instr → Bool
  | .bra _ | .brc _ | .brv _ | .brx _ | .call _ | .ret _ | .prism _ | .join _ | .joinMerge .. | .exit _ | .loop _ | .nop _
  | .ipref _ | .yield _ => true
  | _ => false

end Sys2Proof.Spec

/-- Splitting, merging and leaving keep every mask of every team a set of lanes, ascending and below 1,024 (01 R10, R18). -/
def Obligations.MasksStayLaneSets : Prop :=
  ∀ (s t : State) (i : Instr), Spec.changesPaths i = true → exec i s = .next t →
    ∀ c k, Spec.lanesOk (s.team c k) → Spec.lanesOk (t.team c k)

/-! ## Scalar instructions -/

/-- The scalar instructions of 06 R133 complete and write sD with the value the rule gives, whole, so that its poison is gone.
`scmp` writes gD with the condition, signed, unsigned or by bits as the type says, and sets no flag; `ssel` takes A when its guard
register is set.  The 64-bit scalar instructions: sum and difference modulo 2^64, with a literal extended by the type's sign; a move
of a pair; an address from a base pair, a scaled index extended by the type's sign, and a displacement (06 R133 to R135, 04 R100).
-/
def Obligations.ScalarResults : Prop :=
  (∀ (s : State) (x : Args), s.live →
    let h := s.here
    ∀ r ∈ Spec.scalarTable x (h.ssrc x .a x.a) (h.ssrc x .b x.b) (h.ssrc x .c x.c),
      h.clean [] [] (readRegs x r.2.1) →
      Runs r.1 s fun t => t.here.t.sgetr x.d = r.2.2 ∧ sget false t.here.t.spoison x.d = false ∧
        Completed s t (argsLen x) 0) ∧
  ((∀ (s : State) (x : Args) (c : Cond) (b : Bool), s.live →
    let h := s.here
    h.clean [] [] (readRegs x [(.a, x.a), (.b, x.b)]) →
    (Spec.wordCond c x.ty (h.ssrc x .a x.a) (h.ssrc x .b x.b) = some b →
      Runs (.scmp c x) s fun t => t.here.t.gget x.d = b ∧ t.here.t.ff = h.t.ff ∧ t.here.t.tf = h.t.tf ∧
        Completed s t (argsLen x) 0) ∧
    (x.ty = .f32 → Runs (.scmp c x) s fun t =>
      t.here.t.gget x.d = floatCond c (fdecode .f32 (h.ssrc x .a x.a).toNat) (fdecode .f32 (h.ssrc x .b x.b).toNat) ∧
      t.here.t.ff = h.t.ff ∧ t.here.t.tf = h.t.tf ∧ Completed s t (argsLen x) 0) ∧
    Runs (.ssel x) s fun t =>
      t.here.t.sgetr x.d = (if h.t.gget x.c then h.ssrc x .a x.a else h.ssrc x .b x.b) ∧ Completed s t (argsLen x) 0) ∧
  (∀ (s : State) (x : Args), s.live →
    let h := s.here
    let A := h.t.dget x.a
    let B := match x.lit with
      | some l => if l.sel = .b then (if x.ty = .i64 then l.val.signExtend 64 else l.val.setWidth 64) else h.t.dget x.b
      | none => h.t.dget x.b
    let ix := h.t.sgetr x.b
    let disp : DWord := match x.lit with
      | some l => if l.sel = .c then l.val.signExtend 64 else 0
      | none => 0
    let wide : DWord := if x.ty = .i8 ∨ x.ty = .i16 ∨ x.ty = .i32 ∨ x.ty = .i64 then ix.signExtend 64 else ix.setWidth 64
    (h.clean [] [] (pairRegs x.a ++ (if (litFor x .b).isSome then [] else pairRegs x.b)) →
      Runs (.dadd x) s (fun t => t.here.t.dget x.d = A + B ∧ Completed s t (argsLen x) 0) ∧
      Runs (.dsub x) s (fun t => t.here.t.dget x.d = A - B ∧ Completed s t (argsLen x) 0)) ∧
    (h.clean [] [] (pairRegs x.a) →
      Runs (.dmov x) s fun t => t.here.t.dget x.d = A ∧ Completed s t (argsLen x) 0) ∧
    (h.clean [] [] (pairRegs x.a ++ [x.b]) →
      Runs (.slea x) s fun t => t.here.t.dget x.d = A + wide * BitVec.ofNat 64 x.ty.bytes + disp ∧
        Completed s t (argsLen x) 0)))

/-- What a scalar instruction leaves: only its destination among the registers; no flag and no special register; no path but the
issuing one, no other team, no byte of memory (06 R132, R133). -/
def Obligations.ScalarFrame : Prop :=
  ∀ (s t : State) (i : Instr) (ds gs : List Nat), Spec.scalarDests i = some (ds, gs) → exec i s = .next t →
    let a := s.here.t
    let b := t.here.t
    OnlyTeam s t ∧ SameMem s t ∧ PathsKept s t ∧ RegsKept a b [] [] ds gs ∧
    b = { a with sregs := b.sregs, spoison := b.spoison, gregs := b.gregs, paths := b.paths, issued := b.issued,
                 passes := b.passes }

namespace Sys2Proof.Spec

/-- Control registers that an `sget` reads, by number, with their values for the issuing path (06 R138); a lane-owned one gives its
lowest active lane. -/
def cregValues (h : Here) : List (Nat × Word) :=
  let low := leastOf h.p.mask
  [(0x00, BitVec.ofNat 32 low), (0x01, BitVec.ofNat 32 h.r.path), (0x02, BitVec.ofNat 32 h.t.index),
   (0x03, BitVec.ofNat 32 h.g.wg), (0x04, BitVec.ofNat 32 h.g.lcore), (0x05, BitVec.ofNat 32 h.t.width),
   (0x06, BitVec.ofNat 32 (h.g.lcore * 2 ^ 22 + h.g.spOff * 2 ^ 14)), (0x07, BitVec.ofNat 32 (h.g.spGran * 2 ^ 14)),
   (0x08, BitVec.ofNat 32 (h.g.grp.getD 0 0)), (0x09, BitVec.ofNat 32 (h.g.grp.getD 1 0)),
   (0x0A, BitVec.ofNat 32 (h.g.grp.getD 2 0)), (0x0B, BitVec.ofNat 32 (h.g.grp.getD 3 0)),
   (0x0C, BitVec.ofNat 32 (h.g.grp.getD 4 0)), (0x10, (h.t.ffGet low).setWidth 32), (0x12, h.t.fmode),
   (0x13, h.t.amax), (0x14, h.t.sthr), (0x15, h.t.sdrop), (0x16, h.t.scnt)] ++
  ((List.range 24).map fun n =>
    let t := sget Tile.empty h.g.tiles n
    [(0x40 + 4 * n, t.width), (0x41 + 4 * n, t.rows), (0x42 + 4 * n, t.cols), (0x43 + 4 * n, t.scale)]).flatten

/-- The control registers that `sset` writes whole or in part: number, the writable bits (03 R70, R73, 06 R138, 09 R196). -/
def cregBits : List (Nat × Word) :=
  [(0x10, 0x3F), (0x12, 0xFFFFFFE3), (0x13, 0xFFFFFFFF), (0x14, 0xFFFFFFFF), (0x15, 0xFFFFFFFF), (0x16, 0xFFFFFFFF)] ++
  ((List.range 24).map fun n =>
    [(0x40 + 4 * n, (0x1F : Word)), (0x41 + 4 * n, 0x7F), (0x42 + 4 * n, 0x3FF), (0x43 + 4 * n, 7)]).flatten

end Sys2Proof.Spec

/-- `sget` reads a control register; `sset` writes its writable bits, in every active lane for `%ff`; a write to `%fmode` reseeds
the generator of every member lane; `sset` to a read-only register traps PRIVILEGE, and one to a tile that a matrix step reads
waits under reason 4 (06 R136 to R138, 03 R69). -/
def Obligations.ControlRegisters : Prop :=
  ∀ (s : State) (x : Args), s.live →
    let h := s.here
    let v := h.ssrc x .a x.a
    (∀ r ∈ Spec.cregValues h, x.a = r.1 →
      Runs (.sget x) s fun t => t.here.t.sgetr x.d = r.2 ∧ Completed s t (argsLen x) 0) ∧
    (x.a = 0x11 → Runs (.sget x) s fun t => Completed s t (argsLen x) 0 ∧
      ∀ n, (t.here.t.sgetr x.d).getLsbD n =
        (decide (8 ≤ n) && decide (n < 14) && h.t.tf.getLsbD n || decide (n < 6) && h.t.member.any fun l => (h.t.ffGet l).getLsbD n)) ∧
    (h.clean [] [] (readRegs x [(.a, x.a)]) →
      (∀ r ∈ Spec.cregBits, x.d = r.1 → (0x40 ≤ x.d → s.tileBusy s.cur.core h.t.w ((x.d - 0x40) / 4) = false) →
        Runs (.sset x) s fun t => Completed s t (argsLen x) 0 ∧ (r.1, v &&& r.2) ∈ Spec.cregValues t.here ∧
          (x.d = 0x10 → ∀ l ∈ h.p.mask, t.here.t.ffGet l = v.setWidth 6) ∧
          (x.d = 0x12 → ∀ l ∈ h.t.member, sget 0 t.here.t.rst l = rstSeed (v &&& r.2) l)) ∧
      (x.d = 0x11 → Runs (.sset x) s fun t => Completed s t (argsLen x) 0 ∧ t.here.t.tf = v &&& 0x3F00) ∧
      (0x40 ≤ x.d → s.tileBusy s.cur.core h.t.w ((x.d - 0x40) / 4) = true →
        exec (.sset x) s = .next (s.waitFor s.cur 4))) ∧
    (x.d ≤ 0x0C → TrapsAt (.sset x) s (argsLen x) tcPrivilege 0 (leastOf h.p.mask))

/-- `sxlat` writes a translation register: the base address, the frame and the writable bit of the page, and the limit cut at the
end of the page; a limit of 0 writes an invalid entry without translating; an address above bit 56 traps MEM_FATAL, after its fault
record, for which it waits while the ring has no room (06 R139, 19 R331). -/
def Obligations.TranslationRegister : Prop :=
  ∀ (s : State) (x : Args), s.live →
    let h := s.here
    let va := (h.t.dget x.a).toNat
    let lim := (h.ssrc x .b x.b).toNat
    h.clean [] [] (pairRegs x.a ++ readRegs x [(.b, x.b)]) →
    (va < 2 ^ 57 → lim = 0 → Runs (.sxlat x) s fun t =>
      (sget Xt.empty t.here.t.xt x.d).valid = false ∧ Completed s t (argsLen x) 0) ∧
    (∀ tgt pa w base size, va < 2 ^ 57 → lim ≠ 0 → s.walkVa h.g.vi h.t va false = .ok tgt pa w base size →
      Runs (.sxlat x) s fun t =>
        sget Xt.empty t.here.t.xt x.d = ⟨true, va, tgt, pa, min lim (base + size - va), w, base, size⟩ ∧
        Completed s t (argsLen x) 0) ∧
    (2 ^ 57 ≤ va → s.faultRoom s.cur.core 1 = false → exec (.sxlat x) s = .next (s.waitFor s.cur 12)) ∧
    (2 ^ 57 ≤ va → s.faultRoom s.cur.core 1 = true → exec (.sxlat x) s =
      .next ((s.postFaults h 4 0 0 [(va, 0x07, va / 2 ^ 16 * 2 ^ 16, 3)]).trapHere
      s.cur (argsLen x) tcMemFatal va (leastOf h.p.mask)))

/-! ## Vector instructions -/

namespace Sys2Proof.Spec

/-- The sum of four byte products or differences and C, saturated into 32 bits, with SAT when it changed (07 R144, R150). -/
def saturated (signed : Bool) (i : Int) : Word × Flags :=
  let lo : Int := if signed then -2 ^ 31 else 0
  let hi : Int := if signed then 2 ^ 31 - 1 else 2 ^ 32 - 1
  (BitVec.ofInt 32 (max lo (min hi i)), if lo ≤ i ∧ i ≤ hi then 0 else flSAT)

/-- Byte j of a word, read signed or unsigned. -/
def byteOf (signed : Bool) (w : Word) (j : Nat) : Int :=
  let b := w.extractLsb' (8 * j) 8
  if signed then b.toInt else b.toNat

/-- The bits o to o + w − 1. -/
def fieldMask (o w : Nat) : Word := (((1 : Word) <<< w) - 1) <<< o

/-- The result of a lane for source values A, B, C, with its flags. -/
abbrev LaneFn := Word → Word → Word → Word × Flags

/-- A result from A, from A and B, or from all three that sets no flag. -/
def one (f : Word → Word) : LaneFn := fun A _ _ => (f A, 0)
def two (f : Word → Word → Word) : LaneFn := fun A B _ => (f A B, 0)
def three (f : Word → Word → Word → Word) : LaneFn := fun A B C => (f A B C, 0)

/-- Offset and width of a bit-field control word (07 R148). -/
def offsetOf (k : Word) : Nat := k.toNat % 32
def widthOf (k : Word) : Nat := min (k.toNat / 256 % 64) (32 - k.toNat % 32)

/-- The integer and bit instructions of 07 R146, R148 and R150: the sources they read, and the result and the flags of a lane for
source values A, B, C. -/
def vectorInts (x : Args) : List (Instr × List (LSel × Nat) × LaneFn) :=
  let a := [(LSel.a, x.a)]
  let ab := [(LSel.a, x.a), (LSel.b, x.b)]
  let abc := [(LSel.a, x.a), (LSel.b, x.b), (LSel.c, x.c)]
  let i := { x with ty := Ty.i32 }
  let n := { x with ty := Ty.n32 }
  [(Instr.vadd i, ab, two fun A B => A + B), (Instr.vadd n, ab, two fun A B => A + B),
   (Instr.vsub i, ab, two fun A B => A - B), (Instr.vsub n, ab, two fun A B => A - B),
   (Instr.vmul i, ab, two fun A B => A * B), (Instr.vmul n, ab, two fun A B => A * B),
   (Instr.vmulh i, ab, two fun A B => BitVec.ofInt 32 (A.toInt * B.toInt / 2 ^ 32)),
   (Instr.vmulh n, ab, two fun A B => BitVec.ofNat 32 (A.toNat * B.toNat / 2 ^ 32)),
   (Instr.vmad i, abc, three fun A B C => A * B + C), (Instr.vmad n, abc, three fun A B C => A * B + C),
   (Instr.vneg i, a, one fun A => -A), (Instr.vabs i, a, one fun A => if A.slt 0 then -A else A),
   (Instr.vmin i, ab, two fun A B => if B.slt A then B else A),
   (Instr.vmin n, ab, two fun A B => if B.ult A then B else A),
   (Instr.vmax i, ab, two fun A B => if A.slt B then B else A),
   (Instr.vmax n, ab, two fun A B => if A.ult B then B else A)] ++
  [(Instr.vand x, ab, two fun A B => A &&& B), (Instr.vor x, ab, two fun A B => A ||| B),
   (Instr.vxor x, ab, two fun A B => A ^^^ B), (Instr.vnot x, a, one fun A => ~~~A),
   (Instr.vandn x, ab, two fun A B => A &&& ~~~B),
   (Instr.vshl x, ab, two fun A B => if 32 ≤ B.toNat % 64 then 0 else A <<< (B.toNat % 64)),
   (Instr.vshr x, ab, two fun A B => if 32 ≤ B.toNat % 64 then 0 else A >>> (B.toNat % 64)),
   (Instr.vsra x, ab, two fun A B => A.sshiftRight (min (B.toNat % 64) 31)),
   (Instr.vrot x, ab, two fun A B => A.rotateLeft (B.toNat % 32)),
   (Instr.vpop x, a, one fun A => BitVec.ofNat 32 ((List.range 32).filter fun k => A.getLsbD k).length),
   (Instr.vclz x, a, one fun A => if A = 0 then 32 else BitVec.ofNat 32 (31 - Nat.log2 A.toNat)),
   (Instr.vmov x, a, one fun A => A)] ++
  [(Instr.vbfe n, ab, two fun A B => (A >>> offsetOf B) &&& fieldMask 0 (widthOf B)),
   (Instr.vbfe i, ab, two fun A B =>
     if widthOf B = 0 then 0 else (A <<< (32 - offsetOf B - widthOf B)).sshiftRight (32 - widthOf B)),
   (Instr.vbfi x, abc, three fun A B C =>
     (B &&& ~~~fieldMask (offsetOf C) (widthOf C)) ||| ((A <<< offsetOf C) &&& fieldMask (offsetOf C) (widthOf C))),
   (Instr.vdot4 i, abc, fun A B C => saturated true
     (byteOf true A 0 * byteOf true B 0 + byteOf true A 1 * byteOf true B 1 + byteOf true A 2 * byteOf true B 2 +
      byteOf true A 3 * byteOf true B 3 + C.toInt)),
   (Instr.vdot4 n, abc, fun A B C => saturated false
     (byteOf false A 0 * byteOf false B 0 + byteOf false A 1 * byteOf false B 1 + byteOf false A 2 * byteOf false B 2 +
      byteOf false A 3 * byteOf false B 3 + C.toNat)),
   (Instr.vsad n, abc, fun A B C => saturated false
     ((byteOf false A 0 - byteOf false B 0).natAbs + (byteOf false A 1 - byteOf false B 1).natAbs +
      (byteOf false A 2 - byteOf false B 2).natAbs + (byteOf false A 3 - byteOf false B 3).natAbs + C.toNat))]

/-- The class bit of a pattern (07 R151). -/
def classBit (t : Ty) (p : Nat) : Nat :=
  let f := t.fmt
  let neg := p / 2 ^ (f.m + f.eb) % 2 = 1
  let e := p / 2 ^ f.m % 2 ^ f.eb
  let fr := p % 2 ^ f.m
  if e = 2 ^ f.eb - 1 then
    (if fr = 0 then (if neg then 0 else 7) else if fr / 2 ^ (f.m - 1) = 0 then 8 else 9)
  else if e = 0 then (if fr = 0 then (if neg then 3 else 4) else if neg then 2 else 5)
  else if neg then 1 else 6

/-- The float instructions of 07 R146, R147, R151 and R152 for a type, under `%fmode`: sources, and the result and flags of a lane. -/
def vectorFloats (x : Args) (fm : Word) (t : Ty) :
    List (Instr × List (LSel × Nat) × (Nat → Nat → Nat → Nat × Flags)) :=
  let a := (LSel.a, x.a)
  let b := (LSel.b, x.b)
  let y := { x with ty := t }
  let i := flushIn fm t
  [(Instr.vadd y, [a, b], fun A B _ => rounded fm t (fadd (i A) (i B))),
   (Instr.vsub y, [a, b], fun A B _ => rounded fm t (fadd (i A) (i B).negate)),
   (Instr.vmul y, [a, b], fun A B _ => rounded fm t (fmul (i A) (i B))),
   (Instr.vmad y, [a, b, (LSel.c, x.c)], fun A B C => rounded fm t (fmad (i A) (i B) (i C))),
   (Instr.vneg y, [a], fun A _ _ => negated fm t A), (Instr.vabs y, [a], fun A _ _ => magnitude fm t A),
   (Instr.vmin y, [a, b], fun A B _ => chosen fm false t A B), (Instr.vmax y, [a, b], fun A B _ => chosen fm true t A B),
   (Instr.vclass y, [a], fun A _ _ => (2 ^ classBit t A, 0)),
   (Instr.vround y, [a], fun A _ _ =>
     match i A with
     | .nan sig => (canonicalNan t, if sig then flNV else 0)
     | .inf n => ((fround t .rne 0 false (.inf n)).1, 0)
     | .num v => ((fround t .rne 0 false
         (.num ⟨v.neg, (roundNat (RMode.ofCode x.md) v.neg 0 v.num v.den).1, 1⟩)).1, 0))]

/-- The three float types of vector arithmetic. -/
def floatTypes : List Ty := [.f32, .f16, .bf16]

/-- A source value of a lane. -/
def laneA (h : Here) (x : Args) (l : Nat) : Word := h.vsrc x .a x.a l
def laneB (h : Here) (x : Args) (l : Nat) : Word := h.vsrc x .b x.b l
def laneC (h : Here) (x : Args) (l : Nat) : Word := h.vsrc x .c x.c l

/-- A vector instruction has written vD in the executing lanes, whole, and or-ed the flags of those lanes. -/
def Wrote (s t : State) (x : Args) (len : Nat) (f : Nat → Word × Flags) : Prop :=
  (∀ l ∈ s.here.execLanes x.guard, t.here.t.vget x.d l = (f l).1 ∧ t.here.t.ffGet l = s.here.t.ffGet l ||| (f l).2 ∧
    sget false t.here.t.vpoison (x.d * 1024 + l) = false) ∧
  Completed s t len (passesOf s.here.p.mask)

end Sys2Proof.Spec

/-- The integer and bit instructions on lanes complete with the results and flags of 07 R146, R148 and R150: 32 bits, wrapping, no
flag; the dot products and the sum of differences saturate and set SAT. -/
def Obligations.VectorIntegers : Prop :=
  ∀ (s : State) (x : Args), s.live →
    let h := s.here
    ∀ r ∈ Spec.vectorInts x, h.clean (h.execLanes x.guard) (readRegs x r.2.1) [] →
      Runs r.1 s fun t => Spec.Wrote s t x (argsLen x) fun l =>
        r.2.2 (Spec.laneA h x l) (Spec.laneB h x l) (Spec.laneC h x l)

/-- The float instructions on lanes complete with the exact result of the flushed sources rounded once and the flags of 07 R143,
R146, R147, R151 and R152, for `.f32`, `.f16` and `.bf16`. -/
def Obligations.VectorFloats : Prop :=
  ∀ (s : State) (x : Args) (ty : Ty), s.live → ty ∈ Spec.floatTypes →
    let h := s.here
    ∀ r ∈ Spec.vectorFloats x h.t.fmode ty, h.clean (h.execLanes x.guard) (readRegs x r.2.1) [] →
      Runs r.1 s fun t => Spec.Wrote s t x (argsLen x) fun l =>
        let v := r.2.2 (Spec.laneA h x l).toNat (Spec.laneB h x l).toNat (Spec.laneC h x l).toNat
        (BitVec.ofNat 32 v.1, v.2)

/-- Every finite or infinite value of a floating-point format rounds to its own pattern, in every direction, with no flag: rounding
adds no error to a value the format holds (03 R61, R68). -/
def Obligations.RoundingIsExactOnFormat : Prop :=
  ∀ (t : Ty) (mode : RMode) (rnd p : Nat) (sat : Bool), t ∈ [Ty.f32, .f16, .bf16, .e4m3, .e5m2, .e2m1] →
    p < 2 * t.fmt.signBit → (fdecode t p).isNan = false → rnd < 2 ^ 16 → fround t mode rnd sat (fdecode t p) = (p, 0)

/-- `vcmp` writes the predicate of every executing lane with the condition, signed, unsigned, by bits or as floats with their NV
flags; a write to p7 is discarded; `vsel` takes A where its predicate holds (07 R146, R149, 04 R100). -/
def Obligations.VectorConditions : Prop :=
  ∀ (s : State) (x : Args) (c : Cond), s.live →
    let h := s.here
    let e := h.execLanes x.guard
    h.clean e (readRegs x [(.a, x.a), (.b, x.b)]) [] →
    ((∀ l ∈ e, ∃ b, Spec.wordCond c x.ty (Spec.laneA h x l) (Spec.laneB h x l) = some b) →
      Runs (.vcmp c x) s fun t => Completed s t (argsLen x) (passesOf h.p.mask) ∧ t.here.t.ff = h.t.ff ∧
        (x.d ≠ 7 → ∀ l ∈ e,
          some (t.here.t.pred x.d l) = Spec.wordCond c x.ty (Spec.laneA h x l) (Spec.laneB h x l)) ∧
        (x.d = 7 → t.here.t.preds = h.t.preds)) ∧
    (x.ty ∈ Spec.floatTypes → Runs (.vcmp c x) s fun t => Completed s t (argsLen x) (passesOf h.p.mask) ∧
      ∀ l ∈ e,
        let a := flushIn h.t.fmode x.ty (Spec.laneA h x l).toNat
        let b := flushIn h.t.fmode x.ty (Spec.laneB h x l).toNat
        (x.d ≠ 7 → t.here.t.pred x.d l = floatCond c a b) ∧
        t.here.t.ffGet l = h.t.ffGet l ||| (if a.isSnan || b.isSnan ||
          (c ∈ [Cond.lt, .le, .gt, .ge] && (a.isNan || b.isNan)) then flNV else 0)) ∧
    Runs (.vsel x) s fun t => Spec.Wrote s t x (argsLen x) fun l =>
      (if x.c = 7 ∨ h.t.pred x.c l then Spec.laneA h x l else Spec.laneB h x l, 0)

namespace Sys2Proof.Spec

/-- The S form of a pair operation whose sources are vector registers (04 R94). -/
def asSingle (o : SubOp) : Instr :=
  let x : Args := ⟨⟨false, 7⟩, o.d, o.a, o.b, o.c, o.ty, 0, 0, none⟩
  match o.op with
  | .add => .vadd x
  | .sub => .vsub x
  | .mul => .vmul x
  | .mad => .vmad x
  | .min => .vmin x
  | .max => .vmax x
  | .neg => .vneg x
  | .abs => .vabs x
  | .and => .vand x
  | .or => .vor x
  | .xor => .vxor x
  | .not => .vnot x
  | .andn => .vandn x
  | .shl => .vshl x
  | .shr => .vshr x
  | .sra => .vsra x
  | .mov => .vmov x
  | .cmp => .vcmp ((Cond.ofCode o.cond).getD .eq) x
  | .cvt => .vcvt { x with b := 0, ext := o.ty2.code }

end Sys2Proof.Spec

/-- A W-pair completes when it reads no poison; each sub-operation computes what its S form computes from the registers before the
pair, so that neither sees the other's result; the flags of a lane are those of both (04 R96, 07 R146). -/
def Obligations.PairIsTwoSingles : Prop :=
  ∀ (s : State) (x y : SubOp), s.live → (∀ l ∈ s.here.p.mask, l < 1024) → WellFormed maxLimits (.wPair x y) = true →
    let h := s.here
    (h.clean h.p.mask (x.vsources ++ y.vsources) (subSsources x ++ subSsources y) →
      Runs (.wPair x y) s fun t => Completed s t 16 (2 * passesOf h.p.mask)) ∧
    (h.clean h.p.mask (x.vsources ++ y.vsources) [] →
      x.ka = false → x.kb = false → x.kc = false → y.ka = false → y.kb = false → y.kc = false →
      Runs (.wPair x y) s fun t => Runs (Spec.asSingle x) s fun u => Runs (Spec.asSingle y) s fun w =>
        ∀ l ∈ h.p.mask,
          (x.op ≠ .cmp → t.here.t.vget x.d l = u.here.t.vget x.d l) ∧
          (y.op ≠ .cmp → t.here.t.vget y.d l = w.here.t.vget y.d l) ∧
          (x.op = .cmp → t.here.t.pred x.d l = u.here.t.pred x.d l) ∧
          (y.op = .cmp → t.here.t.pred y.d l = w.here.t.pred y.d l) ∧
          t.here.t.ffGet l = u.here.t.ffGet l ||| w.here.t.ffGet l)

namespace Sys2Proof.Spec

/-- The nine special functions with their instructions (07 R153). -/
def specials (x : Args) : List (Instr × SpFn) :=
  [(.vrcp x, .rcp), (.vrsq x, .rsq), (.vsqrt x, .sqrt), (.vexp2 x, .exp2), (.vlog2 x, .log2), (.vsin x, .sin),
   (.vcos x, .cos), (.vtanh x, .tanh), (.vsigm x, .sigm)]

/-- Some inputs for which 07 R153 fixes the `.f32` result: function, input, result, flags.  Patterns: 7F800000 is ∞, 7FC00000 the
canonical NaN, 3F800000 is 1, 43000000 is 128, 41000000 is 8, 40400000 is 3. -/
def fixedResults : List (SpFn × Nat × Nat × Flags) :=
  [(.rcp, 0, 0x7F800000, flDZ), (.rcp, 0x80000000, 0xFF800000, flDZ), (.rcp, 0x7F800000, 0, 0),
   (.rcp, 0xFF800000, 0x80000000, 0), (.rcp, 0x7F800001, 0x7FC00000, flNV), (.rcp, 0x7FC00001, 0x7FC00000, 0),
   (.rsq, 0, 0x7F800000, flDZ), (.rsq, 0x80000000, 0xFF800000, flDZ), (.rsq, 0xBF800000, 0x7FC00000, flNV),
   (.rsq, 0x7F800000, 0, 0), (.sqrt, 0x80000000, 0x80000000, 0), (.sqrt, 0xBF800000, 0x7FC00000, flNV),
   (.sqrt, 0x7F800000, 0x7F800000, 0), (.sqrt, 0x40800000, 0x40000000, 0), (.sqrt, 0x40000000, 0x3FB504F3, flIX),
   (.exp2, 0xFF800000, 0, 0), (.exp2, 0x7F800000, 0x7F800000, 0), (.exp2, 0x43000000, 0x7F800000, flOF),
   (.exp2, 0x40400000, 0x41000000, 0), (.exp2, 0, 0x3F800000, 0), (.log2, 0, 0xFF800000, flDZ),
   (.log2, 0x80000000, 0xFF800000, flDZ), (.log2, 0xBF800000, 0x7FC00000, flNV), (.log2, 0x7F800000, 0x7F800000, 0),
   (.log2, 0x41000000, 0x40400000, 0), (.log2, 0x3F800000, 0, 0), (.sin, 0, 0, 0), (.sin, 0x80000000, 0x80000000, 0),
   (.sin, 0x7F800000, 0x7FC00000, flNV), (.cos, 0x80000000, 0x3F800000, 0), (.cos, 0xFF800000, 0x7FC00000, flNV),
   (.tanh, 0x7F800000, 0x3F800000, 0), (.tanh, 0xFF800000, 0xBF800000, 0), (.tanh, 0x80000000, 0x80000000, 0),
   (.sigm, 0xFF800000, 0, 0), (.sigm, 0x7F800000, 0x3F800000, 0), (.sigm, 0x80000000, 0x3F000000, 0)]

/-- The 16 random bits of a lane's generator (03 R69). -/
def randomBits (g : Word) : Nat := g.toNat % 2 ^ 16

/-- One combination of a reduction (07 R166): wrapping integer sums, one rounding for a float sum, chosen minima and maxima. -/
def combine (fm : Word) (op : RedOp) (t : Ty) (p q : Nat × Flags) : Nat × Flags :=
  let A := BitVec.ofNat 32 p.1
  let B := BitVec.ofNat 32 q.1
  let r : Nat × Flags := match op, t with
    | .add, .f32 => rounded fm .f32 (fadd (flushIn fm .f32 p.1) (flushIn fm .f32 q.1))
    | .add, _ => ((A + B).toNat, 0)
    | .min, .f32 => chosen fm false .f32 p.1 q.1
    | .max, .f32 => chosen fm true .f32 p.1 q.1
    | .min, .i32 => ((if B.slt A then B else A).toNat, 0)
    | .max, .i32 => ((if A.slt B then B else A).toNat, 0)
    | .min, _ => ((if B.ult A then B else A).toNat, 0)
    | .max, _ => ((if A.ult B then B else A).toNat, 0)
    | .and, _ => ((A &&& B).toNat, 0)
    | .or, _ => ((A ||| B).toNat, 0)
    | .xor, _ => ((A ^^^ B).toNat, 0)
  (r.1, p.2 ||| q.2 ||| r.2)

/-- The tree of 03 R82 over the 2^n positions from `base` on: the halves first, an absent half passes the other through. -/
def tree (fm : Word) (op : RedOp) (t : Ty) (leaf : Nat → Option Nat) : Nat → Nat → Option (Nat × Flags)
  | 0, base => (leaf base).map fun v => (v, 0)
  | n + 1, base =>
    match tree fm op t leaf n base, tree fm op t leaf n (base + 2 ^ n) with
    | some p, some q => some (combine fm op t p q)
    | some p, none => some p
    | none, q => q

/-- The type of a reduction is one its operation allows (07 R166). -/
def redAllowed (op : RedOp) (t : Ty) : Bool :=
  match op with
  | .add | .min | .max => t == .i32 || t == .n32 || t == .f32
  | _ => t == .b32

/-- The value that a lane of `vred` (bound 2^32) or `vscan` (bound: the lane) receives. -/
def reduced (h : Here) (team : Bool) (op : RedOp) (x : Args) (upTo l : Nat) : Word × Flags :=
  let leaf := fun (k : Nat) =>
    if k ∈ h.execLanes x.guard ∧ k ≤ upTo then some (h.t.vget x.a k).toNat else none
  let v := if team then tree h.t.fmode op x.ty leaf (Nat.log2 h.t.width) 0 else tree h.t.fmode op x.ty leaf 5 (l / 32 * 32)
  (BitVec.ofNat 32 (v.getD (0, 0)).1, (v.getD (0, 0)).2)

/-- What an instruction of the vector, special, conversion or cross-lane group may write: in which lanes, vector registers,
predicates, scalar registers; and whether `%amax`, the drop registers and the generators (07 R145). -/
structure VDest where
  lanes : Mask
  v : List Nat := []
  p : List Nat := []
  s : List Nat := []
  amax : Bool := false
  drop : Bool := false
  rst : Bool := false

def vectorDest (h : Here) : Instr → Option VDest
  | .vadd x | .vsub x | .vmul x | .vmulh x | .vmad x | .vneg x | .vabs x | .vmin x | .vmax x | .vand x | .vor x | .vxor x
  | .vnot x | .vandn x | .vshl x | .vshr x | .vsra x | .vrot x | .vpop x | .vclz x | .vbfe x | .vbfi x | .vsel x | .vmov x
  | .vdot4 x | .vsad x | .vclass x | .vround x | .vrcp x | .vrsq x | .vsqrt x | .vexp2 x | .vlog2 x | .vsin x | .vcos x
  | .vtanh x | .vsigm x | .vunpack x | .vqscale x | .vqenc x | .vqdec x | .vperm x | .vshfl x | .vbcast x | .vred _ _ x
  | .vscan _ _ x | .vballot x | .vid x => some { lanes := h.execLanes x.guard, v := [x.d] }
  | .vcmp _ x => some { lanes := h.execLanes x.guard, p := if x.d = 7 then [] else [x.d] }
  | .vpush x => some { lanes := h.execLanes x.guard, v := [x.d], p := if x.c = 7 then [] else [x.c] }
  | .vcvt x => some { lanes := h.execLanes x.guard, v := [x.d], amax := true, rst := true }
  | .vpack x => some { lanes := h.execLanes x.guard, v := [x.d], rst := true }
  | .vdrop x => some { lanes := h.execLanes x.guard, v := [x.d], drop := true }
  | .amaxrd x => some { lanes := [], s := [x.d], amax := true }
  | .vballotTeam x => some { lanes := [], s := [x.d] }
  | .wPair x y =>
    let o := [x, y]
    some { lanes := h.p.mask, v := (o.filter (·.op != .cmp)).map (·.d),
           p := ((o.filter (·.op == .cmp)).map (·.d)).filter (· != 7), amax := o.any (·.op == .cvt) }
  | _ => none

end Sys2Proof.Spec

/-- The special functions complete with one result per lane; for the listed `.f32` inputs it is the result that 07 R153 fixes, or
the exact one, with its flags.  (Where the rule gives a bound only, the model's result is a free value inside it, log 8.)  A
lookahead count opens or narrows the path's window (04 R91). -/
def Obligations.SpecialFunctions : Prop :=
  (∀ (s : State) (x : Args), s.live →
    let h := s.here
    ∀ r ∈ Spec.specials x, h.clean (h.execLanes x.guard) [x.a] [] →
      Runs r.1 s fun t =>
        Spec.Wrote s t x 8 (fun l =>
          let v := r.2.lane h.t.fmode x.ty (h.t.vget x.a l).toNat
          (BitVec.ofNat 32 v.1, v.2)) ∧
        t.here.p.window = (if h.p.window = 0 then x.ext else min (h.p.window - 1) x.ext)) ∧
  ∀ (fm : Word), ∀ r ∈ Spec.fixedResults, r.1.lane fm .f32 r.2.1 = (r.2.2.1, r.2.2.2)

/-- `vcvt` and `vpack` complete: each element is rounded once, `%amax` collects the unscaled magnitudes of `vcvt`, and under
`.rst` each element takes the next random bits of its lane; `amaxrd` reads `%amax` and clears it.  `vunpack`, `vqscale`, `vqenc`, `vqdec`
and `vdrop` complete: one element widened exactly; the block's scale code in every executing lane; elements encoded and decoded under a
scale; dropped elements become +0 and are counted (07 R154 to R161, 03 R69, R76; a signalling NaN source of `vqscale`, and an infinite
element under an infinite scale: log 49). -/
def Obligations.ConversionsAndQuantisation : Prop :=
  (∀ (s : State) (x : Args), s.live →
    let h := s.here
    let e := h.execLanes x.guard
    let fm := h.t.fmode
    let st := Ty.ofCode x.ext
    let rm := RMode.ofCode x.md
    let scale : Option FVal := match x.lit with
      | some l => some (fdecode .f32 l.val.toNat)
      | none => if x.b < 0x80 then none else some (fdecode .f32 (h.t.sgetr (x.b - 0x80)).toNat)
    let g := fun (l : Nat) => sget 0 h.t.rst l
    (h.clean e [x.a] (if x.lit.isSome || x.b < 0x80 then [] else [x.b - 0x80]) →
      Runs (.vcvt x) s fun t => Completed s t (argsLen x) (passesOf h.p.mask) ∧
        t.here.t.amax = e.foldl (fun m l => amaxStep m (flushIn fm st (h.t.vget x.a l).toNat)) h.t.amax ∧
        (rm ≠ .rst → t.here.t.rst = h.t.rst) ∧
        ∀ l ∈ e, (rm = .rst → e.count l = 1) →
          let v := Spec.converted fm x.ty st rm (if rm = .rst then Spec.randomBits (rstNext (g l)) else 0) scale
            (h.t.vget x.a l).toNat
          t.here.t.vget x.d l = BitVec.ofNat 32 v.1 ∧ t.here.t.ffGet l = h.t.ffGet l ||| v.2 ∧
          (rm = .rst → sget 0 t.here.t.rst l = rstNext (g l))) ∧
    (h.clean e ([x.a, x.b] ++ (if x.ty.bits = 16 then [] else [x.c])) [] →
      Runs (.vpack x) s fun t => Completed s t 8 (passesOf h.p.mask) ∧
        ∀ l ∈ e, (rm = .rst → e.count l = 1) →
          let z := x.ty.bits
          let k := fun (g : Word) => if rm = .rst then Spec.randomBits g else 0
          let a := Spec.converted fm x.ty st rm (k (rstNext (g l))) none (h.t.vget x.a l).toNat
          let b := Spec.converted fm x.ty st rm (k (rstNext (rstNext (g l)))) none (h.t.vget x.b l).toNat
          let c := if z = 16 then 0 else (h.t.vget x.c l).toNat
          t.here.t.vget x.d l = BitVec.ofNat 32 (c * 2 ^ (2 * z) + b.1 * 2 ^ z + a.1) ∧
          t.here.t.ffGet l = h.t.ffGet l ||| (a.2 ||| b.2)) ∧
    Runs (.amaxrd x) s fun t => Completed s t 8 1 ∧ t.here.t.sgetr x.d = h.t.amax ∧ t.here.t.amax = 0) ∧
  (∀ (s : State) (x : Args), s.live → x.lit = none →
    let h := s.here
    let e := h.execLanes x.guard
    let fm := h.t.fmode
    let A := fun (l : Nat) => (h.t.vget x.a l).toNat
    let B := fun (l : Nat) => (h.t.vget x.b l).toNat % 256
    let st := Ty.ofCode x.ext
    let block := fun (n l : Nat) => (e.filter fun k => k / n = l / n).map A
    let w := fun (v : Nat × Flags) => (BitVec.ofNat 32 v.1, v.2)
    (h.clean e [x.a] [] → Runs (.vunpack x) s fun t => Spec.Wrote s t x 8 fun l =>
      w (Spec.converted 0 x.ty st .rne 0 none (A l / 2 ^ (st.bits * x.b) % 2 ^ st.bits))) ∧
    (x.ty ≠ .q4n → h.clean e [x.a] [] → Runs (.vqscale x) s fun t => Spec.Wrote s t x 8 fun l =>
      w (mxCode x.ty (blockExp fm (block 32 l)), 0)) ∧
    (x.ty = .q4n → h.clean e [x.a] [x.b] → Runs (.vqscale x) s fun t => Spec.Wrote s t x 8 fun l =>
      let c := q4nCode (fdecode .f32 (h.t.sgetr x.b).toNat) (blockExp fm (block 64 l))
      w (c.1, if c.2 then flNV else 0)) ∧
    (x.ty ≠ .q4n → h.clean e [x.a, x.b] [] → Runs (.vqenc x) s fun t => Spec.Wrote s t x 8 fun l =>
      w (mxEncode x.ty (flushIn fm .f32 (A l)) (B l))) ∧
    (x.ty = .q4n → h.clean e [x.a, x.b] [x.c] → Runs (.vqenc x) s fun t => Spec.Wrote s t x 8 fun l =>
      w (q4nEncode (flushIn fm .f32 (A l)) (q4nScale (fdecode .f32 (h.t.sgetr x.c).toNat) (B l)))) ∧
    (st ≠ .q4n → h.clean e [x.a, x.b] [] → Runs (.vqdec x) s fun t => Spec.Wrote s t x 8 fun l =>
      w (Spec.rounded fm x.ty (mxValue st (A l) (B l)))) ∧
    (st = .q4n → h.clean e [x.a, x.b] [x.c] → Runs (.vqdec x) s fun t => Spec.Wrote s t x 8 fun l =>
      w (Spec.rounded fm x.ty (q4nValue (fdecode .f32 (h.t.sgetr x.c).toNat) (B l) (A l)))) ∧
    (h.clean e [x.a] [] → Runs (.vdrop x) s fun t =>
      let drops := e.filter fun l => dropped h.t.sthr (valueOf x.ty (A l))
      Completed s t 8 (passesOf h.p.mask) ∧ t.here.t.ff = h.t.ff ∧
      t.here.t.sdrop = drops.foldl (fun m l =>
        BitVec.ofNat 32 (rne32 (fadd (fdecode .f32 m.toNat) (valueOf x.ty (A l)).absv).1).1) h.t.sdrop ∧
      t.here.t.scnt = drops.foldl (fun n _ => if n = 0xFFFFFFFF then n else n + 1) h.t.scnt ∧
      ∀ l ∈ e, t.here.t.vget x.d l =
        (if l ∈ drops then 0 else if x.ty = .f32 then h.t.vget x.a l else BitVec.ofNat 32 (A l % 2 ^ 16))))

/-- The cross-lane instructions complete: each executing lane receives what 07 R162 to R165 and R167 say, from the values before the
instruction.  `vred` and `vscan` combine the executing lanes of a rank, or of the team, in the tree of 03 R82, each half first; a scan
takes the positions up to its lane (07 R166; how `%fmode` flushes inside the tree: log 49). -/
def Obligations.AcrossLanes : Prop :=
  (∀ (s : State) (x : Args), s.live →
    let h := s.here
    let e := h.execLanes x.guard
    let A := fun (l : Nat) => Spec.laneA h x l
    let B := fun (l : Nat) => Spec.laneB h x l
    (h.clean e (readRegs x [(.a, x.a)] ++ [x.b, x.b + 1]) [] → Runs (.vperm x) s fun t =>
      Completed s t (argsLen x) (passesOf h.p.mask) ∧
      ∀ l ∈ e, ∀ j, j < 4 →
        let k := (A l).toNat / 2 ^ (4 * j) % 16
        let src := l / 2 * 2 + k / 8
        (t.here.t.vget x.d l).extractLsb' (8 * j) 8 =
          if src ∈ e then (h.t.vget (x.b + k / 4 % 2) src).extractLsb' (8 * (k % 4)) 8 else 0) ∧
    (h.clean e (readRegs x [(.a, x.a), (.b, x.b)]) [] → Runs (.vshfl x) s fun t => Spec.Wrote s t x (argsLen x) fun l =>
      let i := (B l).toNat % 32
      let p := l % 32
      let r := l / 32 * 32
      let take := fun (k : Nat) => if k ∈ e then h.t.vget x.a k else h.t.vget x.a l
      let v := match (B l).toNat / 32 % 8 with
        | 0 => take (r + i)
        | 1 => take (r + (p ^^^ i))
        | 2 => if i ≤ p then take (r + (p - i)) else h.t.vget x.a l
        | 3 => if p + i < 32 then take (r + (p + i)) else h.t.vget x.a l
        | _ => h.t.vget x.a l
      (v, 0)) ∧
    (h.clean e (readRegs x [(.a, x.a), (.b, x.b)]) [] → Runs (.vpush x) s fun t =>
      let senders := fun (l : Nat) => e.filter fun k => k / 32 * 32 + (B k).toNat % 32 = l
      Completed s t (argsLen x) (passesOf h.p.mask) ∧
      (∀ l ∈ e, ∀ k, (senders l).getLast? = some k → t.here.t.vget x.d l = A k) ∧
      (∀ l ∈ e, senders l = [] → t.here.t.vget x.d l = h.t.vget x.d l) ∧
      (x.c ≠ 7 → ∀ l ∈ e, t.here.t.pred x.c l = decide (2 ≤ (senders l).length)) ∧
      (x.c = 7 → t.here.t.preds = h.t.preds)) ∧
    (h.clean e [] (readRegs x [(.a, x.a)]) → Runs (.vbcast x) s fun t =>
      Spec.Wrote s t x (argsLen x) fun _ => (h.ssrc x .a x.a, 0)) ∧
    Runs (.vid x) s (fun t => Spec.Wrote s t x (argsLen x) fun l => (BitVec.ofNat 32 l, 0)) ∧
    Runs (.vballot x) s (fun t => Completed s t (argsLen x) (passesOf h.p.mask) ∧ t.here.t.ff = h.t.ff ∧
      ∀ l ∈ e, e.Nodup → ∀ j, j < 32 → (t.here.t.vget x.d l).getLsbD j =
        (decide (l / 32 * 32 + j ∈ e) && h.t.pred x.a (l / 32 * 32 + j))) ∧
    Runs (.vballotTeam x) s fun t => Completed s t 8 (passesOf h.p.mask) ∧
      t.here.t.sgetr x.d = BitVec.ofNat 32 (e.filter fun l => h.t.pred x.a l).length) ∧
  (∀ (s : State) (x : Args) (team : Bool) (op : RedOp), s.live → x.lit = none → Spec.redAllowed op x.ty = true →
    let h := s.here
    let e := h.execLanes x.guard
    h.clean e [x.a] [] → (∀ l ∈ e, l < 2 ^ 32) →
    Runs (.vred team op x) s (fun t => Spec.Wrote s t x 8 fun l => Spec.reduced h team op x (2 ^ 32) l) ∧
    Runs (.vscan team op x) s (fun t => Spec.Wrote s t x 8 fun l => Spec.reduced h team op x l l))

/-- What an instruction of the vector, special, conversion or cross-lane group leaves: every lane that does not execute, every
other register, `%tf`, the control registers but for `%amax`, the drop registers and the generators where 07 R145 says so; no path
but the issuing one, no other team, no byte of memory. -/
def Obligations.VectorFrame : Prop :=
  ∀ (s t : State) (i : Instr) (d : Spec.VDest), Spec.vectorDest s.here i = some d → exec i s = .next t →
    let a := s.here.t
    let b := t.here.t
    OnlyTeam s t ∧ SameMem s t ∧ PathsKept s t ∧
    RegsKept a b (d.v.flatMap fun r => places r d.lanes) (d.p.flatMap fun r => places r d.lanes) d.s [] ∧
    (∀ l, l ∉ d.lanes → b.ffGet l = a.ffGet l) ∧
    (d.amax = false → b.amax = a.amax) ∧ (d.drop = false → b.sdrop = a.sdrop ∧ b.scnt = a.scnt) ∧
    (d.rst = false → b.rst = a.rst) ∧ (∀ l, l ∉ d.lanes → sget 0 b.rst l = sget 0 a.rst l) ∧
    b = { a with vregs := b.vregs, vpoison := b.vpoison, preds := b.preds, sregs := b.sregs, spoison := b.spoison,
                 ff := b.ff, rst := b.rst, amax := b.amax, sdrop := b.sdrop, scnt := b.scnt, paths := b.paths,
                 issued := b.issued, passes := b.passes }

/-! ## Memory -/

namespace Sys2Proof.Spec

/-- A memory displacement: the literal in C, extended by sign (04 R92). -/
def disp (x : Args) : DWord :=
  match x.lit with
  | some l => if l.sel = .c then l.val.signExtend 64 else 0
  | none => 0

/-- The address of a lane under a pair base (08 R172): pair in bits 5:0 of SRCA, SE in bit 6, IXP in bit 7. -/
def pairAddr (h : Here) (x : Args) (d : DWord) (l : Nat) : Nat :=
  let k : DWord := if x.a / 64 % 2 = 1 then BitVec.ofNat 64 x.ty.bytes else 1
  let off : DWord := if x.a / 128 % 2 = 1 then (h.t.vget x.b l).signExtend 64 * k else 0
  (h.t.dget (x.a % 64) + off + d).toNat

/-- The address of a lane under a scalar base (08 R172): register in bits 6:0 of SRCA, SE in bit 7. -/
def scalarAddr (h : Here) (x : Args) (d : DWord) (l : Nat) : Nat :=
  let k : DWord := if x.a / 128 % 2 = 1 then BitVec.ofNat 64 x.ty.bytes else 1
  ((h.t.sgetr (x.a % 128)).setWidth 64 + (h.t.vget x.b l).signExtend 64 * k + d).toNat % 2 ^ 32

/-- The virtual address of a scratchpad address: its place in the window (08 R168). -/
def windowAddr (sa : Nat) : Nat := 0x01FFFFFF80000000 + sa

/-- A lane's place, with no fault: aligned, inside an allocation when it is scratchpad, translated otherwise; with no watchpoint
and no speculation tag on it (08 R169, R174). -/
structure Placed (s : State) (va n : Nat) (rd wr : Bool) (tgt pa : Nat) : Prop where
  aligned : va % n = 0
  fits : pa % n = 0
  place : ∃ w base size, s.place s.here va wr = .ok tgt pa w base size
  legal : ∀ sa, windowOf va = some sa → s.spLegal s.here.g s.cur.core sa n = true
  watch : s.watchHit s.cur.core s.here.g.vi va n rd wr = none
  tags : ∀ sa q, windowOf va = some sa → s.spPlace s.here.g.vi s.cur.core sa = some q →
    s.tagsOf q.1 (spKey q.1 q.2) n = []

/-- The issuing core's L1 takes n more lines without giving one up: 128 KiB hold 2,048 (00 R3, 08 R175). -/
def roomFor (s : State) (n : Nat) : Prop := (s.core s.cur.core).l1.lines.length + n ≤ 2048

/-- No byte of a run is uncorrectable, in memory or in the L1 (19 R337). -/
def Sound (s : State) (k n : Nat) : Prop :=
  s.mbad k n = false ∧ ∀ a ∈ (s.core s.cur.core).l1.bad, ¬(k ≤ a ∧ a < k + n)

/-- A release at a scope need not wait: the path's earlier accesses are performed, and, at `.sys` and `.fab`, the L1 holds nothing dirty
for a pool window that is lost (12 R276, R278, 21 R361). -/
def Released (s : State) (scope : Nat) : Prop :=
  (s.core s.cur.core).unperformed s.cur.slot s.cur.path scope = false ∧
  (4 ≤ scope → ∀ a ∈ (s.core s.cur.core).l1.dirty, s.poolLost a = false)

/-- A byte that no write-back of the issuing core's L1 reaches: neither dirty nor on its way to the host links (08 R175, 12 R278). -/
def Settled (s : State) (a : Nat) : Prop :=
  a ∉ (s.core s.cur.core).l1.dirty ∧ ∀ q ∈ (s.core s.cur.core).posted, q.meets a 1 = false

/-- The four loads and stores: whether a load, the address of a lane, the registers that form it, the reason of a reader. -/
def addrOf (h : Here) (x : Args) : Instr → Option (Bool × (Nat → Nat) × List Nat × List Nat × Nat)
  | .ld _ => some (true, pairAddr h x (disp x), if x.a / 128 % 2 = 1 then [x.b] else [], pairRegs (x.a % 64), 2)
  | .st _ => some (false, pairAddr h x (disp x), if x.a / 128 % 2 = 1 then [x.b] else [], pairRegs (x.a % 64), 2)
  | .lds _ => some (true, fun l => windowAddr (scalarAddr h x (disp x) l), [x.b], [x.a % 128], 3)
  | .sts _ => some (false, fun l => windowAddr (scalarAddr h x (disp x) l), [x.b], [x.a % 128], 3)
  | _ => none

/-- The registers of an element (08 R173). -/
def elementRegs (t : Ty) (r : Nat) : List Nat := if t.bytes = 8 then [r, r + 1] else [r]

/-- An element of a lane as its bits (08 R173). -/
def element (h : Here) (t : Ty) (r l : Nat) : Nat :=
  if t.bytes = 8 then (h.t.vget r l).toNat + 2 ^ 32 * (h.t.vget (r + 1) l).toNat else (h.t.vget r l).toNat

/-- The new value of an atomic (08 R178). -/
def atomValue (op : AtomOp) (t : Ty) (old data expect : Nat) : Nat :=
  let signed := t = .i32 ∨ t = .i64
  let o := if t.bytes = 8 then (BitVec.ofNat 64 old).toInt else (BitVec.ofNat 32 old).toInt
  let d := if t.bytes = 8 then (BitVec.ofNat 64 data).toInt else (BitVec.ofNat 32 data).toInt
  match op with
  | .add => if t = .f32 then (rounded 0 .f32 (fadd (fdecode .f32 old) (fdecode .f32 data))).1
            else (old + data) % (if t.bytes = 8 then 2 ^ 64 else 2 ^ 32)
  | .min => if t = .f32 then (chosen 0 false .f32 old data).1
            else if (if signed then d < o else data < old) then data else old
  | .max => if t = .f32 then (chosen 0 true .f32 old data).1
            else if (if signed then o < d else old < data) then data else old
  | .and => old &&& data
  | .or => old ||| data
  | .xor => old ^^^ data
  | .exch => data
  | .cas => if old = expect then data else old

/-- Memory after bytes are written at a key. -/
def writeBytes (m : Nat → Byte) (k n v : Nat) : Nat → Byte :=
  fun a => if k ≤ a ∧ a < k + n then BitVec.ofNat 8 (v / 2 ^ (8 * (a - k))) else m a

/-- The lanes of an atomic, one after another: what each returns, and memory in the end (08 R178). -/
def atomLanes (op : AtomOp) (t : Ty) (key data expect : Nat → Nat) : List Nat → (Nat → Byte) → List (Nat × Nat) × (Nat → Byte)
  | [], m => ([], m)
  | l :: rest, m =>
    let old := ofBytes ((List.range t.bytes).map fun i => m (key l + i))
    let r := atomLanes op t key data expect rest
      (writeBytes m (key l) t.bytes (atomValue op t old (data l) (expect l)))
    ((l, old) :: r.1, r.2)

end Sys2Proof.Spec

/-- A load of which every lane is placed completes: one pending destination takes a value for each executing lane; a reader waits under
reason 2 for `ld` and 3 for `lds`; a lookahead count opens or narrows the window.  While the L1 need not give up a line for it, the
values are the bytes the path sees at the lanes' places, in the low bits of the element (which line a full L1 gives up is a free value,
log 7); of a lane whose datum comes from pooled memory the time of issue is kept, for the case that the window is lost (08 R172 to
R175, 04 R91, 21 R361). -/
def Obligations.LoadsComplete : Prop :=
  ∀ (s : State) (x : Args) (i : Instr) (va : Nat → Nat) (vr sr : List Nat) (reason : Nat) (tgt pa : Nat → Nat), s.live →
    let h := s.here
    let e := h.execLanes x.guard
    let n := x.ty.bytes
    let far := (e.filter fun l => tgt l = 2).map fun l => (l, pKey 2 (pa l), s.time3)
    i ∈ [Instr.ld x, .lds x] → Spec.addrOf h x i = some (true, va, vr, sr, reason) → h.clean e vr sr → h.p.wait = .none →
    (∀ l ∈ e, Spec.Placed s (va l) n true false (tgt l) (pa l) ∧ (h.t.pen = true → tgt l ≠ 3)) →
    Runs i s fun t => (∃ k, Completed s t (argsLen x) k) ∧
      (e ≠ [] → ∃ vals bad, t.here.p.pend = h.p.pend ++ [⟨x.d, vals, n == 8, reason, bad, [], far⟩] ∧ vals.map (·.1) = e) ∧
      ((∀ l ∈ e, Spec.Sound s (pKey (tgt l) (pa l)) n) → Spec.roomFor s e.length →
        t.here.p.pend = h.p.pend ++ (if e = [] then [] else [⟨x.d, e.map fun l =>
          (l, BitVec.ofNat 64 (ofBytes (s.loadAt s.cur (tgt l) (pa l) n).1)), n == 8, reason, [], [], far⟩])) ∧
      t.here.p.window = (if h.p.window = 0 then x.ext else min (h.p.window - 1) x.ext)

/-- A store of which every lane is placed completes, and the path then sees the stored bytes at the place of every lane that no
other lane overlaps, in every space, while the L1 need not give up a line for it (08 R174, R175). -/
def Obligations.StoresComplete : Prop :=
  ∀ (s : State) (x : Args) (i : Instr) (va : Nat → Nat) (vr sr : List Nat) (reason : Nat) (tgt pa : Nat → Nat), s.live →
    let h := s.here
    let e := h.execLanes x.guard
    let n := x.ty.bytes
    let key := fun l => pKey (tgt l) (pa l)
    i ∈ [Instr.st x, .sts x] → Spec.addrOf h x i = some (false, va, vr, sr, reason) →
    h.clean e (vr ++ Spec.elementRegs x.ty x.d) sr → h.t.pen = false →
    (s.core s.cur.core).posted = [] → (s.core s.cur.core).pen = [] →
    (∀ l ∈ e, Spec.Placed s (va l) n false true (tgt l) (pa l)) →
    Runs i s fun t => (∃ k, Completed s t (argsLen x) k) ∧
      (Spec.roomFor s e.length → ∀ l ∈ e, (∀ m ∈ e, m ≠ l → overlap (key l) n (key m) n = false) →
        (t.loadAt s.cur (tgt l) (pa l) n).1 = bytesOf n (Spec.element h x.ty x.d l))

/-- What a load leaves, whatever comes of it: every register, every flag and control register, every byte of memory, every other
team and every workgroup; only the issuing path's state, the core's caches and tables, and reports to firmware change.  (A team in
penumbra state may inherit ids, 10 R232, or perform its deferred operations first, 10 R233; a full L1 writes the line back that it
gives up, which reaches no byte that is settled, and ends the zero flags that watch the bytes.)  What a store leaves, whatever comes
of it: every register, and every byte but those at the places of the executing lanes, in memory, where it is settled or the L1 has
room, and in the core's L1, while that has room (08 R172 to R175). -/
def Obligations.AccessFrame : Prop :=
  (∀ (s t : State) (x : Args), (exec (.ld x) s = .next t ∨ exec (.lds x) s = .next t) →
    let a := s.here.t
    let b := t.here.t
    (∀ k, Spec.Settled s k → t.mget k = s.mget k) ∧
    (Spec.roomFor s (s.here.execLanes x.guard).length → SameMem s t ∧ t.wgs = s.wgs ∧ t.fresh = s.fresh) ∧
    (∀ c k, teamKey c k ≠ teamKey s.cur.core s.cur.slot → t.team c k = s.team c k) ∧
    b = { a with paths := b.paths, issued := b.issued, passes := b.passes, inhIds := b.inhIds, flushing := b.flushing } ∧
    (∀ p, p ≠ s.cur.path → b.path p = a.path p) ∧ t.here.p.mask = s.here.p.mask ∧ t.here.p.stack = s.here.p.stack ∧
    (∀ c w, t.wg c w = { s.wg c w with tiles := (t.wg c w).tiles }) ∧
    t = { s with teams := t.teams, cores := t.cores, dies := t.dies, ends := t.ends, irqs := t.irqs, mem := t.mem,
                 memPoison := t.memPoison, wgs := t.wgs, fresh := t.fresh }) ∧
  (∀ (s t : State) (x : Args) (i : Instr) (va : Nat → Nat) (vr sr : List Nat) (reason : Nat),
    let h := s.here
    let b := t.here.t
    i ∈ [Instr.st x, .sts x] → Spec.addrOf h x i = some (false, va, vr, sr, reason) → exec i s = .next t →
    (∀ a : Nat, (∀ l ∈ h.execLanes x.guard, ∀ tgt pa w base size, s.place h (va l) true = .ok tgt pa w base size →
        ¬(pKey tgt pa ≤ a ∧ a < pKey tgt pa + x.ty.bytes)) →
      (Spec.Settled s a ∨ Spec.roomFor s (h.execLanes x.guard).length → t.mget a = s.mget a) ∧
      (Spec.roomFor s (h.execLanes x.guard).length →
      ((s.core s.cur.core).l1.lines.contains (lineOf a) = true →
        sget 0 (t.core s.cur.core).l1.data a = sget 0 (s.core s.cur.core).l1.data a) ∧
      (a ∈ (t.core s.cur.core).l1.dirty ↔ a ∈ (s.core s.cur.core).l1.dirty))) ∧
    (∀ c k, teamKey c k ≠ teamKey s.cur.core s.cur.slot → t.team c k = s.team c k) ∧
    b = { h.t with paths := b.paths, issued := b.issued, passes := b.passes } ∧
    (∀ p, p ≠ s.cur.path → b.path p = h.t.path p) ∧ t.here.p.mask = h.p.mask ∧ t.here.p.stack = h.p.stack ∧
    ∀ c w, (t.wg c w).accs = (s.wg c w).accs)

/-- A lane whose address is not a multiple of the element size makes a load or store trap ALIGN with no lane performed: INFO is
the lowest such address; with a lookahead count the trap waits in the window (08 R174, 11 R242). -/
def Obligations.MisalignedAccess : Prop :=
  ∀ (s : State) (x : Args) (i : Instr) (va : Nat → Nat) (rd : Bool) (vr sr : List Nat) (reason l : Nat), s.live →
    let h := s.here
    let e := h.execLanes x.guard
    let ahead := if rd then x.ext else 0
    i ∈ [Instr.ld x, .st x, .lds x, .sts x] → Spec.addrOf h x i = some (rd, va, vr, sr, reason) →
    h.clean e (vr ++ (if rd then [] else Spec.elementRegs x.ty x.d)) sr → h.p.pendTrap = none → h.t.pen = false → h.p.wait = .none →
    (l ∈ e ∧ va l % x.ty.bytes ≠ 0 ∧ ∀ m ∈ e, va m % x.ty.bytes ≠ 0 → va l ≤ va m) →
    let info := if i = .lds x ∨ i = .sts x then va l - 0x01FFFFFF80000000 else va l
    let low := leastOf (e.filter fun m => va m % x.ty.bytes ≠ 0)
    (ahead = 0 → exec i s = .next ((s.count s.cur (passesOf h.p.mask)).trapHere s.cur (argsLen x) tcAlign info low)) ∧
    (ahead ≠ 0 → Runs i s fun t => Completed s t (argsLen x) (passesOf h.p.mask) ∧
      t.here.p.pendTrap = some ⟨tcAlign, BitVec.ofNat 64 info, low, h.p.pc, h.p.pc + BitVec.ofNat 64 (argsLen x), 0⟩)

/-- An atomic of which every lane is placed in its space, on bytes without an uncorrectable error, completes: the lanes act one after
another in their order, each returns the old value, and memory holds the new ones (08 R177, R178). -/
def Obligations.AtomicsComplete : Prop :=
  ∀ (s : State) (x : Args) (op : AtomOp) (o : Order) (i : Instr) (va tgt pa : Nat → Nat) (vr sr : List Nat), s.live →
    let h := s.here
    let e := h.execLanes x.guard
    let n := x.ty.bytes
    let c := s.core s.cur.core
    let pair := (if x.a / 128 % 2 = 1 then [x.b] else [], pairRegs (x.a % 64))
    let data := fun l => match x.lit with
      | some k => if k.sel = .c then
          (if x.ty = .i64 then (k.val.signExtend 64).toNat else k.val.toNat) else Spec.element h x.ty x.c l
      | none => Spec.element h x.ty x.c l
    let r := Spec.atomLanes op x.ty (fun l => pKey (tgt l) (pa l)) data (fun l => Spec.element h x.ty x.d l) e s.mget
    (i = .atom op o x ∧ va = Spec.pairAddr h x 0 ∧ (vr, sr) = pair ∧ (∀ l ∈ e, tgt l ≠ 3) ∨
     i = .ratom op o x ∧ va = Spec.pairAddr h x 0 ∧ (vr, sr) = pair ∧ (∀ l ∈ e, tgt l = 3 ∧ windowOf (va l) = none) ∨
     i = .atoms op o x ∧ va = (fun l => Spec.windowAddr (Spec.scalarAddr h x 0 l)) ∧ (vr, sr) = ([x.b], [x.a % 128])) →
    x.ty ∈ [Ty.b32, .i32, .n32, .i64, .n64, .f32] → h.clean e (vr ++ atomRegs op x) sr → h.t.pen = false → h.p.wait = .none →
    c.posted = [] → c.l1.dirty = [] →
    (∀ l ∈ e, Spec.Placed s (va l) n true true (tgt l) (pa l) ∧ s.mbad (pKey (tgt l) (pa l)) n = false) →
    Runs i s fun t => (∃ k, Completed s t (argsLen x) k) ∧ (∀ a, t.mget a = r.2 a) ∧
      t.here.p.pend = h.p.pend ++ (if e = [] then [] else
        [⟨x.d, r.1.map fun q => (q.1, BitVec.ofNat 64 q.2), n == 8, if i = .atoms op o x then 3 else 2, [], [],
          (e.filter fun l => tgt l = 2).map fun l => (l, pKey 2 (pa l), s.time3)⟩])

/-- `pref` and `fence` complete: a prefetch changes no register and no memory (but for the line that a full L1 gives up); a fence
with nothing outstanding goes on: after a release at `.cl` or wider no byte is dirty, and its value is in memory, or, for host and
pooled memory below `.sys`, on its way there, where the core sees it; an acquire has emptied the L1; with a store outstanding it
waits under reason 2, and so does one at `.sys` or `.fab` while the L1 holds dirty bytes for a lost pool window, which leave it first (08
R176, R179, 12 R278, 21 R361). -/
def Obligations.PrefetchAndFence : Prop :=
  ∀ (s : State) (x : Args) (o : Order), s.live →
    let h := s.here
    let c := s.core s.cur.core
    Runs (.pref x) s (fun t => Completed s t (argsLen x) (passesOf h.p.mask) ∧
      (∀ a, Spec.Settled s a → t.mget a = s.mget a) ∧ (Spec.roomFor s (h.execLanes x.guard).length → SameMem s t) ∧
      t.here.t = { h.t with paths := t.here.t.paths, issued := t.here.t.issued, passes := t.here.t.passes }) ∧
    (h.t.pen = false → h.p.wait = .none →
      (Spec.Released s x.md → Runs (.fence o x) s fun t =>
        Completed s t 8 0 ∧
        t.here.t = { h.t with paths := t.here.t.paths, issued := t.here.t.issued, passes := t.here.t.passes } ∧
        (2 ≤ x.md → (o = .rel ∨ o = .ar) → ∀ a ∈ c.l1.dirty, c.l1.lines.contains (lineOf a) = true →
          a ∉ (t.core s.cur.core).l1.dirty ∧ t.coreByte s.cur.core a = sget 0 c.l1.data a ∧
          (4 ≤ x.md ∨ lineOf a / 2 ^ 52 ≠ 1 ∧ lineOf a / 2 ^ 52 ≠ 2 → t.mget a = sget 0 c.l1.data a)) ∧
        (2 ≤ x.md → (o = .acq ∨ o = .ar) → (t.core s.cur.core).l1.lines = []) ∧
        (∀ a, Spec.Settled s a → t.mget a = s.mget a)) ∧
      (c.unperformed s.cur.slot s.cur.path x.md = true → exec (.fence o x) s = .next (s.stallFor s.cur 2)) ∧
      (c.unperformed s.cur.slot s.cur.path x.md = false → 4 ≤ x.md → (∃ a ∈ c.l1.dirty, s.poolLost a = true) →
        Runs (.fence o x) s fun t => t.here.p.wait = .retry 2 ∧ t.here.p.pc = h.p.pc ∧ t.mem = s.mem ∧
          ∀ a ∈ (t.core s.cur.core).l1.dirty, s.poolLost a = false))

namespace Sys2Proof.Spec

/-- A sync object is placed: aligned, in an allocation when it is scratchpad, translated otherwise, and peer memory only at `.fab`
(08 R180, R182). -/
def ObjectPlaced (s : State) (obj : Nat) (wr : Bool) (scope tgt pa : Nat) : Prop :=
  obj % 8 = 0 ∧ pa % 8 = 0 ∧
  match windowOf obj with
  | some sa => ∃ q, s.spPlace s.here.g.vi s.cur.core sa = some q ∧ s.spLegal s.here.g s.cur.core sa 8 = true ∧
      s.tagsOf q.1 (spKey q.1 q.2) 8 = [] ∧ tgt = 4 ∧ pa = q.1 * 2 ^ 22 + q.2
  | none => (∃ w base size, s.translate s.cur.core s.here.g.vi s.here.t obj wr = .ok tgt pa w base size) ∧
      (tgt = 3 → scope = 5)

/-- `k` is the cached place of a byte of the region bound to an object: of byte i from address p on, which is the region's base or the
start of a 64 KiB page, the byte in that page (08 R180). -/
def BoundByte (s : State) (obj k : Nat) : Prop :=
  ∃ b p i tgt pa w base size, (s.core s.cur.core).bindOf s.here.g.vi obj = some b ∧ (p = b.base ∨ p % 2 ^ 16 = 0) ∧
    b.base ≤ p ∧ p + i < b.base + b.len ∧ p % 2 ^ 16 + i < 2 ^ 16 ∧ s.place s.here p false = .ok tgt pa w base size ∧
    tgt < 3 ∧ k = pKey tgt pa + i

end Sys2Proof.Spec

/-- Entry consistency completes: `ebind` names a region under an object, for this workgroup too, or waits under reason 15 while the
table of 64 is full; `eunbind` takes the workgroup out; `eacq` reads the object, at `.cl` and wider not from the L1's copy, leaves no
line of the bound region in the L1 at `.cl` and wider, and waits under reason 2 for the cycle in which dD is written (how long: log 33);
`erel`, at `.cl` and wider, first writes back the region: no byte of it is dirty, and the value of each that was is in memory, or, for
host and pooled memory below `.sys`, on its way there; then it writes the object, and the path sees the value; at `.cl` and wider an
object in HBM4, and at `.sys` and wider every cached one outside lost pool windows, has it in memory (08 R180 to R182, 12 R278, 21
R361). -/
def Obligations.EntryConsistency : Prop :=
  ∀ (s : State) (x : Args) (tgt pa : Nat), s.live →
    let h := s.here
    let c := s.core s.cur.core
    let obj := (h.t.dget x.a).toNat
    let base := (h.t.dget x.b).toNat
    let len := (h.ssrc x .c x.c).toNat
    (h.clean [] [] (pairRegs x.a ++ pairRegs x.b ++ readRegs x [(.c, x.c)]) → obj % 8 = 0 →
      (s.regionSpaces h base len).length ≤ 1 →
      ((∃ b, c.bindOf h.g.vi obj = some b) ∨ c.binds.length < 64 → Runs (.ebind x) s fun t =>
        Completed s t (argsLen x) 0 ∧ ∃ b, (t.core s.cur.core).bindOf h.g.vi obj = some b ∧ b.base = base ∧ b.len = len ∧
          h.t.w ∈ b.holders) ∧
      (c.bindOf h.g.vi obj = none → 64 ≤ c.binds.length → exec (.ebind x) s = .next (s.waitFor s.cur 15))) ∧
    (h.clean [] [] (pairRegs x.a) → obj % 8 = 0 → Runs (.eunbind x) s fun t => Completed s t 8 0 ∧
      ∀ b ∈ (t.core s.cur.core).binds, b.vi = h.g.vi → b.obj = obj → h.t.w ∉ b.holders) ∧
    (h.clean [] [] (pairRegs x.a) → Spec.ObjectPlaced s obj false x.md tgt pa → Runs (.eacq x) s fun t =>
      t.here.p.pc = h.p.pc + 8 ∧ t.here.p.wait = .pause 2 ∧ t.here.t.issued = h.t.issued + 1 ∧ t.here.t.passes = h.t.passes ∧
      (let u := if tgt < 3 ∧ 2 ≤ x.md then s.l1Drop s.cur.core (lineOf (pKey tgt pa)) else s
       t.here.t.dget x.d = BitVec.ofNat 64 (ofBytes (u.loadAt s.cur tgt pa 8).1)) ∧
      (2 ≤ x.md → ∀ k, Spec.BoundByte s obj k → lineOf k ∉ (t.core s.cur.core).l1.lines)) ∧
    (h.clean [] [] (pairRegs x.a ++ (if x.lit.isSome then [] else pairRegs x.b)) → Spec.ObjectPlaced s obj true x.md tgt pa →
      h.t.pen = false → c.posted = [] → c.pen = [] → Spec.Released s x.md → Runs (.erel x) s fun t =>
        Completed s t (argsLen x) 0 ∧
        (t.loadAt s.cur tgt pa 8).1 = bytesOf 8 (h.dsrc x .b x.b false).toNat ∧
        (pa < 2 ^ 52 → (tgt = 0 ∧ 2 ≤ x.md ∨ tgt < 3 ∧ 4 ≤ x.md ∧ ∀ i, i < 8 → s.poolLost (pKey tgt pa + i) = false) →
          t.mgets (pKey tgt pa) 8 = bytesOf 8 (h.dsrc x .b x.b false).toNat) ∧
        (2 ≤ x.md → ∀ k ∈ c.l1.dirty, c.l1.lines.contains (lineOf k) = true → Spec.BoundByte s obj k →
          ¬(pKey tgt pa ≤ k ∧ k < pKey tgt pa + 8) →
          k ∉ (t.core s.cur.core).l1.dirty ∧ t.coreByte s.cur.core k = sget 0 c.l1.data k ∧
          (4 ≤ x.md ∨ k / 2 ^ 52 ≠ 1 ∧ k / 2 ^ 52 ≠ 2 → t.mget k = sget 0 c.l1.data k)))

/-! ## Synchronisation -/

namespace Sys2Proof.Spec

/-- A barrier after the arrival of `lanes` lanes with a count operand: the first arrival of a phase fixes the expected count, 0
standing for the member lanes of the workgroup; the phase completes when as many have arrived (08 R183). -/
def arrive (b : Barrier) (lanes count members : Nat) : Barrier :=
  let expect := b.expect.getD count
  let needed := if expect = 0 then members else expect
  if needed ≤ b.arrived + lanes then ⟨b.phase + 1, 0, none⟩ else ⟨b.phase, b.arrived + lanes, some expect⟩

/-- Phase `ph` of a barrier whose phase register stands at `p` has completed (08 R183). -/
def passed (p ph : Word) : Prop := 1 ≤ (p - ph).toNat ∧ (p - ph).toNat < 2 ^ 31

end Sys2Proof.Spec

/-- Tree barriers: `tbar` arrives with the path's lanes, is counted, and waits; when every compute team of every workgroup of the
group has arrived, with one lane or more, the phase completes at all of them; then `tbar` goes on.  An undeclared level traps
ILLEGAL_ENCODING, a shadow team ILLEGAL_CONVERGENCE; a wait of T ticks at an instruction that waits for a barrier or a timeline
traps BARRIER_TIMEOUT, at the lowest lane that executes it (11 R241; where none does, the lowest active lane, log 36) (08 R185,
R186, 18 R323). -/
def Obligations.TreeBarriers : Prop :=
  ∀ (s : State) (x : Args) (lv : Level) (core w level slot path ph : Nat),
    let h := s.here
    let b := h.g.treeBar x.a
    let r : PathRef := ⟨core, slot, path⟩
    let q := s.hereAt r
    (s.live → h.g.level x.a = none → TrapsAt (.tbar x) s 8 tcIllegalEncoding 0 (leastOf h.p.mask)) ∧
    (s.live → h.g.level x.a = some lv → 1 ≤ lv.dom → lv.dom ≤ 4 →
      (h.t.shadow = true → TrapsAt (.tbar x) s 8 tcIllegalConvergence 0 (leastOf h.p.mask)) ∧
      (h.t.shadow = false → h.p.wait = .none → h.t.pen = false →
        Spec.Released s lv.scope → Runs (.tbar x) s fun t => Began s t (.tree x.a b.phase) 0 ∧
          (t.here.g.treeBar x.a).phase = b.phase ∧
          ∀ k, k ∈ (t.here.g.treeBar x.a).lanes ↔ k ∈ b.lanes ∨ ∃ l ∈ h.p.mask, k = s.cur.slot * 1024 + l) ∧
      (h.t.shadow = false → h.p.wait = .tree x.a ph → b.phase ≠ ph → Runs (.tbar x) s fun t => WentOn s t (h.p.pc + 8))) ∧
    (((s.wg core w).level level).isSome = true → s.saves = [] →
      (∀ g ∈ s.wgs, g.2.sameGroup (s.wg core w) level = true → s.treeArrived (g.1 / 16) (g.1 % 16) level = true) →
      (∃ g ∈ s.wgs, g.2.sameGroup (s.wg core w) level = true ∧ (g.2.treeBar level).lanes ≠ []) →
      Runs (.treeBarrierComplete core w level) s fun t => t.wgs.map (·.1) = s.wgs.map (·.1) ∧
        (∀ i, i < s.wgs.length →
          let g := (s.wgs.getD i (0, Wg.empty)).2
          let g1 := (t.wgs.getD i (0, Wg.empty)).2
          g1.treeBar level = (if g.sameGroup (s.wg core w) level = true then ⟨(g.treeBar level).phase + 1, []⟩
            else g.treeBar level)) ∧
        t = { s with wgs := t.wgs }) ∧
    (q.p.mask ≠ [] → (q.p.wait.timed = true ∨
        ((∃ l, q.p.wait = .held l) ∨ (∃ d, q.p.wait = .heldDone d) ∨ ∃ n, q.p.wait = .retry n) ∧ waitsWord (s.wordAt r 8) = true) →
      q.p.eclipse = none → q.g.timeout ≠ 0 → 3 * q.g.timeout ≤ q.p.waited →
      let e := q.execLanes (guardOf (s.wordAt r 8 / 2 ^ 16 % 16))
      exec (.barrierTimeout core slot path) s =
        .next (s.trapHere r (s.lenAt r) tcBarrierTimeout 0 (leastOf (if e = [] then q.p.mask else e))))

/-- Named barriers: `nbarr` arrives and returns the phase it arrived in; `nbwait` goes on once its phase has completed and waits
otherwise; `nbsync` does both.  An instruction that waits is counted when its wait begins, and not again (11 R248).  Timelines:
`tlread` returns the largest n such that every operation numbered n or below has completed; `tlwait` goes on once that number has
reached its operand, and waits under its value otherwise.  A path that already waits goes by the phase or the count it read when the
wait began, and does not read sB again: the model's reading, log 33 (08 R183, R184, R187). -/
def Obligations.BarriersAndTimelines : Prop :=
  (∀ (s : State) (x : Args) (ph : Word), s.live →
    let h := s.here
    let c := s.core s.cur.core
    let n := passesOf h.p.mask
    let b := h.g.bar x.a
    let v := h.ssrc x .b x.b
    let b1 := Spec.arrive b (h.execLanes x.guard).length v.toNat (s.memberCount s.cur.core h.t.w)
    let free := c.unperformed s.cur.slot s.cur.path 1 = false
    let clean := h.clean [] [] (readRegs x [(.b, x.b)])
    (clean → h.t.pen = false → free → Runs (.nbarr x) s fun t => Completed s t (argsLen x) n ∧
      t.here.t.sgetr x.d = b.phase ∧ t.here.g.bar x.a = b1) ∧
    (h.p.wait = .none → clean →
      (Spec.passed b.phase v → Runs (.nbwait x) s fun t => Completed s t (argsLen x) 0) ∧
      (¬Spec.passed b.phase v → Runs (.nbwait x) s fun t => Began s t (.barrier x.a v) 0)) ∧
    (h.p.wait = .none → clean → h.t.pen = false → free →
      (Spec.passed b1.phase b.phase → Runs (.nbsync x) s fun t => Completed s t (argsLen x) n ∧ t.here.g.bar x.a = b1) ∧
      (¬Spec.passed b1.phase b.phase → Runs (.nbsync x) s fun t => Began s t (.barrier x.a b.phase) n ∧ t.here.g.bar x.a = b1)) ∧
    (h.p.wait = .barrier x.a ph → Spec.passed b.phase ph →
      let on := fun t => WentOn s t (h.p.pc + BitVec.ofNat 64 (argsLen x))
      Runs (.nbwait x) s on ∧ Runs (.nbsync x) s fun t => on t ∧ t.here.g.bar x.a = b)) ∧
  (∀ (s : State) (x : Args) (v : DWord), s.live →
    let h := s.here
    let tl := h.g.timeline x.a
    let done := fun n => (sget OpStatus.empty tl.ops n).done
    let b := h.dsrc x .b x.b false
    let reached := fun (k : DWord) => ∀ m, 1 ≤ m → m ≤ k.toNat → m ≤ tl.issued ∧ done m = true
    (tl.issued < 2 ^ 64 → Runs (.tlread x) s fun t => Completed s t 8 0 ∧
      let n := (t.here.t.dget x.d).toNat
      (∀ m, 1 ≤ m → m ≤ n → done m = true) ∧ (n = tl.issued ∨ n < tl.issued ∧ done (n + 1) = false)) ∧
    (h.p.wait = .none → h.clean [] [] (if x.lit.isSome then [] else pairRegs x.b) →
      (reached b → Runs (.tlwait x) s fun t => Completed s t (argsLen x) 0) ∧
      (¬reached b → Runs (.tlwait x) s fun t => Began s t (.timeline x.a b) 0)) ∧
    (h.p.wait = .timeline x.a v → reached v → Runs (.tlwait x) s fun t =>
      WentOn s t (h.p.pc + BitVec.ofNat 64 (argsLen x))))

/-- Rings: `rput` fills the next slot of the ring of the path's cluster, in every consumer core's copy, or waits under reason 8
while it is full; the slot is published when all copies are written; `rtake` takes a published slot of this core's words; `rdone`
gives it back and moves the cursor.  The shadow queue: `qput` of a shadow team appends one element per lane to its compute team's
window, or waits under reason 8 while it holds 8; `qtake` takes the oldest; each traps ILLEGAL_ENCODING in a team of the wrong kind, at
the lowest lane that executes it (11 R241; where none does, the lowest active lane, log 36) (08 R188 to R190). -/
def Obligations.RingsAndQueues : Prop :=
  (∀ (s : State) (x : Args) (cluster ring slot : Nat), s.live →
    let h := s.here
    let e := h.execLanes x.guard
    let cl := clusterOf s.cur.core
    let r := sget Ring.empty (s.cluster cl).ring x.a
    let after := fun (t : State) => sget Ring.empty (t.cluster cl).ring x.a
    let c := s.cur.core % 4
    let k := sget 0 r.cursor c
    let u := sget Ring.empty (s.cluster cluster).ring ring
    let inside := e.filter fun l => 4 * l < r.z
    (r.vi = h.g.vi → r.replay = h.g.replay → h.t.pen = false → h.p.wait = .none →
      (h.clean e [x.b] [] → r.slots ≠ 0 → (∀ l ∈ e, 4 * l < r.z) → s.ringLive cl r = true →
        (s.core s.cur.core).unperformed s.cur.slot s.cur.path 2 = false →
        ((r.slotAt r.wp).full = false → r.z % 4 = 0 → r.wp < r.slots → r.area + r.slots * r.z ≤ 2 ^ 22 →
          Runs (.rput x) s fun t => Completed s t 8 (passesOf h.p.mask) ∧
            (after t).slotAt r.wp = ⟨true, false, r.cmask⟩ ∧ (after t).wp = (r.wp + 1) % r.slots ∧
            ∀ m ∈ r.cmask, ∀ l ∈ e,
              t.mnat (spKey (cl * 4 + m) (r.area + r.wp * r.z + 4 * l)) 4 = (h.t.vget x.b l).toNat) ∧
        ((r.slotAt r.wp).full = true → exec (.rput x) s = .next (s.waitFor s.cur 8))) ∧
      (r.cmask.contains c = true → (r.slotAt k).published = true → (r.slotAt k).mask.contains c = true →
        ((∀ l ∈ inside, s.watchHit s.cur.core h.g.vi (windowBase + h.g.lcore * 2 ^ 22 + r.area + k * r.z + 4 * l) 4 true false
            = none ∧ s.tagsOf s.cur.core (spKey s.cur.core (r.area + k * r.z + 4 * l)) 4 = [] ∧
            s.mbad (spKey s.cur.core (r.area + k * r.z + 4 * l)) 4 = false) →
          Runs (.rtake x) s fun t => Completed s t 8 (passesOf h.p.mask) ∧
            t.here.p.pend = h.p.pend ++ (if e = [] then [] else [⟨x.d, e.map fun l => (l,
              if 4 * l < r.z then BitVec.ofNat 64 (s.mnat (spKey s.cur.core (r.area + k * r.z + 4 * l)) 4) else 0),
              false, 3, [], [], []⟩])) ∧
        Runs (.rdone x) s fun t => Completed s t 8 0 ∧
          sget 0 (after t).cursor c = (k + 1) % r.slots ∧
          (let left := (r.slotAt k).mask.filter fun m => m ≠ c
           (left = [] → (after t).slotAt k = RingSlot.empty) ∧
           (left ≠ [] → ((after t).slotAt k).mask = left ∧ ((after t).slotAt k).full = (r.slotAt k).full)))) ∧
    ((u.slotAt slot).full = true → Runs (.ringSlotPublish cluster ring slot) s fun t =>
      ((sget Ring.empty (t.cluster cluster).ring ring).slotAt slot).published = true ∧ t = { s with clusters := t.clusters })) ∧
  (∀ (s : State) (x : Args) (k : Nat) (v : Sparse Word) (rest : List (Sparse Word)), s.live →
    let h := s.here
    let e := h.execLanes x.guard
    let low := leastOf (if e = [] then h.p.mask else e)
    (h.t.partner = some k → h.t.shadow = true → h.clean e [x.a] [] → h.t.pen = false →
      (s.core s.cur.core).unperformed s.cur.slot s.cur.path 1 = false →
      ((s.team s.cur.core k).window.length < 8 → Runs (.qput x) s fun t => Completed s t 8 (passesOf h.p.mask) ∧
        ∃ d, (t.team s.cur.core k).window = (s.team s.cur.core k).window ++ [d] ∧ ∀ l ∈ e, sget 0 d l = h.t.vget x.a l) ∧
      (8 ≤ (s.team s.cur.core k).window.length → exec (.qput x) s = .next (s.waitFor s.cur 8))) ∧
    (h.t.partner = some k → h.t.shadow = false → h.t.window = v :: rest → Runs (.qtake x) s fun t =>
      Completed s t 8 (passesOf h.p.mask) ∧ t.here.t.window = rest ∧ ∀ l ∈ e, t.here.t.vget x.d l = sget 0 v l) ∧
    ((h.t.partner = none ∨ h.t.shadow = false) → TrapsAt (.qput x) s 8 tcIllegalEncoding 0 low) ∧
    ((h.t.partner = none ∨ h.t.shadow = true) → TrapsAt (.qtake x) s 8 tcIllegalEncoding 0 low))

/-- Fibres: `fbopen` reads a well-formed descriptor and each lane's cursor and end; `fbnext` moves cursors that have not reached
their end; `fbend` tells which have; `fbget` fetches coordinate and value of the element at the cursor; `fbclose` empties the
register (08 R191, R192). -/
def Obligations.Fibres : Prop :=
  ∀ (s : State) (x : Args), s.live →
    let h := s.here
    let e := h.execLanes x.guard
    let n := passesOf h.p.mask
    let f := h.t.fibre x.a
    let fmt := h.t.sgetr (x.a + 2)
    let on := e.filter fun l => f.c l < f.e l
    let ca := fun l => f.cbase.toNat + (f.c l).toNat * f.csize
    let va := fun l => f.vbase.toNat + (f.c l).toNat * f.vt.bytes
    let at_ := fun a => (4, (match s.spPlace h.g.vi s.cur.core a with
      | some q => spKey q.1 q.2
      | none => 0) % 2 ^ 52)
    let read := fun a m => match s.spPlace h.g.vi s.cur.core a with
      | some q => s.mnat (spKey q.1 q.2) m
      | none => 0
    let fine := fun a m => a % m = 0 ∧ s.spLegal h.g s.cur.core a m = true ∧
      s.watchHit s.cur.core h.g.vi (windowBase + a) m true false = none ∧
      ∀ q, s.spPlace h.g.vi s.cur.core a = some q → s.tagsOf q.1 (spKey q.1 q.2) m = [] ∧ s.mbad (spKey q.1 q.2) m = false
    let wide := fun (t : Ty) v => if t = .f32 then BitVec.ofNat 32 v
      else if t.isInt then BitVec.ofInt 32 (intOf t v) else BitVec.ofNat 32 (fround .f32 .rne 0 false (fdecode t v)).1
    (h.clean e [x.b, x.c] (groupRegs x.a 3) →
      fmt.toNat / 64 = 0 → (fmt.toNat / 16 % 4 = 1 ∨ fmt.toNat / 16 % 4 = 2) →
      Ty.ofCode (fmt.toNat % 16) ∈ [Ty.f32, .f16, .bf16, .e4m3, .e5m2, .i8, .i16, .i32] →
      (h.t.sgetr x.a).toNat % (if fmt.toNat / 16 % 4 = 1 then 2 else 4) = 0 →
      (h.t.sgetr (x.a + 1)).toNat % (Ty.ofCode (fmt.toNat % 16)).bytes = 0 →
      Runs (.fbopen x) s fun t => Completed s t 8 n ∧
        let g := t.here.t.fibre x.d
        g.cbase = h.t.sgetr x.a ∧ g.vbase = h.t.sgetr (x.a + 1) ∧ g.fmt = fmt ∧
        (∀ l ∈ e, g.c l = h.t.vget x.b l ∧ g.e l = h.t.vget x.c l) ∧
        ∀ l, l ∉ e → g.c l = (h.t.fibre x.d).c l ∧ g.e l = (h.t.fibre x.d).e l) ∧
    Runs (.fbnext x) s (fun t => Completed s t 8 n ∧
      ∀ l, (t.here.t.fibre x.a).c l = (if l ∈ e ∧ f.c l < f.e l then f.c l + 1 else f.c l) ∧
        (t.here.t.fibre x.a).e l = f.e l) ∧
    Runs (.fbend x) s (fun t => Completed s t 8 n ∧
      (x.d ≠ 7 → ∀ l ∈ e, t.here.t.pred x.d l = decide (f.e l ≤ f.c l))) ∧
    ((s.core s.cur.core).posted = [] → (s.core s.cur.core).pen = [] →
      f.vt ∈ [Ty.f32, .f16, .bf16, .e4m3, .e5m2, .i8, .i16, .i32] →
      (∀ l ∈ on, fine (ca l) f.csize ∧ fine (va l) f.vt.bytes) →
      Runs (.fbget x) s fun t =>
        Completed s t 8 (memParts s.cur.core h.p.mask (e.filter fun l => !on.contains l)
          (on.flatMap fun l => [(l, at_ (ca l)), (l, at_ (va l))])).length ∧
        t.here.p.pend = h.p.pend ++ (if e = [] then [] else
        [⟨x.d, e.map fun l => (l, if f.c l < f.e l then BitVec.ofNat 64 (read (ca l) f.csize) else 0xFFFFFFFF), false, 3, [], [], []⟩,
         ⟨x.d + 1, e.map fun l => (l, if f.c l < f.e l then (wide f.vt (read (va l) f.vt.bytes)).setWidth 64 else 0),
          false, 3, [], [], []⟩])) ∧
    Runs (.fbclose x) s fun t => Completed s t 8 0 ∧ t.here.t.fibre x.a = Fibre.empty

/-! ## Tiles and the matrix engine -/

namespace Sys2Proof.Spec

/-- The scratchpad key of element (i, j) of a tile under a layout word (04 R105, 09 R198). -/
def elementKey (s : State) (l : Layout) (bits i j : Nat) : Nat :=
  let q := (s.spPlace s.here.g.vi s.cur.core l.base).getD (s.cur.core, 0)
  spKey q.1 (q.2 + l.off bits 0 i j)

/-- The pattern of element (i, j) in scratchpad: whole bytes, or the nibble that the layout names (04 R105). -/
def patternAt (s : State) (l : Layout) (bits i j : Nat) : Nat :=
  if bits = 4 then s.mnat (elementKey s l bits i j) 1 / 16 ^ l.nib i j % 16 else s.mnat (elementKey s l bits i j) (bits / 8)

/-- The scratchpad key of the first scale byte, whose address stands in scalar register r (09 R198). -/
def scaleKey (s : State) (r : Nat) : Nat :=
  let p := (s.spPlace s.here.g.vi s.cur.core (s.here.t.sgetr r).toNat).getD (s.cur.core, 0)
  spKey p.1 p.2

/-- Byte k of the scale bytes of a tile: the code of block k, then, from the next word on, the super-scales; the bytes between belong
to none (09 R198, R199). -/
def scaleByte (t : Tile) (k : Nat) : Option Byte :=
  if k < t.blocks then some (sget 0 t.codes k)
  else if t.superOff ≤ k ∧ k < t.superOff + 4 * t.superCount then
    some (BitVec.ofNat 8 ((sget 0 t.supers ((k - t.superOff) / 4)).toNat / 2 ^ (8 * ((k - t.superOff) % 4))))
  else none

/-- What a tile store writes has keys of scratchpad (00 R3). -/
def storeFits (s : State) (t : Tile) (l : Layout) (sS : Option Nat) : Prop :=
  (∀ i j, i < t.nrows → j < t.ncols → elementKey s l t.bits i j + 8 ≤ 5 * 2 ^ 52) ∧
  ∀ r, sS = some r → scaleKey s r + t.scaleBytes ≤ 5 * 2 ^ 52

/-- No scale byte of a store covers one of n bytes at a key. -/
def noScale (s : State) (t : Tile) (sS : Option Nat) (k n : Nat) : Prop :=
  ∀ r i v, sS = some r → scaleByte t i = some v → overlap k n (scaleKey s r + i) 1 = false

/-- The checks of `tld` and `tst` hold: the collective rule, a valid tile, a layout within reach, and scale bytes given for a scaled
tile, aligned and within reach (01 R17, 04 R106, 09 R197 to R199). -/
structure TileReady (s : State) (t : Tile) (l : Layout) (sS : Option Nat) (must : Bool) : Prop where
  all : s.here.p.mask = s.here.t.member
  valid : t.valid = true
  aligned : l.misaligned t.bits = false
  inside : s.spanFail s.here.g s.cur.core l.base (l.span t.bits 1 t.nrows t.ncols) = none
  scales : match sS with
    | none => must = true → t.mode = 0
    | some r => t.mode ≠ 0 ∧ (s.here.t.sgetr r).toNat % 4 = 0 ∧
        s.spanFail s.here.g s.cur.core (s.here.t.sgetr r).toNat t.scaleBytes = none

/-- Nothing stands between the path and its scratchpad: no store of the core is still posted or deferred, no line is tagged, and
no word is bad. -/
structure Plain (s : State) : Prop where
  posted : (s.core s.cur.core).posted = []
  pen : (s.core s.cur.core).pen = []
  held : s.here.t.pen = false
  tags : ∀ c, (s.core c).tags = []
  good : s.memPoison = []

/-- The checks that `mma` and `mmaa` share hold (09 R201, R383). -/
structure StepReady (s : State) (x : Args) : Prop where
  loadedA : (s.here.g.tile x.a).loading = false
  loadedB : (s.here.g.tile x.b).loading = false
  room : (s.core s.cur.core).mqueue.length + (s.core s.cur.core).running.toList.length < 32
  all : s.here.p.mask = s.here.t.member
  validA : (s.here.g.tile x.a).valid = true
  validB : (s.here.g.tile x.b).valid = true
  shape : mmaShape x.a x.b (s.here.g.tile x.a) (s.here.g.tile x.b) x.ty = none
  clean : (s.here.g.tile x.a).poisoned = false ∧ (s.here.g.tile x.b).poisoned = false ∧
    s.here.g.accPoisoned x.d (s.here.g.tile x.a).nrows (s.here.g.tile x.b).ncols = false

/-- The products of cell (i, j) of a step, with their flags, in ascending k (03 R79, 09 R201). -/
def products (A B : Tile) (i j : Nat) : List (FVal × Flags) :=
  (List.range A.ncols).map fun k => fmul (A.operand i k).1 (B.operand k j).1

end Sys2Proof.Spec

/-- Tile loads and stores complete: every element of the tile takes the pattern that its layout place holds in scratchpad, and every
scale code and super-scale the bytes at sS, and a load is whole when TILE_LOAD_WHOLE comes; a store puts every element's bytes, or its
nibble and no other, at a place that nothing else it stores shares, and the scale bytes at sS.  `tzero` zeroes every
element and scale of a tile and sets its zero flag; `tzf` reads the flag.  A tile that an unfinished load or a matrix step holds makes
them wait under reason 4 (09 R195, R198 to R200, R206). -/
def Obligations.Tiles : Prop :=
  (∀ (s : State) (x : Args) (core w tile : Nat), s.live →
    let h := s.here
    let sS := optScalar x.c
    let l := h.layout x.a
    let d := h.g.tile x.d
    let b := h.g.tile x.b
    (h.tileHeld s x.d = true → exec (.tld x) s = .next (s.waitFor s.cur 4)) ∧
    (b.loading = true → exec (.tst x) s = .next (s.waitFor s.cur 4)) ∧
    (Spec.Plain s → h.clean [] [] (groupRegs x.a 3 ++ sS.toList) →
      (h.tileHeld s x.d = false → Spec.TileReady s d l sS true → Runs (.tld x) s fun t => Completed s t 8 0 ∧
        (t.here.g.tile x.d).loading = true ∧
        (∀ i j, i < d.nrows → j < d.ncols → (t.here.g.tile x.d).elem i j = Spec.patternAt s l d.bits i j) ∧
        ((t.here.g.tile x.d).zf = true → ∀ i j, i < d.nrows → j < d.ncols → Spec.patternAt s l d.bits i j = 0) ∧
        (∀ r, sS = some r →
          (∀ b, b < d.blocks → sget 0 (t.here.g.tile x.d).codes b = s.mget (Spec.scaleKey s r + b)) ∧
          ∀ b, b < d.superCount → sget 0 (t.here.g.tile x.d).supers b =
            BitVec.ofNat 32 (s.mnat (Spec.scaleKey s r + d.superOff + 4 * b) 4)) ∧
        SameMem s t) ∧
      (b.loading = false → Spec.TileReady s b l sS false → b.poisonedData = false → (sS ≠ none → b.poisonedScale = false) →
        Runs (.tst x) s fun t => Completed s t 8 0 ∧
        let key := Spec.elementKey s l b.bits
        let inTile := fun i j => i < b.nrows ∧ j < b.ncols
        (Spec.storeFits s b l sS → b.bits ≠ 4 → ∀ i j, inTile i j →
          (∀ i' j', inTile i' j' → (i', j') ≠ (i, j) → overlap (key i j) (b.bits / 8) (key i' j') (b.bits / 8) = false) →
          Spec.noScale s b sS (key i j) (b.bits / 8) →
          ∀ k, k < b.bits / 8 → t.seen s.cur (key i j + k) = BitVec.ofNat 8 (b.elem i j / 2 ^ (8 * k))) ∧
        (Spec.storeFits s b l sS → b.bits = 4 → ∀ i j, inTile i j → Spec.noScale s b sS (key i j) 1 →
          let n := l.nib i j
          let nibble := fun (u : State) m => (u.seen s.cur (key i j)).toNat / 16 ^ m % 16
          ((∀ i' j', inTile i' j' → (i', j') ≠ (i, j) → ¬(key i' j' = key i j ∧ l.nib i' j' = n)) → nibble t n = b.elem i j) ∧
          ((∀ i' j', inTile i' j' → ¬(key i' j' = key i j ∧ l.nib i' j' = 1 - n)) → nibble t (1 - n) = nibble s (1 - n))) ∧
        (Spec.storeFits s b l sS → ∀ r k v, sS = some r → Spec.scaleByte b k = some v →
          t.seen s.cur (Spec.scaleKey s r + k) = v))) ∧
    Runs (.tileLoadWhole core w tile) s fun t => ((t.wg core w).tile tile).loading = false ∧ t = { s with wgs := t.wgs }) ∧
  (∀ (s : State) (x : Args), s.live →
    let h := s.here
    (h.tileHeld s x.d = false → Runs (.tzero x) s fun t => Completed s t 8 0 ∧
      let u := t.here.g.tile x.d
      (∀ i j, u.elem i j = 0) ∧ (∀ b, sget 0 u.codes b = 0 ∧ sget 0 u.supers b = 0) ∧ u.zf = true ∧ u.poison = [] ∧
      u.width = (h.g.tile x.d).width ∧ u.rows = (h.g.tile x.d).rows ∧ u.cols = (h.g.tile x.d).cols ∧
      u.scale = (h.g.tile x.d).scale) ∧
    (h.tileHeld s x.d = true → exec (.tzero x) s = .next (s.waitFor s.cur 4)) ∧
    ((h.g.tile x.a).loading = false → Runs (.tzf x) s fun t => Completed s t 8 0 ∧
      t.here.t.gget x.d = (h.g.tile x.a).zf) ∧
    ((h.g.tile x.a).loading = true → exec (.tzf x) s = .next (s.waitFor s.cur 4)))

/-- Matrix steps are queued: `mma` queues one and waits for it; `mmaa` queues one into the team's open batch and goes on;
MATRIX_STEP_START begins the oldest queued step on a free engine.  The end of a matrix step: with the occupancy over and no mismatch,
every cell of the accumulator takes the sum of its products in groups of 32, rounded or saturated group by group; the `mma` goes on.  A
first mismatch runs the step again, a second makes the `mma` trap MEM_FATAL (09 R201 to R203, 03 R79, R80). -/
def Obligations.MatrixSteps : Prop :=
  (∀ (s : State) (x : Args) (core : Nat) (m : MStep) (rest : List MStep),
    let h := s.here
    let c := s.core s.cur.core
    let after := fun (t : State) => (t.core s.cur.core).mqueue
    (s.live → Spec.StepReady s x →
      ((∀ k, h.p.wait ≠ .matrix k) → s.accBusy s.cur.core h.t.w x.d = false →
        s.mmaBusy s.cur.core s.cur.slot h.t.w x.d = false → Runs (.mma x) s fun t =>
          ∃ q, after t = c.mqueue ++ [q] ∧ q.acc = x.d ∧ q.ta = x.a ∧ q.tb = x.b ∧ q.path = some s.cur.path ∧
            q.slot = s.cur.slot ∧ q.cycles = mmaCycles (h.g.tile x.a) (h.g.tile x.b) ∧
            t.here.p.wait = .matrix q.id ∧ t.here.p.pc = h.p.pc ∧ t.here.t.issued = h.t.issued + 1 ∧ q.sthr = h.t.sthr) ∧
      Runs (.mmaa x) s fun t => Completed s t 8 0 ∧
        ∃ q, after t = c.mqueue ++ [q] ∧ q.acc = x.d ∧ q.ta = x.a ∧ q.tb = x.b ∧ q.path = none ∧ q.slot = s.cur.slot ∧
          ∃ b ∈ t.here.t.batches, b.id = q.batch ∧ x.d ∈ b.accs) ∧
    ((s.core core).running = none → (s.core core).mqueue = m :: rest → (s.core core).gated = false →
      (s.core core).waking = false → Runs (.matrixStepStart core) s fun t =>
        (t.core core).running = some m ∧ (t.core core).mqueue = rest ∧ (t.core core).runLeft = m.cycles ∧
        t = { s with cores := t.cores })) ∧
  (∀ (s : State) (core mismatches p : Nat) (m : MStep),
    let c := s.core core
    let t0 := s.team core m.slot
    let g := s.wg core m.w
    let A := g.tile m.ta
    let B := g.tile m.tb
    let r : PathRef := ⟨core, m.slot, p⟩
    c.running = some m → c.runLeft = 0 →
    (mismatches = 0 → m.sthr = 0 → B.ncols ≤ 128 → A.nrows ≤ 64 → B.nrows = A.ncols → Runs (.matrixStepEnd core mismatches) s fun t =>
      (t.core core).running = none ∧
      (∀ i j, i < A.nrows → j < B.ncols →
        let v := (if m.int then cellInt else cellFloat) (sget 0 g.accs (m.acc * 8192 + 128 * i + j)).toNat
          (Spec.products A B i j)
        sget 0 (t.wg core m.w).accs (m.acc * 8192 + 128 * i + j) = BitVec.ofNat 32 v.1) ∧
      (∀ k, (∀ i j, i < A.nrows → j < B.ncols → k ≠ m.acc * 8192 + 128 * i + j) →
        sget 0 (t.wg core m.w).accs k = sget 0 g.accs k) ∧
      (m.path = some p → (t.path r).wait = .none ∧ (t.path r).pc = (s.path r).pc + 8)) ∧
    (mismatches ≠ 0 → m.rerun = false → Runs (.matrixStepEnd core mismatches) s fun t =>
      (t.core core).running = some { m with rerun := true } ∧ (t.core core).runLeft = m.cycles ∧ t.wgs = s.wgs) ∧
    (mismatches ≠ 0 → m.rerun = true → m.path = some p → (s.path r).pendTrap = none → (s.path r).inh = false →
      g.trapEntry ≠ 0xFFFFFFFF → m.w = t0.w → Runs (.matrixStepEnd core mismatches) s fun t =>
        (t.path r).tcause = tcMemFatal ∧ (t.path r).inh = true ∧ t.wgs = s.wgs))

/-- Batches: `mcommit` closes the open batch under the next number of a timeline, once the path's stores to other slices are performed
(12 R269, R276), and waits under reason 2 until then; `mwait` goes on while at most n committed batches
are outstanding, which they are from their first `mmaa` on, and what the team's completed batches wrote can then be read; otherwise it
waits under reason 5 (09 R203 to R205, 12 R286). -/
def Obligations.MatrixBatches : Prop :=
  ∀ (s : State) (x : Args), s.live →
    let h := s.here
    let n := match x.lit with
      | some l => if l.sel = .a then l.val.toNat else x.a % 2 ^ 32
      | none => x.a % 2 ^ 32
    let busy := (s.core s.cur.core).unperformed s.cur.slot s.cur.path 1
    (busy = true → exec (.mcommit x) s = .next (s.stallFor s.cur 2)) ∧
    (busy = false → Runs (.mcommit x) s fun t => Completed s t 8 0 ∧
      (t.here.g.timeline x.d).issued = (h.g.timeline x.d).issued + 1 ∧
      ((h.t.batches.filter fun b => !b.closed).length ≤ 1 → ∀ b ∈ t.here.t.batches, b.closed = true)) ∧
    let out := (h.t.batches.filter fun b => b.tl.isSome && b.accs != []).length
    (out ≤ n → Runs (.mwait x) s fun t => Completed s t (argsLen x) 0 ∧ ∀ u ∈ t.here.g.unseen, u.slot ≠ s.cur.slot) ∧
    (n < out → exec (.mwait x) s = .next (s.waitFor s.cur 5))

/-- Accumulators: `aread` reads one cell per member lane, without what a batch wrote that no wait has completed (12 R286), `awrite`
writes them, `azero` clears one accumulator, and `aq` rounds its cells under a scale into a tile, collects their magnitudes in `%amax`
and the flags in `%tf`; a tile of more than 128 columns or with scales traps TILE_SHAPE, a busy accumulator traps ACCUM_BUSY in each
of the four (09 R206 to R208). -/
def Obligations.Accumulators : Prop :=
  ∀ (s : State) (x : Args), s.live →
    let h := s.here
    let c0 := (h.ssrc x .b x.b).toNat
    let cell := fun (g : Wg) (a k : Nat) => g.accCell (a * 8192 + k)
    let fits := c0 % 32 = 0 ∧ c0 + h.t.width ≤ 8192
    let low := leastOf h.p.mask
    h.p.mask = h.t.member →
    (h.clean [] [] (readRegs x [(.b, x.b)]) → fits →
      (s.accBusy s.cur.core h.t.w x.a = false → (∀ l ∈ h.t.member, h.g.accPoison.contains (x.a * 8192 + c0 + l) = false) →
        Runs (.aread x) s fun t => Completed s t (argsLen x) 0 ∧
          t.here.p.pend = h.p.pend ++
            [⟨x.d, h.t.member.map fun l => (l, (cell h.g x.a (c0 + l)).setWidth 64), false, 4, [], [], []⟩]) ∧
      (s.accBusy s.cur.core h.t.w x.a = true → TrapsAt (.aread x) s (argsLen x) tcAccumBusy x.a low)) ∧
    (h.clean h.p.mask [x.a] (readRegs x [(.b, x.b)]) → fits → s.accBusy s.cur.core h.t.w x.d = false →
      Runs (.awrite x) s fun t => Completed s t (argsLen x) 0 ∧
        (∀ l ∈ h.t.member, cell t.here.g x.d (c0 + l) = h.t.vget x.a l) ∧
        ∀ k, (∀ l ∈ h.t.member, k ≠ x.d * 8192 + c0 + l) →
          sget 0 t.here.g.accs k = sget 0 h.g.accs k ∧ t.here.g.accCell k = h.g.accCell k) ∧
    (h.clean h.p.mask [x.a] (readRegs x [(.b, x.b)]) → fits → s.accBusy s.cur.core h.t.w x.d = true →
      TrapsAt (.awrite x) s (argsLen x) tcAccumBusy x.d low) ∧
    (s.accBusy s.cur.core h.t.w x.d = true → TrapsAt (.azero x) s 8 tcAccumBusy x.d low) ∧
    (s.accBusy s.cur.core h.t.w x.d = false → Runs (.azero x) s fun t => Completed s t 8 0 ∧
      (∀ k, k < 8192 → cell t.here.g x.d k = 0) ∧ ∀ a k, a ≠ x.d → k < 8192 → cell t.here.g a k = cell h.g a k) ∧
    (let d := h.g.tile x.d
     let k := fdecode .f32 (h.ssrc x .b x.b).toNat
     let cells := (List.range d.nrows).flatMap fun i => (List.range d.ncols).map fun j => (i, j)
     let v := fun (c : Nat × Nat) => valueOf x.ty (cell h.g x.a (128 * c.1 + c.2)).toNat
     let r := fun c => fmtRound d.fmtCode (fmul (v c) k).1
     h.tileHeld s x.d = false → h.clean [] [] (readRegs x [(.b, x.b)]) → d.valid = true →
      (128 < d.ncols ∨ d.mode ≠ 0 → TrapsAt (.aq x) s (argsLen x) tcTileShape x.d low) ∧
      (d.ncols ≤ 128 → d.mode = 0 → s.accBusy s.cur.core h.t.w x.a = true →
        TrapsAt (.aq x) s (argsLen x) tcAccumBusy x.a low) ∧
      (d.ncols ≤ 128 → d.mode = 0 → s.accBusy s.cur.core h.t.w x.a = false → h.g.accPoisoned x.a d.nrows d.ncols = false →
        Runs (.aq x) s fun t => Completed s t (argsLen x) 0 ∧ (t.here.g.tile x.d).zf = false ∧
          (∀ c ∈ cells, (t.here.g.tile x.d).elem c.1 c.2 = (r c).1) ∧
          t.here.t.amax = cells.foldl (fun m c => amaxStep m (v c)) h.t.amax ∧
          t.here.t.tf = h.t.tf |||
            (cells.foldl (fun (fl : Flags) c => fl ||| (fmul (v c) k).2 ||| (r c).2) 0).setWidth 32 <<< 8))

/-! ## Engines -/

namespace Sys2Proof.Spec

/-- A layout word is well formed and its extent lies within reach (04 R106). -/
def inReach (s : State) (l : Layout) (bits n2 n1 n0 : Nat) : Prop :=
  l.misaligned bits = false ∧ s.spanFail s.here.g s.cur.core l.base (l.span bits n2 n1 n0) = none

/-- The memory side of a copy (09 R209): whole bytes, aligned, no scratchpad window, within 57 bits. -/
def copyMemory (s : State) (x : Args) (n0 : Nat) : Prop :=
  let da := (s.here.t.dget x.b).toNat
  ¬(x.ty.bits = 4 ∧ n0 % 2 = 1) ∧ da % zOf x.ty.bits = 0 ∧ windowOf da = none ∧ da < 2 ^ 57

/-- What an engine instruction asks for: operands, length, the scalar registers it reads, the kind of its operation with the
extents, and whether its checks hold (09 R209 to R215). -/
structure Request where
  x : Args
  len : Nat
  regs : List Nat
  kind : EngKind
  n0 : Nat
  n1 : Nat
  n2 : Nat
  ok : Prop

/-- The extents of a copy: N0 in bits 15:0, N1 − 1 in bits 23:16, N2 − 1 in bits 31:24 (09 R209). -/
def extents (s : State) (x : Args) : Nat × Nat × Nat :=
  let n := (s.here.ssrc x .c x.c).toNat
  (n % 2 ^ 16, n / 2 ^ 16 % 2 ^ 8 + 1, n / 2 ^ 24 + 1)

def copyRequest (s : State) (x : Args) (kind : EngKind) : Request :=
  let n := extents s x
  ⟨x, argsLen x, groupRegs x.a 3 ++ pairRegs x.b ++ readRegs x [(.c, x.c)], kind, n.1, n.2.1, n.2.2,
    inReach s (s.here.layout x.a) x.ty.bits n.2.2 n.2.1 n.1 ∧ copyMemory s x n.1⟩

/-- A multicast copy: every member of its entry holds a workgroup whose allocation covers the extent (09 R211). -/
def castRequest (s : State) (x : Args) : Request :=
  let h := s.here
  let n := extents s x
  let ev := (h.t.sgetr (x.a + 3)).toNat
  let l := h.layout x.a
  let m := s.mcOf h (ev % 32)
  ⟨x, argsLen x, groupRegs x.a 4 ++ pairRegs x.b ++ readRegs x [(.c, x.c)],
    .cpym (m.members.map fun k => s.physCore h.g.vi k) h.g.node (ev % 32), n.1, n.2.1, n.2.2,
    l.misaligned x.ty.bits = false ∧ ev < 32 ∧ m.changing = false ∧ m.members ≠ [] ∧
      (∀ k ∈ m.members, s.memberHolds h k (l.base % 2 ^ 22) (l.span x.ty.bits n.2.2 n.2.1 n.1) = true) ∧ copyMemory s x n.1⟩

/-- The descriptor of a gather in sC (09 R212): IDX, NPOS, E, RSTR, ROWS, and for a pool BOFF and NB. -/
def descWord (s : State) (x : Args) (i : Nat) : Nat := (s.here.t.sgetr (x.c + i)).toNat

/-- The checks of a gather, for `rows` result rows of elements of some bits. -/
def gatherOk (s : State) (x : Args) (bits rows : Nat) : Prop :=
  let d := descWord s x
  d 0 % 4 = 0 ∧ d 1 ≤ 4096 ∧ 1 ≤ d 2 ∧ d 2 ≤ 4096 ∧ d 3 % x.ty.bytes = 0 ∧ (s.here.t.dget x.b).toNat % x.ty.bytes = 0 ∧
  inReach s (s.here.layout x.a) bits 1 rows (d 2) ∧ s.spanFail s.here.g s.cur.core (d 0) (4 * d 1) = none

def rowRequest (s : State) (x : Args) (kind : EngKind) : Request :=
  ⟨x, 8, groupRegs x.a 3 ++ pairRegs x.b ++ groupRegs x.c 5, kind, descWord s x 2, descWord s x 1, 1,
    gatherOk s x x.ty.bits (descWord s x 1)⟩

def poolRequest (s : State) (m : PoolMode) (x : Args) : Request :=
  let d := descWord s x
  ⟨x, 8, groupRegs x.a 3 ++ pairRegs x.b ++ groupRegs x.c 7, .gpool m (d 0) (d 1) (d 2) (d 3) (d 4) (d 5) (d 6), d 2, d 6, 1,
    gatherOk s x 32 (d 6) ∧ d 5 % 4 = 0 ∧ d 6 ≤ 4096 ∧ s.spanFail s.here.g s.cur.core (d 5) (4 * d 6 + 4) = none⟩

/-- A collective: N elements in sC, the communicator in sC+1 (09 R215). -/
def collRequest (s : State) (x : Args) (kind : EngKind) (split : Bool) : Request :=
  let n := descWord s x 0
  let p := (s.members s.here.g.vi (descWord s x 1)).length
  ⟨x, 8, groupRegs x.a 3 ++ pairRegs x.b ++ groupRegs x.c 2, kind, n, 1, 1,
    inReach s (s.here.layout x.a) x.ty.bits 1 1 n ∧ n ≤ 2 ^ 24 ∧ (split = true → p = 0 ∨ n % p = 0)⟩

def request (s : State) : Instr → Option Request
  | .cpyToScratchpad x => some (copyRequest s x .cpyIn)
  | .cpyToMemory x => some (copyRequest s x .cpyOut)
  | .cpym x => some (castRequest s x)
  | .gath x => let d := descWord s x; some (rowRequest s x (.gath (d 0) (d 1) (d 2) (d 3) (d 4)))
  | .scat x => let d := descWord s x; some (rowRequest s x (.scat (d 0) (d 1) (d 2) (d 3) (d 4)))
  | .gpool m x => some (poolRequest s m x)
  | .collAllreduce r x => some (collRequest s x (.allreduce r (descWord s x 1)) false)
  | .collAllgather x => some (collRequest s x (.allgather (descWord s x 1)) false)
  | .collAlltoall x => some (collRequest s x (.alltoall (descWord s x 1)) true)
  | _ => none

/-- The operation a request asks its engine for. -/
def opOf (s : State) (q : Request) : EngOp := s.here.mkOp q.x q.kind q.n0 q.n1 q.n2

end Sys2Proof.Spec

/-- An engine instruction whose checks hold goes on at once: its operation takes the next number of its timeline and joins its
engine, or waits under reason 5 while the engine has no room, and under reason 2 while a store of the path to another slice, or for a
collective to a peer, is under way, or, for a collective, while the L1 holds dirty bytes for a lost pool window (21 R361); a copy of
nothing completes at once (09 R209 to R215, 08 R187, 12 R276, R280). -/
def Obligations.EngineRequests : Prop :=
  ∀ (s : State) (i : Instr) (q : Spec.Request), s.live →
    let h := s.here
    let c := s.core s.cur.core
    let o := Spec.opOf s q
    let num := (h.g.timeline q.x.d).issued + 1
    Spec.request s i = some q → h.clean [] [] q.regs → q.ok → h.t.pen = false →
    let scope := if o.isColl then 5 else 1
    (o.nothing = true ∨ c.room o = true → c.unperformed s.cur.slot s.cur.path scope = true →
      exec i s = .next (s.stallFor s.cur 2)) ∧
    (o.nothing = true ∨ c.room o = true → Spec.Released s scope → Runs i s fun t => Completed s t q.len 0 ∧
      (t.here.g.timeline q.x.d).issued = num ∧
      (o.nothing = true → sget OpStatus.empty (t.here.g.timeline q.x.d).ops num = ⟨true, 0, 0⟩ ∧
        (t.core s.cur.core).ops = c.ops) ∧
      (o.nothing = false → ∃ e, (t.core s.cur.core).ops = c.ops ++ [e] ∧
        e = { o with id := e.id, num := num, ctx := e.ctx, awaits := (c.pen.filter fun d => d.slot == s.cur.slot).map (·.id) })) ∧
    (o.nothing = false → c.room o = false → exec i s = .next (s.stallFor s.cur 5))

namespace Sys2Proof.Spec

/-- The key at which a memory address of an operation lies. -/
def keyOf (s : State) (core : Nat) (o : EngOp) (write : Bool) (va : Nat) : Nat :=
  match s.engTranslate core o va write with
  | .ok tgt pa .. => pKey tgt pa
  | .bad .. => 0

/-- Where element n is written, and its bytes. -/
def destOf (s : State) (core : Nat) (o : EngOp) (n : Nat) : Nat :=
  let e := s.elemAt core o n
  if e.toMem then keyOf s core o true (e.mem.headD 0) else e.sp

def destLen (s : State) (core : Nat) (o : EngOp) (n : Nat) : Nat :=
  if (s.elemAt core o n).toMem then zOf o.ty.bits else o.spBytes

/-- What element n depends on: index and offset words, its source, and the table elements that are still to be fetched. -/
def sourcesOf (s : State) (core : Nat) (o : EngOp) (n : Nat) : List (Nat × Nat) :=
  let e := s.elemAt core o n
  o.spReads e ++ (((if e.toMem then [] else e.mem) ++ s.missing core o e.upTo).map fun va =>
    (keyOf s core o false va, zOf o.ty.bits))

/-- A table element: as it was fetched, or as it stands in memory (09 R212). -/
def rowNow (s : State) (core : Nat) (o : EngOp) (va : Nat) : Nat :=
  (o.has va).getD (s.mnat (keyOf s core o false va) (zOf o.ty.bits))

/-- The pattern that element n receives (09 R210, R213 to R215). -/
def movedValue (s : State) (core : Nat) (o : EngOp) (n : Nat) : Nat :=
  let e := s.elemAt core o n
  match o.kind with
  | .gpool m _ _ _ _ _ _ _ => poolValue m (e.rows.map fun va => rowValue o.ty (rowNow s core o va))
  | .gath .. => rowNow s core o (e.rows.headD 0)
  | .allreduce .. | .allgather _ | .alltoall _ => collValue o ((s.rankOf core o).getD 0) n
  | _ => s.mnat (if e.toMem then e.sp else keyOf s core o false (e.mem.headD 0)) (zOf o.ty.bits)

/-- Nothing stands in the way of an operation: it is not parked and has met no error, every element that is left can be performed,
reads no poison and no bad index, and is translated by the TLB, and no element is written over what another reads. -/
structure Quiet (s : State) (core : Nat) (o : EngOp) : Prop where
  parked : o.parked = none
  errs : o.errs = []
  ready : s.opReady core o = true
  good : s.opPoison core o = none
  indices : s.badIndices core o = []
  fine : ∀ n ∈ o.left, (s.elemAt core o n).bad = none ∧ s.elemOverlaps core o (s.elemAt core o n) = false
  cached : ∀ n ∈ o.left, ∀ va ∈ s.elemVas core o (s.elemAt core o n), ((s.core core).tlbHit o.vi va).isSome = true
  tags : o.tagged = [] ∨ o.kind = .cpyIn
  apart : ∀ n ∈ o.left, ∀ m ∈ o.left, ∀ q ∈ sourcesOf s core o n,
    overlap (destOf s core o m) (destLen s core o m) q.1 q.2 = false

/-- An operation has left its engine, and its number shows a status (09 R216, R217). -/
def Ended (t : State) (core : Nat) (o : EngOp) (code detail : Nat) : Prop :=
  t.findOp core o.id = none ∧ sget OpStatus.empty ((t.wg core o.w).timeline o.tl).ops o.num = ⟨true, code, detail⟩

end Sys2Proof.Spec

/-- How engine operations end, and `estat`: an operation that nothing stands in the way of writes all its elements and completes
with CODE 0; a fatal fault ends it with CODE 1, a replayable one parks it, and while the fault ring has no room it stays stalled; a
broken communicator ends it with CODE 5, an abort with CODE 7, whatever error it has met; `estat` reads a number's status (09 R210
to R217, 19 R331, R335, R342). -/
def Obligations.EngineEnds : Prop :=
  (∀ (s : State) (x : Args), s.live → s.here.clean [] [] (pairRegs x.b) → Runs (.estat x) s fun t => Completed s t 8 0 ∧
    let tl := s.here.g.timeline x.a
    let n := (s.here.t.dget x.b).toNat
    let o := sget OpStatus.empty tl.ops n
    t.here.t.sgetr x.d = if n = 0 ∨ tl.issued < n then 0 else if n + 64 ≤ tl.issued then 4
      else BitVec.ofNat 32 ((if o.done then 1 else 0) + (if o.done ∧ o.code ≠ 0 then 2 else 0) + o.code * 16 + o.detail * 256)) ∧
  ∀ (s : State) (core op : Nat) (o : EngOp), s.findOp core op = some o →
    (∀ i, (i = Instr.copyComplete core op ∧ o.isCopy = true ∨ i = .gatherComplete core op ∧ o.isGather = true ∨
        i = .collectiveComplete core op ∧ o.isColl = true ∧ s.commBroken core o = false ∧ o.inputs ≠ []) →
      Spec.Quiet s core o → Runs i s fun t => Spec.Ended t core o 0 0 ∧
        ∀ n ∈ o.left, o.ty.bits ≠ 4 → (o.ty.bits = 64 → o.halvesLeft n = [0, 1]) →
          (∀ m ∈ o.left, m ≠ n → overlap (Spec.destOf s core o m) (Spec.destLen s core o m)
            (Spec.destOf s core o n) (Spec.destLen s core o n) = false) →
          t.mnat (Spec.destOf s core o n) (Spec.destLen s core o n) =
            Spec.movedValue s core o n % 2 ^ (8 * Spec.destLen s core o n)) ∧
    (o.isColl = true → s.commBroken core o = true → o.errs = [] → Runs (.collectiveComplete core op) s fun t =>
      Spec.Ended t core o 5 0) ∧
    (s.faultRoom core 1 = false → exec (.copyFault core op) s = .next s) ∧
    (o.parked = none → (o.isColl = true → o.inputs ≠ []) → s.faultRoom core 1 = true → ∀ va cause base psz,
      (s.opFault core o = some (va, .bad true cause base psz) → Runs (.copyFault core op) s fun t => Spec.Ended t core o 1 0) ∧
      (s.opFault core o = some (va, .bad false cause base psz) → Runs (.copyFault core op) s fun t =>
        SameMem s t ∧ ∃ q, t.findOp core op = some q ∧ q.parked.isSome = true ∧ q.done = o.done)) ∧
    (s.fwRuns (dieOf core) = true → Runs (.engineOperationAbort core op) s fun t => Spec.Ended t core o 7 0 ∧ SameMem s t) ∧
    (s.fwRuns (dieOf core) = false → exec (.engineOperationAbort core op) s = .next s)

/-! ## The limit accumulator -/

namespace Sys2Proof.Spec

/-- The area of a configured register lies in the issuing workgroup's own allocation on one of the 384 cores, and the executing lanes
are lanes of the team (10 R219, R221, 00 R2). -/
structure AreaOk (s : State) (c : La) (e : Mask) : Prop where
  set : c.init = true
  core : s.cur.core < 384
  own : s.ownFail s.here c.area.toNat (s.here.t.width * (4 * c.h + 16)) = none
  inside : s.here.g.spHi ≤ 2 ^ 22
  lanes : ∀ l ∈ e, l < s.here.t.width
  once : e.Nodup

/-- Word i of a lane as the issuing path of s sees it in t: SUM, CNT, LAST, STATUS (10 R219). -/
def laWord (s t : State) (c : La) (l i : Nat) : Nat := t.areaGet s.here (c.wordAt s.here.t.width l i)

/-- STATUS after a push: the flags, one entry more, the head moved on (10 R222). -/
def pushedStatus (c : La) (v : Nat) : Nat :=
  v % 16 + min (v / 16 % 16 + 1) c.h * 16 + (v / 256 % 16 + 1) % c.h * 256

/-- No byte outside the area has changed. -/
def AreaFrame (s t : State) (c : La) : Prop :=
  ∀ k, (∀ j, j < s.here.t.width * (4 * c.h + 16) → k ≠ s.areaKey s.here (c.area.toNat + j)) → t.mget k = s.mget k

/-- The series 1, 1.5, 1.75 has the limit 2 under every mode (10 R224 to R226); with too short a history SUM is the estimate. -/
def limitExamples : Prop :=
  (∀ m ∈ [0, 1, 2], (⟨true, m, 3, 1, 0, 0, 0⟩ : La).estimate 7 [0x3F800000, 0x3FC00000, 0x3FE00000] = (0x40000000, 1)) ∧
  ∀ m ∈ [0, 1, 2], (⟨true, m, 3, 1, 0, 0, 0⟩ : La).estimate 7 [0x3F800000, 0x3FC00000] = (7, 0)

end Sys2Proof.Spec

/-- The limit accumulator: `lainit` configures a register and clears its area; `laadd` adds one term in each executing lane and
pushes SUM into the history after K terms; `lachk` pushes at once; `laclr` clears a lane; `laest` answers the estimate and writes LAST
and STATUS; LASTAG, LASTAG_DIVG and `laflag` read STATUS (10 R219 to R227). -/
def Obligations.LimitAccumulator : Prop :=
  Spec.limitExamples ∧
  (∀ (s : State) (x : Args), s.live →
    let h := s.here
    let r := fun i => h.t.sgetr (x.a + i)
    let v := (r 1).toNat
    let c : La := ⟨true, v % 4, v / 16 % 16, v / 2 ^ 16, r 2, r 3, r 0⟩
    h.clean [] [] (groupRegs x.a 4) → c.mode ≠ 3 → 3 ≤ c.h → c.h ≤ 8 → c.k ≠ 0 → v / 4 % 4 = 0 → v / 256 % 256 = 0 →
    negOrNan (r 2).toNat = false → negOrNan (r 3).toNat = false → (r 0).toNat % 16 = 0 → Spec.Plain s → Spec.AreaOk s c [] →
    Runs (.lainit x) s fun t => Completed s t (argsLen x) 0 ∧ t.here.t.laOf x.d = c ∧ Spec.AreaFrame s t c ∧
      ∀ l i, l < h.t.width → i < 4 → Spec.laWord s t c l i = 0) ∧
  (∀ (s : State) (x : Args), s.live → Spec.Plain s →
    let h := s.here
    let e := h.execLanes x.guard
    let c := h.t.laOf x.d
    let old := Spec.laWord s s c
    let cnt := fun l => (old l 1 + 1) % 2 ^ 32
    Spec.AreaOk s c e →
    (h.clean e (readRegs x [(.a, x.a)]) [] → (∀ l ∈ e, cnt l = c.k → c.statusOk (old l 3) = true) →
      Runs (.laadd x) s fun t => Completed s t (argsLen x) 0 ∧ Spec.AreaFrame s t c ∧ ∀ l ∈ e,
        let new := Spec.laWord s t c l
        let a := fadd (fdecode .f32 (old l 0)) (fdecode .f32 (Spec.laneA h x l).toNat)
        let r := fround .f32 .rne 0 false a.1
        new 0 = r.1 ∧ t.here.t.ffGet l = h.t.ffGet l ||| (a.2 ||| r.2) ∧ new 2 = old l 2 ∧
        (cnt l ≠ c.k → new 1 = cnt l ∧ new 3 = old l 3) ∧
        (cnt l = c.k → new 1 = 0 ∧ new 3 = Spec.pushedStatus c (old l 3) ∧
          t.areaGet h (c.slotAt h.t.width (old l 3 / 256 % 16) l) = r.1)) ∧
    ((∀ l ∈ e, c.statusOk (old l 3) = true) →
      Runs (.lachk x) s fun t => Completed s t 8 0 ∧ Spec.AreaFrame s t c ∧ ∀ l ∈ e,
        let new := Spec.laWord s t c l
        new 0 = old l 0 ∧ new 1 = 0 ∧ new 2 = old l 2 ∧ new 3 = Spec.pushedStatus c (old l 3) ∧
        t.areaGet h (c.slotAt h.t.width (old l 3 / 256 % 16) l) = old l 0) ∧
    Runs (.laclr x) s fun t => Completed s t 8 0 ∧ Spec.AreaFrame s t c ∧
      ∀ l ∈ e, ∀ i, i < 4 → Spec.laWord s t c l i = 0) ∧
  (∀ (s : State) (x : Args), s.live → Spec.Plain s →
    let h := s.here
    let e := h.execLanes x.guard
    let c := h.t.laOf x.a
    let old := Spec.laWord s s c
    let bit := fun (n l : Nat) => decide (old l 3 / 2 ^ n % 2 = 1)
    let est := fun l => c.estimate (old l 0) ((c.slots h.t.width l (old l 3)).map fun a => s.areaGet h a)
    Spec.AreaOk s c e → (∀ l ∈ e, c.statusOk (old l 3) = true) →
    Runs (.laest x) s (fun t => Completed s t (argsLen x) 0 ∧ Spec.AreaFrame s t c ∧
      t.here.p.pend = h.p.pend ++ (if e = [] then [] else [⟨x.d, e.map fun l => (l, BitVec.ofNat 64 (est l).1), false, 3, [], [], []⟩]) ∧
      ∀ l ∈ e, Spec.laWord s t c l 2 = (est l).1 ∧ Spec.laWord s t c l 3 = old l 3 / 16 * 16 + (est l).2 +
        (if (est l).2 % 2 = 1 ∧ bit 0 l = true ∧ c.near (est l).1 (old l 2) = true then 4 else 0)) ∧
    (∀ i n, (i, n) ∈ [(Instr.lastag x, 2), (.lastagDivg x, 3)] → Runs i s fun t => Completed s t (argsLen x) 0 ∧
      (x.d ≠ 7 → ∀ l ∈ e, t.here.t.pred x.d l = bit n l) ∧ (x.d = 7 → t.here.t.preds = h.t.preds)) ∧
    Runs (.laflag x) s fun t => Completed s t 8 0 ∧
      t.here.p.pend = h.p.pend ++ (if e = [] then [] else [⟨x.d, e.map fun l => (l, BitVec.ofNat 64 (old l 3 % 256)), false, 3, [], [], []⟩]))

/-! ## Forecasts -/

namespace Sys2Proof.Spec

/-- A path can read every byte of a range without a fault, which lies within one allocation when it is scratchpad (10 R230). -/
def readable (s : State) (h : Here) (base n : Nat) : Prop :=
  (∀ i, i < n → ∃ tgt pa w b z, s.place h (base + i) false = .ok tgt pa w b z) ∧
  ∀ sa, windowOf base = some sa → s.spanFail h.g h.r.core sa n = none

/-- The area of a slot lies in the issuing workgroup's own allocation, on one of the 384 cores (10 R229, 00 R2). -/
def slotArea (s : State) (f : Fs) : Prop :=
  s.ownFail s.here f.area.toNat (64 + 3 * f.bytes) = none ∧ s.here.g.spHi ≤ 2 ^ 22 ∧ s.cur.core < 384

/-- The predicted pattern of element k (10 R231): v for hold or after one version; 2v − v′ for linear, 1.5v − 0.5v′ for damped,
each rounded once. -/
def predicted (s : State) (f : Fs) (m : FcMode) (k : Nat) : Nat :=
  let z := f.ty.bytes
  let at_ := fun (copy : Nat) => fdecode f.ty (ofBytes (s.areaBytes s.here (f.copyAt copy + k * z) z))
  let times := fun (neg : Bool) (n d : Nat) (v : FVal) => (fmul (.num ⟨neg, n, d⟩) v).1
  let v := match (if ofBytes (s.areaBytes s.here f.nverAt 4) = 1 then FcMode.hold else m) with
    | .hold => at_ 0
    | .linear => (fadd (times false 2 1 (at_ 0)) (times true 1 1 (at_ 1))).1
    | .damped => (fadd (times false 3 2 (at_ 0)) (times true 1 2 (at_ 1))).1
  (fround f.ty .rne 0 false v).1

/-- The target of `spres` and `spjoin` (10 R228): 20 bits in SRCB, SRCC and TYPE. -/
def specTarget (h : Here) (x : Args) : DWord := jump h.p.pc (x.b + x.c * 2 ^ 8 + x.ty.code * 2 ^ 16)

/-- A path goes on at an address, or waits there until its team's deferred operations are performed (10 R235). -/
def goesOn (t : State) (r : PathRef) (a : DWord) : Prop :=
  if (t.team r.core r.slot).flushing then (t.path r).wait = .commit a false else (t.path r).pc = a ∧ (t.path r).wait = .none

/-- What performing the oldest deferred operation of a team does, as if it were issued now (10 R235 step 3): a store's bytes stand where
the path that stored them reads them, in the own slice or in the L1, dirty unless an engine operation awaits them, which finds them in
memory (12 R283); an `erel` writes its object; a barrier counts the arrival;
a ring slot is filled, a window takes an entry; an engine request takes the next number of its timeline and joins its engine.  The store
and the `erel` are the team's only deferred operation, and the L1 has room. -/
def deferredEffect (s t : State) (core slot : Nat) (e : DefEntry) : Prop :=
  let c := s.core core
  let r : PathRef := ⟨core, slot, e.path⟩
  let team := s.team core slot
  let alone := c.posted = [] ∧ c.penOf slot = [e]
  (∀ bs scr k b, e.op = .store bs scr → (k, b) ∈ bs → (∀ q ∈ bs, q.1 = k → q.2 = b) → alone →
    c.l1.lines.length + bs.length ≤ 2048 →
    (t.loadAt r (k / 2 ^ 52) (k % 2 ^ 52) 1).1 = [b] ∧ (k / 2 ^ 22 = 4 * 2 ^ 30 + core → t.mget k = b) ∧
    (k / 2 ^ 52 < 3 → sget 0 (t.core core).l1.data k = b ∧
      (s.awaited core e.id = false → k ∈ (t.core core).l1.dirty) ∧ (s.awaited core e.id = true → k / 2 ^ 52 = 0 → t.mget k = b))) ∧
  (∀ tgt pa va v scope, e.op = .erel tgt pa va v scope → alone → pa % 8 = 0 →
    (t.loadAt r tgt pa 8).1 = bytesOf 8 v.toNat) ∧
  (∀ n lanes count, e.op = .nbarr n lanes count →
    (t.wg core team.w).bar n = arrive ((s.wg core team.w).bar n) lanes count (s.memberCount core team.w)) ∧
  (∀ n vals, e.op = .rput n vals → let q := s.ringOf (s.hereAt r) n
    s.ringLive (clusterOf core) q = true →
      (sget Ring.empty (t.cluster (clusterOf core)).ring n).slotAt q.wp = ⟨true, false, q.cmask⟩) ∧
  (∀ v k, e.op = .qput v → team.partner = some k → (s.team core k).partner = some slot →
    (t.team core k).window = (s.team core k).window ++ [v]) ∧
  ∀ o, e.op = .engine o → let num := ((s.wg core o.w).timeline o.tl).issued + 1
    ((t.wg core o.w).timeline o.tl).issued = num ∧
    (o.nothing = false → ∃ q ∈ (t.core core).ops, q.num = num ∧ q.kind = o.kind ∧ q.w = o.w ∧ q.tl = o.tl)

end Sys2Proof.Spec

/-- Forecast slots: `fcbind` binds an object's region to a slot with an empty history; `fcrec` moves version V to V′ and records the
region and the object's value as V, as an L1 with room for their lines reads them, and waits under reason 3 for the cycle in which the
copy is written (how long: log 33); `fctake` takes a free id (the lowest: the model's
choice, log 50), opens the slot's speculation and writes the predicted elements (10 R229 to R231). -/
def Obligations.ForecastSlots : Prop :=
  (∀ (s : State) (x : Args) (b : Bind), s.live →
    let h := s.here
    let c := s.core s.cur.core
    let obj := (h.t.dget x.a).toNat
    let r := fun i => h.t.sgetr (x.b + i)
    let v := (r 0).toNat
    let old := c.fsOf x.d
    let f : Fs := { old with bound := true, owner := h.t.w, obj := obj, rows := v / 2 ^ 8 % 2 ^ 12, cols := v / 2 ^ 20,
                             fmt := v % 16, abs := r 1, rel := r 2, maxbad := r 3, area := r 4 }
    h.clean [] [] (pairRegs x.a ++ groupRegs x.b 5) → obj % 8 = 0 → c.bindOf h.g.vi obj = some b → h.t.w ∈ b.holders →
    f.rows ≠ 0 → f.cols ≠ 0 → f.ty ∈ [Ty.f32, .f16, .bf16, .e4m3, .e5m2] → v / 16 % 16 = 0 →
    negOrNan (r 1).toNat = false → negOrNan (r 2).toNat = false → (old.bound = true → old.owner = h.t.w) → old.isOpen = false →
    Spec.Plain s → (s.tileRegion h obj f.bytes).isSome = true → (r 4).toNat % 64 = 0 → Spec.slotArea s f →
    Runs (.fcbind x) s fun t => Completed s t 8 0 ∧ (t.core s.cur.core).fsOf x.d = f ∧ t.areaBytes h f.nverAt 4 = [0, 0, 0, 0]) ∧
  (∀ (s : State) (x : Args) (base : Nat), s.live → Spec.Plain s →
    let h := s.here
    let f := (s.core s.cur.core).fsOf x.d
    h.boundFs f = true → f.isOpen = false → s.tileRegion h f.obj f.bytes = some base → Spec.readable s h base f.bytes →
    Spec.readable s h f.obj 8 → Spec.slotArea s f →
    Runs (.fcrec x) s fun t => t.here.p.pc = h.p.pc + 8 ∧ t.here.p.wait = .pause 3 ∧ t.here.t.issued = h.t.issued + 1 ∧
      t.here.t.passes = h.t.passes ∧ (Spec.roomFor s (f.bytes / 64 + 4) →
      let v := s.rangeRead h base f.bytes
      let ver := v.2.rangeRead h f.obj 8
      t.areaBytes h (f.copyAt 0) f.bytes = v.1 ∧ t.areaBytes h (f.verAt 0) 8 = ver.1 ∧
      t.areaBytes h (f.copyAt 1) f.bytes = s.areaBytes h (f.copyAt 0) f.bytes ∧
      t.areaBytes h (f.verAt 1) 8 = s.areaBytes h (f.verAt 0) 8 ∧
      ofBytes (t.areaBytes h f.nverAt 4) = min (ofBytes (s.areaBytes h f.nverAt 4) + 1) 2)) ∧
  ∀ (s : State) (x : Args) (m : FcMode) (id : Nat), s.live → Spec.Plain s →
    let h := s.here
    let c := s.core s.cur.core
    let f := c.fsOf x.a
    let l := h.layout x.b
    let z := f.ty.bytes
    let key := fun i j => Spec.elementKey s l (8 * z) i j
    h.clean [] [] (groupRegs x.b 3) → h.boundFs f = true → f.isOpen = false → h.t.ids.length < 4 →
    f.ty ∈ [Ty.f32, .f16, .bf16, .e4m3, .e5m2] → ofBytes (s.areaBytes h f.nverAt 4) ≠ 0 → Spec.inReach s l (8 * z) 1 f.rows f.cols →
    c.freeId = some id → s.cur.core < 384 →
    (∀ i j k, i < f.rows → j < f.cols → k < z → h.ownKey (key i j + k) = true ∧ key i j + k < 5 * 2 ^ 52) →
    Runs (.fctake m x) s fun t => Completed s t 8 0 ∧ t.here.t.sgetr x.d = BitVec.ofNat 32 id ∧
      t.here.t.ownIds = h.t.ownIds ++ [id] ∧ (t.core s.cur.core).idState id = .unresolved ∧
      (t.core s.cur.core).fsOf x.a = { f with isOpen := true, gone := false, id := id, team := s.cur.slot } ∧
      ∀ i j, i < f.rows → j < f.cols → (∀ i' j', i' < f.rows → j' < f.cols → (i', j') ≠ (i, j) →
          overlap (key i j) z (key i' j') z = false) →
        ∀ k, k < z → t.seen s.cur (key i j + k) = BitVec.ofNat 8 (Spec.predicted s f m (i * f.cols + j) / 2 ^ (8 * k))

/-- Speculation is resolved: `spres` reads the object and waits for a newer value, or for the compare, or goes to its target when
its id is squashed already; TOLERANCE_COMPARE_DONE commits when at most MAXBAD elements are out of tolerance and squashes otherwise;
DEFERRED_OP_PERFORM performs one deferred operation, with its whole effect, in the order of the program; HELD_OP_RELEASE gives a
held instruction its verdict; `spjoin` waits for inherited ids and drops them; `spabort` squashes; `spstat` reads the state (10 R232
to R237). -/
def Obligations.Speculation : Prop :=
  (∀ (s : State) (x : Args) (tgt pa : Nat), s.live →
    let h := s.here
    let c := s.core s.cur.core
    let f := c.fsOf x.d
    h.ownsFs f = true → (∀ a j, h.p.wait ≠ .commit a j) → (∀ n va, h.p.wait ≠ .compareFail n va) →
    (f.gone = true → h.t.flushing = false → Runs (.spres x) s fun t =>
      (h.p.wait.tries = true → Went s t (Spec.specTarget h x) 0) ∧
      (h.p.wait.tries = false → WentOn s t (Spec.specTarget h x)) ∧
      ((t.core s.cur.core).fsOf x.d).isOpen = false ∧ ((t.core s.cur.core).fsOf x.d).lastSq = true) ∧
    (f.gone = false → (∀ n, h.p.wait ≠ .compare n) → h.clean [] [] (if x.lit.isSome then [] else pairRegs x.a) →
      Spec.ObjectPlaced s f.obj false x.md tgt pa → c.l1.dirty = [] →
      ((windowOf f.obj).isSome = true ∨ (c.tlbHit h.g.vi f.obj).isSome = true) →
      (s.tileRegion h f.obj f.bytes).isSome = true → Runs (.spres x) s fun t =>
        let u := if tgt < 3 ∧ 2 ≤ x.md then s.l1Drop s.cur.core (lineOf (pKey tgt pa)) else s
        let w := if ofBytes (u.loadAt s.cur tgt pa 8).1 < (h.dsrc x .a x.a false).toNat then .spres x.d else .compare x.d
        t.here.p.pc = h.p.pc ∧ t.here.p.mask = h.p.mask ∧ t.here.p.wait = w ∧ (h.p.wait.tries = true → Began s t w 0))) ∧
  (∀ (s : State) (core fs base : Nat) (r : PathRef),
    let h := s.hereAt r
    let f := (s.core core).fsOf fs
    let bad := badCount f (s.coreView h base f.bytes) (s.areaBytes h (f.copyAt 2) f.bytes)
    let after := fun (t : State) => (t.core core).fsOf fs
    s.comparing core fs = some r → h.p.wait = .compare fs → r.slot < 64 → h.t.life ≠ .free → s.tileRegion h f.obj f.bytes = some base →
    Spec.readable s h base f.bytes → f.gone = false → (∀ c, (s.core c).tags = []) →
    Runs (.toleranceCompareDone core fs) s fun t =>
      (after t).isOpen = false ∧ (after t).bad = min bad 0xFFFF ∧ f.id ∉ (t.team r.core r.slot).ownIds ∧
      ((after t).lastSq = true ↔ f.maxbad.toNat < bad) ∧
      (bad ≤ f.maxbad.toNat → Spec.goesOn t r (h.p.pc + BitVec.ofNat 64 (s.lenAt r))) ∧
      (f.maxbad.toNat < bad → Spec.goesOn t r (s.spresTarget h))) ∧
  (∀ (s : State) (core slot path : Nat) (e : DefEntry) (rest : List DefEntry) (ids : List Nat) (b : Bool),
    ((s.team core slot).flushing = true →
      ((s.core core).penDue slot = [] → Runs (.deferredOpPerform core slot) s fun t => (t.team core slot).flushing = false) ∧
      ((s.core core).penDue slot = e :: rest → (∀ q ∈ rest, q.id ≠ e.id) → s.defReady core e = true →
          Runs (.deferredOpPerform core slot) s fun t =>
        (t.core core).penDue slot = rest ∧ (rest = [] → (t.team core slot).flushing = false) ∧
          Spec.deferredEffect s t core slot e)) ∧
    ((s.path ⟨core, slot, path⟩).wait = .held ids → (s.core core).heldVerdict ids = some b →
      Runs (.heldOpRelease core slot path) s fun t =>
        t.path ⟨core, slot, path⟩ = { s.path ⟨core, slot, path⟩ with wait := .heldDone b })) ∧
  ∀ (s : State) (x : Args), s.live →
    let h := s.here
    let c := s.core s.cur.core
    let f := c.fsOf x.d
    let g := c.fsOf x.a
    ((∀ a j, h.p.wait ≠ .commit a j) →
      (h.t.inhIds = [] → h.t.squashed = false → Runs (.spjoin x) s fun t => Completed s t 8 0) ∧
      (c.unresolved h.t.inhIds ≠ [] → exec (.spjoin x) s = .next (s.waitFor s.cur 13)) ∧
      (c.unresolved h.t.inhIds = [] → c.penDue s.cur.slot = [] → h.t.flushing = false → Runs (.spjoin x) s fun t =>
        t.here.t.inhIds = [] ∧ t.here.t.squashed = false ∧
        Went s t (if h.t.squashed then Spec.specTarget h x else h.p.pc + 8) 0)) ∧
    (h.ownsFs f = true → Runs (.spabort x) s fun t => Completed s t 8 0 ∧ ((t.core s.cur.core).fsOf x.d).gone = true ∧
      (f.gone = false → (t.core s.cur.core).idState f.id = .squashed)) ∧
    (h.ownsFs f = false → TrapsAt (.spabort x) s 8 tcSpecIllegal 0 (leastOf h.p.mask)) ∧
    Runs (.spstat x) s fun t => Completed s t 8 0 ∧
      let bit := fun (b : Bool) n => if b then 2 ^ n else 0
      t.here.t.sgetr x.d = BitVec.ofNat 32 ((if h.boundFs g then g.bad * 2 ^ 16 + g.id * 2 ^ 8 + bit g.isOpen 2 + bit g.lastSq 1 + 1
        else 0) + bit h.t.squashed 7 + bit h.t.pen 6 + min h.t.ids.length 7 * 8)

/-! ## System instructions and what becomes of paths -/

namespace Sys2Proof.Spec

/-- What a selector of `pmread` reads: ISSUED and PASSES as they stood when this cycle began (11 R248, R241). -/
def selected (h : Here) (cycle n : Nat) : Word :=
  if n < 16 then BitVec.ofNat 32 (sget 0 h.t.stall n)
  else match n with
    | 0x10 => BitVec.ofNat 32 (min (h.t.issued - (h.t.recent.filter fun q => q.1 == cycle).length) 0xFFFFFFFF)
    | 0x11 => BitVec.ofNat 32 (min (h.t.passes - h.t.passesTo cycle) 0xFFFFFFFF)
    | 0x20 => BitVec.ofNat 32 (h.p.twin * 2 ^ 12 + (if h.p.inh then 2 ^ 8 else 0) + h.p.tcause)
    | 0x21 => h.p.tpc
    | 0x22 => h.p.tresume
    | 0x23 => h.p.tinfo.setWidth 32
    | 0x24 => (h.p.tinfo >>> 32).setWidth 32
    | 0x25 => h.p.tlane
    | _ => 0

end Sys2Proof.Spec

/-- The system instructions: `trap` and `brk` trap in the lanes that execute; `tret` returns from a handler to TRESUME or to an
offset, and traps outside a handler or for a bad offset; `tsread` reads the time, `pmread` a counter; `mark` posts a trace event or
counts it as dropped; `wake` wakes the matrix engine or restarts its idle count (11 R243 to R249, R257, 20 R355; that INFO of `tret`'s
ALIGN and MEM_FATAL is the offset: log 49). -/
def Obligations.SystemInstructions : Prop :=
  ∀ (s : State) (x : Args), s.live →
    let h := s.here
    let e := h.execLanes x.guard
    let v := h.ssrc x .a x.a
    let low := leastOf h.p.mask
    let c := s.core s.cur.core
    let d := s.die (dieOf s.cur.core)
    (∀ i cause, (i, cause) ∈ [(Instr.trap x, 0x10), (.brk x, 0x11)] →
      (e = [] → Runs i s fun t => Completed s t (argsLen x) 0) ∧
      (e ≠ [] → h.clean [] [] (readRegs x [(.a, x.a)]) → h.p.pendTrap = none →
        exec i s = .next ((s.count s.cur 0).trapHere s.cur (argsLen x) cause v.toNat (leastOf e)))) ∧
    (h.p.inh = false → TrapsAt (.tret x) s 8 tcPrivilege 0 low) ∧
    (h.p.inh = true → h.clean [] [] (optScalar x.a).toList →
      let a := match optScalar x.a with
        | some n => h.t.sgetr n
        | none => h.p.tresume
      (a.toNat % 8 = 0 → a.toNat < h.g.codeSize → Runs (.tret x) s fun t =>
        Went s t (BitVec.ofNat 64 (h.g.code + a.toNat)) 0 ∧ t.here.p.inh = false ∧ t.here.p.mask = h.p.mask) ∧
      (a.toNat % 8 ≠ 0 → TrapsAt (.tret x) s 8 tcAlign a.toNat low) ∧
      (a.toNat % 8 = 0 → h.g.codeSize ≤ a.toNat → TrapsAt (.tret x) s 8 tcMemFatal a.toNat low)) ∧
    Runs (.tsread x) s (fun t => Completed s t 8 0 ∧ t.here.t.dget x.d = BitVec.ofNat 64 (s.time3 / 3)) ∧
    (h.clean [] [] (readRegs x [(.a, x.a)]) →
      Runs (.pmread x) s (fun t => Completed s t (argsLen x) 0 ∧ t.here.t.sgetr x.d = Spec.selected h c.cycle v.toNat) ∧
      Runs (.mark x) s fun t => Completed s t (argsLen x) 0 ∧
        let u := t.die (dieOf s.cur.core)
        (d.trctl = true → (d.trtail + 1) % 65536 ≠ d.trhead → u.trtail = (d.trtail + 1) % 65536 ∧ u.trdrop = d.trdrop ∧
          (sget [] u.traceRing d.trtail).getD 2 0 =
            BitVec.ofNat 64 ((h.offset h.p.pc).toNat % 2 ^ 32 + v.toNat % 2 ^ 32 * 2 ^ 32)) ∧
        ((d.trctl = false ∨ (d.trtail + 1) % 65536 = d.trhead) → u.trtail = d.trtail ∧ u.trdrop = min (d.trdrop + 1) 0xFFFFFFFF)) ∧
    Runs (.wake x) s fun t => Completed s t 8 0 ∧
      let u := t.core s.cur.core
      (c.gated = true → u.gated = false ∧ u.waking = true ∧ u.wakeLeft = 180) ∧
      (c.gated = false → c.waking = true → u = c) ∧ (c.gated = false → c.waking = false → u = { c with idle := 0 })

/-- What becomes of paths without their issuing: a trap that waited in a window is delivered with the count of the instructions
issued since, unless an issued instruction still waits (log 48); loaded data reach their registers, not before the cycle that the
rules give them; data of a lost pool window do not, for 100 µs, after which a machine check 0x24 is reported (log 45); a spilled
path comes back on chip, where its exchange with another needs the private region to take the other's entry, and faults in the
victim's name where it does not (log 25); a path that has lost 3,840 cycles to withholding is no longer withheld; a stopped path
goes on, after `brk` at the next instruction. Records and stores on their way: a posted store is performed when it is acknowledged,
after the same agent's earlier stores to those bytes; the oldest fault record and the oldest stop record are written to their rings
while there is room.  A `brk` of an interface that is being debugged stops the path, and takes the next token (11 R242, R252, R259,
01 R26, 08 R175, 19 R331, 20 R352 to R354). -/
def Obligations.PathsAndRecords : Prop :=
  (∀ (s : State) (core slot path : Nat),
    let r : PathRef := ⟨core, slot, path⟩
    let h := s.hereAt r
    (∀ ti, h.p.mask ≠ [] → h.p.eclipse = none → h.p.parked = none → h.p.wait.fresh = true → h.p.pendTrap = some ti → h.p.inh = false →
      h.g.trapEntry ≠ 0xFFFFFFFF → ti.cause ≠ tcBreak → ti.cause ≠ tcWatch →
      Runs (.trapDelivery core slot path) s fun t =>
        let q := t.path r
        q.tcause = ti.cause ∧ q.twin = ti.win ∧ q.tpc = h.offset ti.pc ∧ q.tresume = h.offset h.p.pc ∧ q.tinfo = ti.info ∧
        q.inh = true ∧ q.pc = BitVec.ofNat 64 (h.g.code + h.g.trapEntry) ∧ q.pendTrap = none ∧ q.wait = .pause 12 ∧
        SameMem s t) ∧
    (∀ idx d, h.p.pend[idx]? = some d → d.vals ≠ [] → (∀ q ∈ d.far, s.poolLost q.2.1 = false) →
      (∀ v ∈ d.vals, ∃ q, d.due.find? (fun q => q.1 == v.1) = some q ∧ (s.core core).cycle < q.2) →
      exec (.loadDataReturn core slot ⟨path, idx⟩) s = .next s) ∧
    (∀ idx d, h.p.pend[idx]? = some d → (∀ q ∈ d.far, s.time3 < q.2.2 + 300000) →
      (∀ v ∈ d.vals, ∃ q ∈ d.far, q.1 = v.1 ∧ s.poolLost q.2.1 = true ∧ q.2.2 ≤ s.time3) →
      exec (.loadDataReturn core slot ⟨path, idx⟩) s = .next s) ∧
    (∀ idx d v q, h.p.pend[idx]? = some d → v ∈ d.vals → q ∈ d.far → q.1 = v.1 → s.poolLost q.2.1 = true →
      q.2.2 + 300000 ≤ s.time3 → Runs (.loadDataReturn core slot ⟨path, idx⟩) s fun t => t.irqs = s.irqs ++ [(0, 3)] ∧
        ∃ w, (t.die (dieOf core)).faultQ = (s.die (dieOf core)).faultQ ++ [w] ∧ (w.words.getD 1 0).toNat % 2 ^ 8 = 0x24) ∧
    (∀ idx d, h.p.pend[idx]? = some d → d.vals ≠ [] → (∀ q ∈ d.due, q.2 ≤ (s.core core).cycle) →
      (∀ q ∈ d.far, s.poolLost q.2.1 = false) →
      Runs (.loadDataReturn core slot ⟨path, idx⟩) s fun t => (t.path r).pend = h.p.pend.eraseIdx idx ∧ SameMem s t ∧
        ((d.vals.map (·.1)).Nodup → (∀ q ∈ d.vals, q.1 < 1024) →
        ∀ q ∈ d.vals, (t.team core slot).vget d.dst q.1 = q.2.setWidth 32 ∧
          (d.wide = true → (t.team core slot).vget (d.dst + 1) q.1 = q.2.extractLsb' 32 32))) ∧
    (∀ i, let live := h.t.paths.filter fun q => q.2.mask != []
      let on := live.filter fun q => q.2.onChip
      oldestPath (live.filter fun q => !q.2.onChip) = some i →
      (on.length < 16 ∨ ∀ v ∈ on, ∀ q ∈ s.spillLines h ((h.t.moveEntry v.1 false).moveEntry i true).spillSize true,
        ∃ tgt pa w base size, q.2 = .ok tgt pa w base size) →
      Runs (.pathUnspill core slot) s fun t => ((t.team core slot).path i).onChip = true ∧
        ∀ p, ((t.team core slot).path p).mask = (h.t.path p).mask ∧ ((t.team core slot).path p).pc = (h.t.path p).pc) ∧
    (∀ i v, let live := h.t.paths.filter fun q => q.2.mask != []
      let on := live.filter fun q => q.2.onChip
      oldestPath (live.filter fun q => !q.2.onChip) = some i → 16 ≤ on.length →
      oldestPath (on.filter fun q => q.2.namedWait) = some v →
      (∃ q ∈ s.spillLines (s.hereAt ⟨core, slot, v⟩) ((h.t.moveEntry v false).moveEntry i true).spillSize true,
        ∃ fatal cause base psz, q.2 = .bad fatal cause base psz) →
      Runs (.pathUnspill core slot) s fun t => i ≠ v → (t.team core slot).path i = h.t.path i) ∧
    (3840 ≤ h.p.lostFor → Runs (.starvationOverride core slot path) s fun t => t.path r = { h.p with forced := true }) ∧
    ∀ (v : DWord) (q : PathRef) (e : Eclipse), s.eclipsedBy core (v.toNat % 2 ^ 16) = some (q, e) →
      s.fwRuns (dieOf core) = true → Runs (.eclres core v) s fun t => (t.path q).eclipse = none ∧
        (t.path q).pc = (if e.next then e.resume else (s.path q).pc) ∧
        (e.next = false → (t.path q).skipCmp = true)) ∧
  (∀ (s : State) (core idx die : Nat),
    let c := s.core core
    let d := s.die die
    (∀ q, c.posted[idx]? = some q → (∃ p ∈ c.posted.take idx, p.sameAgent q = true ∧
        overlap p.key p.bytes.length q.key q.bytes.length = true) → exec (.storeAcknowledge core idx) s = .next s) ∧
    (∀ q, c.posted[idx]? = some q → (∀ p ∈ c.posted.take idx, p.sameAgent q = true →
        overlap p.key p.bytes.length q.key q.bytes.length = false) → s.linkDown q = false →
      Runs (.storeAcknowledge core idx) s fun t => (t.core core).posted = c.posted.eraseIdx idx ∧
        ∀ a, t.mget a = if q.key ≤ a ∧ a < q.key + q.bytes.length then q.bytes.getD (a - q.key) 0 else s.mget a) ∧
    (∀ q rest, d.faultQ = q :: rest →
      ((d.fqtail + 1) % 4096 ≠ d.fqhead → Runs (.faultRecord die) s fun t => (t.die die).faultQ = rest ∧
        sget [] (t.die die).faultRing d.fqtail = q.words ∧ (t.die die).fqtail = (d.fqtail + 1) % 4096 ∧ SameMem s t) ∧
      ((d.fqtail + 1) % 4096 = d.fqhead → exec (.faultRecord die) s = .next s)) ∧
    ∀ q rest, d.stopQ = q :: rest →
      ((d.sttail + 1) % 256 ≠ d.sthead → Runs (.stopRecord die) s fun t => t.die die = { d with
        stopQ := rest, stopRing := sput [] d.stopRing d.sttail q.words, sttail := (d.sttail + 1) % 256 }) ∧
      ((d.sttail + 1) % 256 = d.sthead → exec (.stopRecord die) s = .next s)) ∧
  ∀ (s : State) (x : Args), s.live →
    let h := s.here
    let d := s.die (dieOf s.cur.core)
    let tok := if d.stopTok + 1 < 2 ^ 16 then d.stopTok + 1 else 1
    h.execLanes x.guard ≠ [] → h.clean [] [] (readRegs x [(.a, x.a)]) → h.p.pendTrap = none →
    (s.core s.cur.core).dbgen.getLsbD h.g.vi = true → Runs (.brk x) s fun t =>
      t.here.p.eclipse = some ⟨tok, true, h.p.pc + BitVec.ofNat 64 (argsLen x)⟩ ∧ t.here.p.pc = h.p.pc ∧ t.here.p.mask = h.p.mask ∧
      t.here.p.inh = h.p.inh ∧ (t.die (dieOf s.cur.core)).stopTok = tok ∧
      ∃ q, (t.die (dieOf s.cur.core)).stopQ = d.stopQ ++ [q] ∧ q.core = s.cur.core ∧ q.slot = s.cur.slot ∧ q.path = s.cur.path

/-! ## Units that count cycles -/

namespace Sys2Proof.Spec

/-- A counter of 32 bits that stays at its end. -/
def up (n : Nat) : Nat := min (n + 1) 0xFFFFFFFF

end Sys2Proof.Spec

/-- The units that count a core's cycles: a cycle advances the occupancy, the wake and the idle time, begins the oldest queued step
on a free engine, and refills the allowance of its cluster up to the cap, once in a cycle of the cluster; an engine idle for MXIDLE
cycles is gated; a wake ends after its 180 cycles; the sampler takes the next occupied slot when its period is over.  The histogram
engine: a sample is folded into the bin of its interface, program counter and outcome, or takes the lowest free bin, or is counted
as dropped, one sample in a cycle; a snapshot on a die whose firmware runs writes every bin, a free one as zeros, at HDST, a
physical address of HBM4 (log 21), and frees them; folding resumes 4,096 cycles later.  A cycle is an event of the model, log 3; the
refill is RATE as it stands, since firmware's thermal factors are in the register (log 23) (11 R254, R257, R258, 20 R347, R349). -/
def Obligations.CyclesAndSamples : Prop :=
  (∀ (s : State) (core : Nat),
    let c := s.core core
    let k := clusterOf core
    ((s.cyc ≠ none ∨ 384 ≤ core) → exec (.issueCycle core) s = .next s) ∧
    (s.cyc = none → core < 384 → Runs (.issueCycle core) s fun t => t.cyc = some core ∧ (t.core core).cycle = c.cycle + 1 ∧
      (t.core core).wakeLeft = c.wakeLeft - 1 ∧
      (∀ m, c.running = some m → c.runLeft ≠ 0 → (t.core core).running = some m ∧ (t.core core).runLeft = c.runLeft - 1) ∧
      (∀ m rest, c.running = none → c.mqueue = m :: rest → c.gated = false → c.waking = false →
        (t.core core).running = some m ∧ (t.core core).mqueue = rest ∧ (t.core core).runLeft = m.cycles - 1) ∧
      (c.running = none → c.waking = false →
        (t.core core).idle = if c.gated = false ∧ c.mqueue = [] then c.idle + 1 else c.idle) ∧
      (let begins := max c.t3 (s.time3 - s.period core)
       (begins < (s.cluster k).refillAt → (t.cluster k).allow = (s.cluster k).allow ∧
         (t.cluster k).refillAt = (s.cluster k).refillAt) ∧
       ((s.cluster k).refillAt ≤ begins → (t.cluster k).refillAt = begins + s.period core ∧
         (t.cluster k).allow = min ((s.cluster k).allow + (s.cluster k).parate) (16 * (s.cluster k).pacap))) ∧
      ((∀ n ∈ s.slotsOf core, ∀ p ∈ (s.team core n).paths, ∀ d ∈ p.2.pend, ∀ q ∈ d.due, c.cycle + 1 < q.2) →
        (c.running = none ∨ c.runLeft ≠ 0) → t.teams = s.teams) ∧ t.mem = s.mem) ∧
    (c.gated = false → c.waking = false → c.running = none → c.mqueue = [] → c.mxidle ≠ 0 → c.mxidle ≤ c.idle →
      Runs (.matrixEngineGate core) s fun t => t.core core = { c with gated := true, mxgates := Spec.up c.mxgates }) ∧
    ((c.mxidle = 0 ∨ c.idle < c.mxidle) → exec (.matrixEngineGate core) s = .next s) ∧
    (c.waking = true → c.wakeLeft = 0 → Runs (.matrixWakeDone core) s fun t =>
      t.core core = { c with waking := false, idle := 0 }) ∧
    (c.smpctl.getLsbD 31 = true → c.smpLeft = 0 → Runs (.sample core) s fun t =>
      (t.core core).smpLeft = max 16 (c.smpctl.toNat % 2 ^ 16) ∧ t.teams = s.teams ∧
      (s.slotsOf core = [] → (t.core core).smpSlot = c.smpSlot) ∧
      ∀ n, n ∈ s.slotsOf core → (∀ m ∈ s.slotsOf core, c.smpSlot < m → n ≤ m) → c.smpSlot < n →
        (s.slotsOf core).Pairwise (· < ·) → (t.core core).smpSlot = n ∧ (t.core core).smplast.getD 0 0 = s.ticks)) ∧
  (∀ (s : State) (die cycle : Nat) (ws : List DWord) (rest : List (Nat × List DWord)),
    let d := s.die die
    let w8 := (ws.getD 1 0).toNat
    let tag := fun (b : Bin) => b.vi = w8 / 2 ^ 58 ∧ b.pc = (ws.getD 2 0).toNat % 2 ^ 32 ∧ b.out = w8 / 2 ^ 30 % 2 ^ 5
    let bin := fun (t : State) i => sget Bin.empty (t.die die).bins i
    (s.time3 < d.foldAt → exec (.histFold die) s = .next s) ∧
    (d.snap = true → s.time3 < d.snapAt + 4096 → exec (.histFold die) s = .next s ∧ exec (.histSnapshot die) s = .next s) ∧
    (d.hq = (cycle, ws) :: rest → d.foldAt ≤ s.time3 → (d.snap = false ∨ d.snapAt + 4096 ≤ s.time3) →
      swf Bin.empty d.bins = true → Runs (.histFold die) s fun t =>
      (t.die die).hq = rest ∧
      (∀ i, bin s i ≠ Bin.empty → tag (bin s i) → (∀ j, j < i → ¬(bin s j ≠ Bin.empty ∧ tag (bin s j))) →
        bin t i = { bin s i with count := Spec.up (bin s i).count } ∧ ∀ j, j ≠ i → bin t j = bin s j) ∧
      ((∀ j, ¬(bin s j ≠ Bin.empty ∧ tag (bin s j))) →
        (∀ i, i < 4096 → (bin s i).count = 0 → (∀ j, j < i → (bin s j).count ≠ 0) →
          bin t i = ⟨w8 / 2 ^ 58, (ws.getD 2 0).toNat % 2 ^ 32, w8 / 2 ^ 30 % 2 ^ 5, 1⟩) ∧
        ((∀ i, i < 4096 → (bin s i).count ≠ 0) → (t.die die).hdropTag = Spec.up d.hdropTag))) ∧
    (s.fwRuns die = false → exec (.histSnapshot die) s = .next s) ∧
    (s.fwRuns die = true → (d.snap = false ∨ d.snapAt + 4096 ≤ s.time3) → swf Bin.empty d.bins = true → Runs (.histSnapshot die) s fun t =>
      (t.die die).snap = true ∧ (t.die die).bins = [] ∧ (t.die die).snapAt = s.time3 ∧
      (hbmBytes < d.hdst + 65536 → t.mem = s.mem) ∧
      (d.hdst + 65536 ≤ hbmBytes → ∀ i, i < 4096 →
        t.mnat (pKey 0 (d.hdst + 16 * i)) 8 = (if bin s i = Bin.empty then 0
          else (2 ^ 63 + (bin s i).out * 2 ^ 38 + (bin s i).vi * 2 ^ 32 + (bin s i).pc) % 2 ^ 64) ∧
        t.mnat (pKey 0 (d.hdst + 16 * i + 8)) 8 = (bin s i).count % 2 ^ 64) ∧
      ((∀ q ∈ d.bins, q.1 < 4096) → ∀ a, (a < pKey 0 d.hdst ∨ pKey 0 d.hdst + 65536 ≤ a) → t.mget a = s.mget a)) ∧
    (d.snap = true → d.snapAt + 4096 ≤ s.time3 → Runs (.histSnapshotEnd die) s fun t => t.die die = { d with snap := false }))

namespace Sys2Proof.Spec

/-- The value that a register of firmware or of the driver holds. -/
def regNow (s : State) : FwReg → Nat
  | .parate c => (s.cluster c).parate
  | .pacap c => (s.cluster c).pacap
  | .parsv c n => if n = 1 then (s.cluster c).parsv1 else if n = 2 then (s.cluster c).parsv2 else (s.cluster c).parsv3
  | .fqhead d => (s.die d).fqhead
  | .brhead d => (s.die d).brhead
  | .sthead d => (s.die d).sthead
  | .trhead d => (s.die d).trhead
  | .smpctl c => (s.core c).smpctl.toNat
  | .dbgen c => (s.core c).dbgen.toNat
  | .bp c n => (sget 0 (s.core c).bp n).toNat
  | .wp c n => (sget 0 (s.core c).wp n).toNat
  | .wpctl c n => (sget 0 (s.core c).wpctl n).toNat
  | .trctl d => (s.die d).trctl.toNat
  | .hctl d => (s.die d).hen.toNat
  | .hdst d => (s.die d).hdst
  | .pwrlim => s.pwrlim
  | .mxidle c => (s.core c).mxidle
  | .drpthr q => (s.quad q).drpthr
  | .tlim n => if n = 0 then s.tlim0 else if n = 1 then s.tlim1 else s.tlim2
  | .ptroot vi => (s.vi vi).ptroot.toNat
  | .errbase vi => (s.vi vi).errbase.toNat
  | .errhead vi => (s.vi vi).errhead
  | .flipbase vi => (s.vi vi).flipbase.toNat
  | .fabgrp vi => (s.vi vi).fabgrp
  | .pool vi n => (sget 0 (s.vi vi).pool n).toNat
  | .attnonce n => (s.attnonce.getD n 0).toNat
  | .attdst => s.attdst.toNat
  | .route d => sget 0 s.route d
  | .logicalCluster vi m => sget 0 (s.vi vi).lcl m
  | .communicator vi n _ => (sget [] (s.vi vi).comm n).length

/-- Bits lo to lo + n − 1 of a value, in their places. -/
def bitsOf (v lo n : Nat) : Nat := v / 2 ^ lo % 2 ^ n * 2 ^ lo

/-- The value a write of v leaves, none where the rule turns the write away or the register is not one word: the fields of 18 R306,
R324, 19 R331, 20 R350, 21 R358, 22 R373 and R375, with other bits discarded. -/
def regAfter (s : State) (v : Nat) : FwReg → Option Nat
  | .parate _ => if v / 2 ^ 16 % 2 ^ 16 = 0 then some (v % 2 ^ 16) else none
  | .pacap _ => if v / 2 ^ 24 % 2 ^ 8 = 0 then some (v % 2 ^ 24) else none
  | .fqhead _ | .brhead _ => some (v % 2 ^ 12)
  | .sthead _ => some (v % 2 ^ 8)
  | .trhead _ | .mxidle _ => some (v % 2 ^ 16)
  | .smpctl _ => some (bitsOf v 31 1 + v % 2 ^ 16)
  | .dbgen _ | .attdst => some v
  | .bp _ n => if v % 8 = 0 ∧ n < 8 then some v else none
  | .wp _ n => if n < 4 then some v else none
  | .wpctl _ n => if n < 4 then some (v % 2 ^ 6) else none
  | .trctl _ | .hctl _ => some (v % 2)
  | .hdst _ => some (bitsOf v 16 41)
  | .pwrlim => some (min 2700 (v % 2 ^ 16))
  | .drpthr _ => some (v % 2 ^ 8)
  | .tlim n => if n < 3 then some (v % 2 ^ 16) else none
  | .ptroot vi => if (s.vi vi).victl.toNat % 2 = 0 then some (bitsOf v 12 40) else none
  | .errbase vi | .flipbase vi => if (s.vi vi).victl.toNat % 2 = 0 then some (bitsOf v 12 45) else none
  | .errhead _ => some (v % 2 ^ 6)
  | .fabgrp vi => if (s.vi vi).victl.toNat % 2 = 0 then some (v % 2 ^ 16) else none
  | .pool vi n => if (s.vi vi).victl.toNat % 2 = 0 ∧ n < 4 then some (bitsOf v 12 52) else none
  | .attnonce n => if n < 4 ∧ n < s.attnonce.length then some v else none
  | .route _ => some (v % 2 ^ 18)
  | .logicalCluster vi m =>
    if v < 96 ∧ s.clusterOut v = false ∧ s.othersHold vi v = false ∧ s.roomToMove vi m v = true then some (v + 1) else none
  | .parsv .. | .communicator .. => none

/-- Driver registers that take no write while their interface is enabled (21 R358). -/
def lockedBy (s : State) : FwReg → Bool
  | .ptroot vi | .errbase vi | .flipbase vi | .fabgrp vi | .pool vi _ => (s.vi vi).victl.getLsbD 0
  | _ => false

/-- The value of a counter that a write clears. -/
def countNow (s : State) : CounterReg → Nat
  | .slip c => (s.cluster c).slip
  | .trdrop d => (s.die d).trdrop
  | .hdrop d => (s.die d).hdropTag + (s.die d).hdropQ
  | .mxgates c => (s.core c).mxgates
  | .drpcnt q => (s.quad q).drpcnt
  | .eccce d n => sget 0 (s.die d).eccce n
  | .eccue d n => sget 0 (s.die d).eccue n
  | .mxrerun d => (s.die d).mxrerun
  | .mxmchk d => (s.die d).mxmchk

end Sys2Proof.Spec

/-- Register writes: a register takes the listed fields of the value; a driver register takes nothing while its interface is
enabled; the reserves keep RSV(1) ≤ RSV(2) ≤ RSV(3); any write of a counter clears it; no team's work changes; a write at an index
the device has no register for changes nothing, and neither does one by a management core that has not booted (log 30); a logical
cluster is not moved to one with a failed matrix engine, nor to one that another interface holds, nor where its rings have no room
(log 49) (18 R306, R324, R325, 20 R350, 21 R358, R368, 22 R373, R378, 00 R2). -/
def Obligations.RegisterWrites : Prop :=
  ∀ (s : State) (r : FwReg) (q : CounterReg) (v : DWord) (c n : Nat),
    (∀ k, s.fwCan r = true → Spec.regAfter s v.toNat r = some k → Runs (.registerWrite r v) s fun t =>
      Spec.regNow t r = k ∧ t.teams = s.teams) ∧
    (s.fwCan r = false → exec (.registerWrite r v) s = .next s) ∧
    (∀ vi m, r = .logicalCluster vi m →
      (96 ≤ v.toNat ∨ s.clusterOut v.toNat = true ∨ s.othersHold vi v.toNat = true ∨ s.roomToMove vi m v.toNat = false) →
      exec (.registerWrite r v) s = .next s) ∧
    (fwRegThere r = false → s.fwCan r = false) ∧ (∀ d, fwRegDie r = some d → s.fwRuns d = false → s.fwCan r = false) ∧
    (counterThere q = false ∨ s.fwRuns (counterDie q) = false → exec (.counterClear q) s = .next s) ∧
    (Spec.lockedBy s r = true → Runs (.registerWrite r v) s fun t => Spec.regNow t r = Spec.regNow s r) ∧
    ((s.cluster c).parsv1 ≤ (s.cluster c).parsv2 → (s.cluster c).parsv2 ≤ (s.cluster c).parsv3 →
      Runs (.registerWrite (.parsv c n) v) s fun t =>
        let k := t.cluster c
        k.parsv1 ≤ k.parsv2 ∧ k.parsv2 ≤ k.parsv3 ∧
        (Spec.regNow t (.parsv c n) = Spec.regNow s (.parsv c n) ∨ Spec.regNow t (.parsv c n) = v.toNat % 2 ^ 16)) ∧
    (counterThere q = true → s.fwRuns (counterDie q) = true → Runs (.counterClear q) s fun t =>
      Spec.countNow t q = 0 ∧ t.teams = s.teams ∧ SameMem s t)

/-! ## The life of teams -/

namespace Sys2Proof.Spec

/-- A compute team as dispatch starts it (18 R318, 02 R57, 06 R138): index, width, lanes, counts; path 0 at the entry of the code with
all lanes; d0 holds the address of the data section. -/
structure Started (t : Team) (l : LRec) (w wg k : Nat) : Prop where
  life : t.life = .starting
  ctx : t.w = w
  index : t.index = k
  width : t.width = 2 ^ l.logw
  lanes : t.member = List.range (l.teamLanes wg k)
  vcount : t.vcount = 8 * l.vgran
  scount : t.scount = l.sregs
  pc : (t.path 0).pc = BitVec.ofNat 64 l.code
  mask : (t.path 0).mask = t.member
  data : t.dget 0 = BitVec.ofNat 64 l.data
  zero : ∀ r, 2 ≤ r → t.sgetr r = 0

end Sys2Proof.Spec

/-- Dispatch, start and retirement: a malformed record goes to DONE with ERR 1; a workgroup that fits takes a context, the lowest
run of granules and its team slots, and its record is LIVE; none is placed in a cluster with a failed matrix engine; a team starts
when HOLD is clear and the time has come; a drained team leaves its slot with its block record, and the last one frees the context;
a record that waited 2^20 cycles is starved; TSTART is the time base when the first team leaves Starting (18 R317, R318, R322, 01
R39, 20 R346, 22 R378). -/
def Obligations.TeamLife : Prop :=
  (∀ (s : State) (die idx : Nat),
    let d := s.die die
    let r := d.brec idx
    let core := die * 96 + r.core
    let l := s.recLaunch r
    d.dispatchAt ≤ s.time3 → d.order = [idx] → d.blocked s.time3 [idx] idx = false →
    (r.malformed = true → Runs (.dispatchAction die) s fun t =>
      ((t.die die).brec idx).state = recDone ∧ ((t.die die).brec idx).err = 1 ∧ (t.die die).dispatchAt = s.time3 + 16 ∧
      t.teams = s.teams) ∧
    (r.malformed = false → r.group = 0 → s.clusterOut (clusterOf core) = true → exec (.dispatchAction die) s = .next s) ∧
    (∀ w off, r.malformed = false → r.group = 0 → r.resume = false → r.hold = false → s.clusterOut (clusterOf core) = false →
      (l.charge r.wg).fits (s.inUse core) = true → s.treeRoom core r.vi r.replay r.node l.levels r.grp = true →
      s.freeWg core = some w → s.granRun core l.scr = some off → Runs (.dispatchAction die) s fun t =>
        ((t.die die).brec idx).state = recLive ∧ (t.die die).dispatchAt = s.time3 + 16 ∧
        (t.wg core w).used = true ∧ (t.wg core w).wg = r.wg ∧ (t.wg core w).spOff = off ∧ (t.wg core w).held = false ∧
        ∀ k, k < l.teamsOf r.wg →
          Spec.Started (t.team core ((s.freeSlots core (l.charge r.wg).slots).getD k 0)) l w r.wg k)) ∧
  (∀ (s : State) (die : Nat), s.time3 < (s.die die).dispatchAt → exec (.dispatchAction die) s = .next s) ∧
  (∀ (s : State) (die idx : Nat), ((s.die die).brec idx).state = recReady → ((s.die die).brec idx).since + 2 ^ 20 ≤ s.time3 →
    Runs (.readyRecordStarve die idx) s fun t => (t.die die).brec idx = { (s.die die).brec idx with starve := true }) ∧
  ∀ (s : State) (core slot : Nat), slot < 64 →
    let a := s.team core slot
    let g := s.wg core a.w
    let d := s.die (dieOf core)
    (a.life = .starting → g.held = false →
      (g.start ≤ s.ticks.toNat → Runs (.teamStart core slot) s fun t => t.team core slot = { a with life := .running } ∧
        ((∀ k, k < 64 → (s.team core k).life ≠ .free → (s.team core k).w = a.w → (s.team core k).life = .starting) →
          (t.wg core a.w).tstart = s.ticks) ∧
        ((∃ k, k < 64 ∧ (s.team core k).life ≠ .free ∧ (s.team core k).w = a.w ∧ (s.team core k).life ≠ .starting) →
          t.wg core a.w = g)) ∧
      (s.ticks.toNat < g.start → exec (.teamStart core slot) s = .next s)) ∧
    (s.drained core slot = true → (d.brtail + 1) % 4096 ≠ d.brhead → Runs (.teamRetire core slot) s fun t =>
      t.team core slot = Team.empty ∧ (t.die (dieOf core)).brtail = (d.brtail + 1) % 4096 ∧
      (sget [] (t.die (dieOf core)).blockRing d.brtail).getD 4 0 =
        BitVec.ofNat 64 (min a.issued 0xFFFFFFFF + min a.passes 0xFFFFFFFF * 2 ^ 32) ∧
      (swf Team.empty s.teams = true → (∀ k, k ≠ slot → (s.team core k).life ≠ .free → (s.team core k).w ≠ a.w) →
        t.wg core a.w = Wg.empty)) ∧
    (s.drained core slot = true → (d.brtail + 1) % 4096 = d.brhead → exec (.teamRetire core slot) s = .next s)

/-! ## Interfaces and graphs -/

namespace Sys2Proof.Spec

/-- ERR after an error is noted (18 R311): the first is held, each is counted. -/
def noted (old gslot code index : Nat) : DWord :=
  let count := min (old / 2 ^ 48 + 1) 0xFFFF
  BitVec.ofNat 64 (if old % 2 = 1 then old % 2 ^ 48 + count * 2 ^ 48
    else count * 2 ^ 48 + gslot * 2 ^ 32 + index % 2 ^ 16 * 2 ^ 16 + code * 2 ^ 8 + 1)

/-- A new value of VICTL has only fields of its register (21 R359). -/
def victlOk (v : DWord) : Prop := v &&& ~~~0xFFFFFFFF00FF0301#64 = 0

end Sys2Proof.Spec

/-- The registers of an interface, whose GRAPHn, KICK and MCSET the firmware of die 0 serves, where it runs (log 30): a good graph
is registered; a bad one is noted in ERR and only VALID is cleared; one whose object is not all the device's yet keeps VALID without
OK (log 16); a graph leaves its slot once its replays are over; GBASE reads as written to an empty slot too; a graph is registered
whether the interface is enabled or not (log 44); offsets that are not listed read 0 and discard writes, as KICK, MCSET and FLIPREQ
read 0; a kick takes the next KSEQ, or is noted as an error, also for a slot that leaves (log 26); the end of a node, once what the
cores hold dirty is acknowledged, readies its successors and the last one ends the replay; a multicast entry of a node that has a
bind record, with members below the launch's highest logical core (log 18), is marked changing, and changed when no copy on it is
left; VICTL enables an interface with clusters and a root, takes no NCL above 96 (log 29), and disabling it ends its replays (18
R306 to R315, R319, R320, 21 R358, R359). -/
def Obligations.Interfaces : Prop :=
  ∀ (s : State) (vi : Nat), vi < 64 →
    let x := s.vi vi
    let after := fun (t : State) => t.vi vi
    let old := x.err.toNat
    let fw := s.fwRuns 0 = true
    let plain := fun (v : DWord) => v.toNat < 2 ^ 57 ∧ v.toNat / 4 % 16 = 0
    let others := fun (t : State) n => ∀ m, m ≠ n → (after t).graph m = x.graph m
    (s.fwRuns 0 = false → ∀ (n : Nat) (v : DWord), exec (.graphRegister vi n v) s = .next s ∧ exec (.graphUnregister vi n) s = .next s ∧
      exec (.kick vi v) s = .next s ∧ exec (.mcset vi v) s = .next s ∧ exec (.multicastChangeDone vi n) s = .next s ∧
      ∀ id, exec (.nodeComplete vi id n) s = .next s) ∧
    (∀ (n : Nat) (v : DWord), fw → n < 8 → plain v → v.toNat % 2 = 1 →
      let base := v.toNat / 64 * 64
      let asked : Graph := { Graph.empty with valid := true, gbase := base }
      let s1 := s.modVi vi fun x => { x with graphs := sput Graph.empty x.graphs n asked }
      (∀ g : Graph, (x.graph n).valid = false → s1.readGraph vi base = .ok g → Runs (.graphRegister vi n v) s fun t =>
        (after t).graph n = { g with leaving := false } ∧ (after t).err = x.err) ∧
      (∀ code index, (x.graph n).valid = false → s1.readGraph vi base = .error (.bad code index) →
        Runs (.graphRegister vi n v) s fun t => (after t).err = Spec.noted old n code index ∧
          (after t).graph n = { Graph.empty with gbase := base } ∧ others t n) ∧
      ((x.graph n).valid = false → s1.readGraph vi base = .error .wait → Runs (.graphRegister vi n v) s fun t => t = s1) ∧
      ((x.graph n).valid = true → Runs (.graphRegister vi n v) s fun t =>
        (after t).err = Spec.noted old n 0x02 0 ∧ (after t).graphs = x.graphs)) ∧
    (∀ (n : Nat) (v : DWord), fw → n < 8 →
      (¬ plain v → Runs (.graphRegister vi n v) s fun t => (after t).err = Spec.noted old n 0x01 0 ∧ (after t).graphs = x.graphs) ∧
      (plain v → v.toNat % 2 = 0 → (x.graph n).valid = false → Runs (.graphRegister vi n v) s fun t =>
        (after t).graph n = { Graph.empty with gbase := v.toNat / 64 * 64 } ∧ others t n ∧ (after t).err = x.err)) ∧
    (∀ off, (off % 8 ≠ 0 ∨ 0x70 ≤ off → s.viPageRead vi off = 0 ∧ ∀ v, s.viPageWrite vi off v = .next s) ∧
      s.viPageRead vi 0x40 = 0 ∧ s.viPageRead vi 0x60 = 0 ∧ s.viPageRead vi 0x48 = x.kseq ∧ s.viPageRead vi 0x50 = x.dseq ∧
      s.viPageRead vi 0x58 = x.err ∧
      (off % 8 ≠ 0 ∨ 0x60 ≤ off → s.hostPageRead vi off = 0 ∧ ∀ v, s.hostPageWrite vi off v = .next s) ∧
      s.hostPageRead vi 0x30 = 0 ∧ s.hostPageRead vi 0 = x.victl ∧ s.hostPageRead vi 8 = x.ptroot) ∧
    (∀ n, n < 8 → s.viPageRead vi (8 * n) = BitVec.ofNat 64 ((x.graph n).gbase / 64 % 2 ^ 51 * 64 +
      (if (x.graph n).valid = true ∧ (x.graph n).ok = true then 2 else 0) + if (x.graph n).valid = true then 1 else 0)) ∧
    (∀ n, fw → n < 8 → (x.graph n).valid = true → swf Graph.empty x.graphs = true → Runs (.graphUnregister vi n) s fun t =>
      (after t).graph n = (if x.replays.any (fun r => r.gslot == n) then { x.graph n with leaving := true }
        else { Graph.empty with gbase := (x.graph n).gbase })) ∧
    (∀ v : DWord, fw → 2 ^ 57 ≤ v.toNat ∨ v.toNat % 8 ≠ 0 → Runs (.kick vi v) s fun t =>
      (after t).err = Spec.noted old (v.toNat / 8 % 8) 0x03 0 ∧ (after t).kseq = x.kseq) ∧
    (∀ v : DWord, fw → v.toNat < 2 ^ 57 → v.toNat % 8 = 0 →
      let n := v.toNat / 8 % 8
      let g := x.graph n
      (g.valid = true → g.ok = true → g.leaving = false → x.replays.length < 16 → Runs (.kick vi v) s fun t =>
        (after t).kseq = x.kseq + 1) ∧
      ((g.valid = false ∨ g.ok = false ∨ g.leaving = true) → Runs (.kick vi v) s fun t =>
        (after t).err = Spec.noted old n 0x04 0 ∧ (after t).kseq = x.kseq) ∧
      (g.valid = true → g.ok = true → g.leaving = false → 16 ≤ x.replays.length → Runs (.kick vi v) s fun t =>
        (after t).err = Spec.noted old n 0x05 0 ∧ (after t).kseq = x.kseq)) ∧
    (∀ id node r, fw → x.replay id = some r → r.started = true → r.ended = false → node < r.nodes.length →
      (r.node node).ready = true → (r.node node).complete = false →
      (r.node node).retired = ((x.graph r.gslot).lrecOf node).nwg → s.linkBusy = false →
      (∀ c, ∀ a ∈ (s.core c).l1.dirty, s.poolLost a = false) →
      let succ := ((x.graph r.gslot).nodes.getD node ⟨0, 0, []⟩).succ
      Runs (.nodeComplete vi id node) s fun t =>
        ((∀ m, m < r.nodes.length → m ≠ node → (r.node m).complete = true) → (after t).replay id = none) ∧
        (∀ m, m < r.nodes.length → m ≠ node → (r.node m).complete = false → ∃ q, (after t).replay id = some q ∧
          (q.node node).complete = true ∧
          (m ∉ succ → q.node m = r.node m) ∧
          (succ.count m = 1 → (q.node m).left = (r.node m).left - 1 ∧
            ((q.node m).ready = true ↔ (r.node m).ready = true ∨ (r.node m).left ≤ 1)))) ∧
    (∀ v : DWord, v.toNat % 2 = 1 → Runs (.errClear vi v) s fun t => after t = { x with err := 0 }) ∧
    (∀ (v : DWord) r rest, fw →
      let w := v.toNat
      let node := w % 2 ^ 12
      let first := w / 2 ^ 48
      let count := w / 2 ^ 32 % 2 ^ 16
      let stride := w / 2 ^ 22 % 2 ^ 10
      (x.replays = [] → Runs (.mcset vi v) s fun t => (after t).err = Spec.noted old 0 0x0D node) ∧
      (x.replays = r :: rest → (r.ended = true ∨ (r.node node).bound = 0) → Runs (.mcset vi v) s fun t =>
        (after t).err = Spec.noted old r.gslot 0x0D node) ∧
      (x.replays = r :: rest → r.ended = false → w / 2 ^ 12 % 2 ^ 5 = 0 → node < r.nodes.length → (r.node node).ready = true →
        0 < (r.node node).bound → (r.node node).complete = false →
        mcOk first count stride (x.mcTop (x.graph r.gslot) node) = true → Runs (.mcset vi v) s fun t =>
          ∃ q, (after t).replay r.id = some q ∧
            sget McEntry.empty q.mc (node * 32 + w / 2 ^ 17 % 2 ^ 5) =
              { sget McEntry.empty r.mc (node * 32 + w / 2 ^ 17 % 2 ^ 5) with changing := true, next := some (first, count, stride) })) ∧
    (∀ entry id r f c st, fw → (x.replays.map (·.id)).Nodup → x.replay id = some r →
      (sget McEntry.empty r.mc entry).next = some (f, c, st) → s.cpymOn vi id entry = false →
      Runs (.multicastChangeDone vi entry) s fun t => ∃ q, (after t).replay id = some q ∧
        sget McEntry.empty q.mc entry = ⟨f, c, st, false, none⟩) ∧
    (∀ v : DWord,
      let ncl := v.toNat / 2 ^ 16 % 2 ^ 8
      (v.toNat % 2 = 1 → Spec.victlOk v → 1 ≤ ncl → ncl ≤ 96 → x.ptroot ≠ 0 → Runs (.viEnable vi v) s fun t =>
        (after t).victl = v ∧ (after t).minclass = v.toNat / 2 ^ 8 % 4) ∧
      (v.toNat % 2 = 1 → (ncl = 0 ∨ 96 < ncl ∨ x.ptroot = 0) → exec (.viEnable vi v) s = .next s) ∧
      (v.toNat % 2 = 0 → Spec.victlOk v → Runs (.viDisable vi v) s fun t => (after t).victl = v ∧
        (fw → x.victl.toNat % 2 = 1 → ∀ q ∈ (after t).replays, q.ended = true)))

/-! ## Firmware's service -/

namespace Sys2Proof.Spec

/-- No translation of an interface touches a range any more, on no core and in no team (19 R331, 06 R140). -/
def shotDown (s t : State) (vi base n : Nat) : Prop :=
  (∀ c, ∀ e ∈ (t.core c).tlb, e.vi = vi → overlap e.base e.size base n = false) ∧
  ∀ c k, k < 64 → (s.wg c (s.team c k).w).vi = vi → ∀ q ∈ (t.team c k).xt, overlap q.2.base q.2.size base n = false

/-- The six writes of `REPLAY` on a core (19 R331, R333): whether the waiters fail, and the entries that the value selects: by page,
by token, or all of an interface. -/
def replays (core : Nat) (v : DWord) : List (Instr × Bool × (WaitE → Bool)) :=
  let vi := v.toNat / 2 ^ 55 % 2 ^ 6
  let key := v.toNat % 2 ^ 41
  let page := fun (e : WaitE) => e.vi == vi && e.page == key * 2 ^ 16
  let token := fun (e : WaitE) => e.token == key
  let all := fun (e : WaitE) => e.vi == vi
  [(.replayByPage core v, false, page), (.replayByToken core v, false, token), (.replayAllVi core v, false, all),
   (.replayByPageFatal core v, true, page), (.replayByTokenFatal core v, true, token), (.replayAllViFatal core v, true, all)]

/-- A wait-table entry is selected: entry 63, shared by what found no other, always is (19 R332, R333). -/
def chosenEntry (p : WaitE → Bool) (q : Nat × WaitE) : Bool := q.2.v && (q.1 == 63 || p q.2)

end Sys2Proof.Spec

/-- Shoot-downs and replays: a write of SHOOT stands until SHOOT_DONE, after which no translation of the page, or of the interface,
is left anywhere; a write of REPLAY frees the selected entries of a core's wait table, by token those of every interface (log 29);
what is parked under one of their tokens tries again, or fails with MEM_FATAL and CODE 1, but the comparison of an `spres`, which
fails as 10 R235 says.  A die whose firmware does not run, as one that is not there, writes neither (log 30) (19 R331 to R333, R335,
22 R381). -/
def Obligations.FaultService : Prop :=
  (∀ (s : State) (die : Nat) (v : DWord), s.fwRuns die = false →
    exec (.shootPage die v) s = .next s ∧ exec (.shootVi die v) s = .next s) ∧
  (∀ (s : State) (core : Nat) (v : DWord), s.fwRuns (dieOf core) = false → ∀ r ∈ Spec.replays core v, exec r.1 s = .next s) ∧
  (∀ (s : State) (die : Nat) (v : DWord), s.fwRuns die = true → (s.die die).shoot = none →
    let vi := v.toNat / 2 ^ 55 % 2 ^ 6
    Runs (.shootPage die v) s (fun t => (t.die die).shoot = some (some (v.toNat % 2 ^ 41 * 2 ^ 16), vi) ∧
      t = { s with dies := t.dies }) ∧
    Runs (.shootVi die v) s fun t => (t.die die).shoot = some (none, vi) ∧ t = { s with dies := t.dies }) ∧
  (∀ (s : State) (die vi : Nat) (page : Option Nat), (s.die die).shoot = some (page, vi) → Runs (.shootDone die) s fun t =>
    (t.die die).shoot = none ∧ SameMem s t ∧
    (∀ p, page = some p → Spec.shotDown s t vi p (s.pageSize vi p)) ∧ (page = none → Spec.shotDown s t vi 0 (2 ^ 57))) ∧
  ∀ (s : State) (core : Nat) (v : DWord), s.fwRuns (dieOf core) = true → ∀ r ∈ Spec.replays core v,
    let c := s.core core
    let toks := (c.waitTab.filter (Spec.chosenEntry r.2.2)).map fun q => q.2.token
    Runs r.1 s fun t =>
      (∀ q ∈ (t.core core).waitTab, ∃ e ∈ c.waitTab, Spec.chosenEntry r.2.2 e = false ∧
        q = (e.1, { e.2 with ops := q.2.ops, ectx := q.2.ectx }) ∧ (r.2.1 = false → q = e)) ∧
      ∀ slot path k, slot < 64 → swf Team.empty s.teams = true → swf Path.empty (s.team core slot).paths = true →
        let p := s.path ⟨core, slot, path⟩
        let q := t.path ⟨core, slot, path⟩
        let g := s.wg core (s.team core slot).w
        (s.team core slot).life ≠ .free → p.parked = some k → (∃ x ∈ k.tokens, x ∈ toks) →
        (r.2.1 = false → q.parked = some { k with tokens := [] } ∧ q.wait = .retry 12) ∧
        (r.2.1 = true → (∀ f, k.op ≠ .compare f) → p.pendTrap = none → p.inh = false → g.trapEntry ≠ 0xFFFFFFFF →
          q.parked = none ∧ q.tcause = 0x0A ∧ q.inh = true ∧ q.pc = BitVec.ofNat 64 (g.code + g.trapEntry)) ∧
        (r.2.1 = true → ∀ f, k.op = .compare f → q.parked = none ∧ ∃ a, q.wait = .compareFail f a)

/-- Ownership flips: FLIPREQ marks a page; a flip to the device clears OWN, marks the page and asks the driver; once the driver is
done the bytes are in the frame, the leaf names it and belongs to the device; a refusal comes after 1 s; a flip to the host clears
OWN and shoots the page down; the firmware of die 0 does it, where it runs (log 30); no frame of the dump region is taken, whose
place is log 22 (22 R379); the host address comes with the event, log 27, and where a frame may lie is log 35 (19 R334, 21 R360). -/
def Obligations.OwnershipFlips : Prop :=
  ∀ (s : State) (vi page frame host idx k level e : Nat) (v : DWord), s.leafOf vi page = some (k, level, e) →
    let x := s.vi vi
    let size := leafSize level
    let base := page / size * size
    let free := e / 4 * 4 + e % 2
    (s.fwRuns 0 = false → ∀ i ∈ [Instr.flipreq vi v, .flipToDevice vi page frame host, .flipDone vi idx, .flipRefused vi idx,
      .flipToHost vi page host], exec i s = .next s) ∧
    (s.fwRuns 0 = true →
    (v.toNat / 2 ^ 16 % 2 ^ 41 * 2 ^ 16 = page → Runs (.flipreq vi v) s fun t =>
      (t.vi vi).flips = x.flips ++ [⟨base, true, 64, 0, 0, s.time3⟩] ∧ t.mem = s.mem) ∧
    (s.flipping vi base size = false → frame % size = 0 → frame + size ≤ hbmBytes → inDump frame size = false → k + 8 ≤ 2 ^ 52 →
      Runs (.flipToDevice vi page frame host) s fun t =>
        t.mnat k 8 = free % 2 ^ 64 ∧ (t.vi vi).nextFlip = (x.nextFlip + 1) % 64 ∧
        (t.vi vi).flips = x.flips ++ [⟨base, false, x.nextFlip, frame, host, s.time3⟩] ∧ t.irqs = s.irqs ++ [(vi, 2)]) ∧
    (frame < 64 * 2 ^ 30 → 64 * 2 ^ 30 - 256 * 2 ^ 20 < frame + size → exec (.flipToDevice vi page frame host) s = .next s) ∧
    (∀ f, x.flips.find? (fun f => f.qrec == idx && !f.toHost) = some f → f.page = page → x.replays = [] →
      s.time3 < f.since + 3 * 10 ^ 9 → k + 8 ≤ 2 ^ 52 → f.frame + size ≤ 2 ^ 52 → f.frame % 2 ^ 12 = 0 →
      overlap (hostKey (x.flipbase.toNat + 16 * idx)) 16 (hostKey f.src) size = false → Runs (.flipDone vi idx) s fun t =>
        (t.vi vi).flips = x.flips.erase f ∧
        t.mnat k 8 = (e / 4 % 4 * 4 + e % 2 + 2 + f.frame) % 2 ^ 64 ∧
        ∀ i, i < size → (f.frame + i < k ∨ k + 8 ≤ f.frame + i) → t.mget (pKey 0 f.frame + i) = s.mget (hostKey f.src + i)) ∧
    (∀ f, x.flips.find? (fun f => f.qrec == idx && !f.toHost) = some f →
      (f.since + 3 * 10 ^ 9 ≤ s.time3 → exec (.flipDone vi idx) s = .next s ∧
        Runs (.flipRefused vi idx) s fun t => (t.vi vi).flips = x.flips.erase f) ∧
      (s.time3 < f.since + 3 * 10 ^ 9 → exec (.flipRefused vi idx) s = .next s)) ∧
    (∀ f, x.flips.find? (fun f => f.page == page) = some f → f.toHost = true → k + 8 ≤ 2 ^ 52 →
      (let src := pKey (e / 2 ^ 8 % 4) (e / 2 ^ 12 % 2 ^ 40 * 2 ^ 12)
       ∀ q ∈ s.cores, (∀ p ∈ q.2.posted, overlap p.key p.bytes.length src size = false) ∧
         ∀ d ∈ q.2.pen, d.op.within src size = false) →
      Runs (.flipToHost vi page host) s fun t => (t.vi vi).flips = x.flips.erase f ∧ t.mnat k 8 = free % 2 ^ 64 ∧
        t.irqs = s.irqs ++ [(vi, 2)] ∧ Spec.shotDown s t vi page size))

/-- Pre-emption and the end of launches: a write of PREEMPT marks each named context and halts its teams; a halted context is saved:
its image is written, its teams are Draining (saved), and once no store of theirs is out its team slots and its context are empty;
LAUNCH_END ends the replay and every workgroup of the launch, with a report while the ring of reports is not full (log 28); a time slice
that is over, counted from the end of the one before (log 34), pre-empts all the interface's workgroups if another sharing interface had
READY records during it; the firmware concerned must run (log 30); the image lies at SAVE, whose bits 63:52 name its memory, log 20 (19
R339 to R342, 21 R368). -/
def Obligations.PreemptionAndEnds : Prop :=
  (∀ (s : State) (core w : Nat) (v : DWord), s.fwRuns (dieOf core) = true → w < 16 → v.toNat.testBit w = true →
    (s.wg core w).used = true → Runs (.preempt core v) s fun t => w ∈ (t.core core).preempt ∧
      (w ∉ (s.core core).preempt → swf Team.empty s.teams = true → ∀ k, k < 64 → (s.team core k).w = w →
        (t.team core k).life ≠ .running ∧ (t.team core k).life ≠ .starting)) ∧
  (∀ (s : State) (core w save : Nat),
    let c := s.core core
    (w ∈ c.preempt → (s.wg core w).preempted = true → w ∉ c.halted → Runs (.preemptHalted core w) s fun t =>
      w ∈ (t.core core).halted ∧ SameMem s t) ∧
    let mine := fun k => k < 64 ∧ (s.team core k).life ≠ .free ∧ (s.team core k).w = w
    let out := ∃ q ∈ c.posted, mine q.slot ∨ q.slot = linkSlot
    let lost := ∃ a ∈ c.l1.dirty, s.poolLost a = true
    let gone := fun (t : State) => t.wg core w = Wg.empty ∧ w ∈ (t.core core).saved ∧ w ∉ (t.core core).preempt ∧
      ∀ k, mine k → t.team core k = Team.empty
    (swf Team.empty s.teams = true → s.drainsSaved core w = false → w ∈ c.preempt → w ∈ c.halted → s.saveReady core w = true →
      s.imageFits core w save = true → s.fwRuns (dieOf core) = true → Runs (.contextSaved core w save) s fun t =>
        (∃ v, t.saves = s.saves ++ [v] ∧ v.addr = save ∧ v.vi = (s.wg core w).vi) ∧
        ((∃ q ∈ c.posted, mine q.slot) → (t.wg core w).used = (s.wg core w).used ∧ ∀ k, mine k → (t.team core k).life = .drainSaved) ∧
        (¬ out → ¬ lost → gone t ∧
          ((∀ k ∈ c.l1.dirty, k < save ∨ save + 64 ≤ k) → t.mnat save 4 = 0x43584E42))) ∧
    (s.drainsSaved core w = false → (s.imageFits core w save = false ∨ s.fwRuns (dieOf core) = false) →
      exec (.contextSaved core w save) s = .next s) ∧
    (swf Team.empty s.teams = true → (∃ k, mine k) → (∀ k, mine k → (s.team core k).life = .drainSaved) →
      (out → exec (.contextSaved core w save) s = .next s) ∧ (¬ out → Runs (.contextSaved core w save) s gone))) ∧
  (∀ (s : State) (vi id node : Nat) (r : Replay) (ws : List DWord), (s.vi vi).replay id = some r →
    s.endReason vi id node = some ws → s.fwRuns 0 = true → Runs (.launchEnd vi id node) s fun t =>
      (∀ q, (t.vi vi).replay id = some q → q.ended = true) ∧
      (((s.vi vi).errtail + 1) % 64 ≠ (s.vi vi).errhead →
        (t.vi vi).errtail = ((s.vi vi).errtail + 1) % 64) ∧
      ∀ c w, w < 16 → swf Wg.empty s.wgs = true → (s.wg c w).used = true → (s.wg c w).vi = vi → (s.wg c w).replay = id →
        (s.wg c w).node = node → (t.wg c w).ending = true) ∧
  (∀ (s : State) (vi id node : Nat), (s.endReason vi id node = none ∨ s.fwRuns 0 = false) → exec (.launchEnd vi id node) s = .next s) ∧
  ∀ (s : State) (vi : Nat),
    let x := s.vi vi
    let slice := x.victl.toNat / 2 ^ 32
    (slice ≠ 0 → x.sliceAt + slice * 3000 ≤ s.time3 → s.fwRuns 0 = true → Runs (.timeSliceExpiry vi) s fun t =>
      (t.vi vi).sliceAt = s.time3 ∧ (t.vi vi).rivals = s.contested vi ∧
      ∀ c w, w < 16 → swf Wg.empty s.wgs = true → (s.wg c w).used = true → (s.wg c w).vi = vi → s.fwRuns (dieOf c) = true →
        (x.rivals = true ∨ s.contested vi = true) → w ∈ (t.core c).preempt) ∧
    ((slice = 0 ∨ s.time3 < x.sliceAt + slice * 3000 ∨ s.fwRuns 0 = false) → exec (.timeSliceExpiry vi) s = .next s)

/-! ## Power, errors, resets, links -/

/-- Droop and heat: a trip stretches the quadrant's clock for 6 cycles of twice the period and halves its issue for 64, from the
next cycle on, and leaves its own cycle as it was; a temperature reading enters or leaves each threshold, with 2 degrees of
hysteresis, at most once in 250 µs, and entering the last one is fatal where firmware runs to say so; the first halves the RATE of
the quadrant's clusters and the second quarters it, down to whole sixteenths, and leaving gives it back, within 16 bits (log 23),
where the quadrant's die has booted; firmware of a die that has booted rewrites the refill rates (log 30) (22 R372, R374 to R376).
-/
def Obligations.PowerAndHeat : Prop :=
  ∀ (s : State) (quad : Nat),
    let q := s.quad quad
    let now := s.time3
    let factor := fun (n : Nat) => if n = 0 then 2 else 4
    let moved := fun (yes : Bool) (n r : Nat) => if yes ∧ n < 2 ∧ s.fwRuns (quad / 4) then
      (if q.entered n then min (r * factor n) 0xFFFF else r / factor n) else r
    (q.drpthr ≠ 0 → quad < 16 → Runs (.droopTrip quad) s fun t => (t.quad quad).drpcnt = Spec.up q.drpcnt ∧
      (q.stretched now = false → q.stretched (now + 1) = false →
        (∀ τ, (t.quad quad).stretched τ = true ↔ now + 1 ≤ τ ∧ τ ≤ now + 12) ∧
        (∀ τ, now < τ → ((t.quad quad).halved τ = true ↔ now + 13 ≤ τ ∧ τ < now + 77)) ∧
        (t.quad quad).halved now = q.halved now) ∧
      ((q.stretched now = true ∨ q.stretched (now + 1) = true) → (t.quad quad).stretch = q.stretch)) ∧
    (q.drpthr = 0 ∨ 16 ≤ quad → exec (.droopTrip quad) s = .next s) ∧
    (16 ≤ quad → ∀ temp, exec (.thermalReading quad temp) s = .next s) ∧
    (q.stretch ≤ now → Runs (.droopStretchEnd quad) s fun t => t.quad quad = { q with stretch := 0 }) ∧
    (q.halving ≤ now → Runs (.droopHalvingEnd quad) s fun t => t.quad quad = { q with halving := 0 }) ∧
    (∀ temp, temp < 2 ^ 16 → quad < 16 → Runs (.thermalReading quad temp) s fun t => (t.quad quad).thcur = temp ∧
      (∀ n, n < 3 →
        let want := if q.entered n then decide (temp + 16 ≤ s.tlim n) else decide (s.tlim n ≤ temp)
        ((t.quad quad).entered n = (q.entered n ^^ (want && q.mayChange n now))) ∧
        (want = true → q.mayChange n now = false → n ∈ (t.quad quad).pending)) ∧
      (let want := fun n => (if q.entered n then decide (temp + 16 ≤ s.tlim n) else decide (s.tlim n ≤ temp)) && q.mayChange n now
       ∀ k, (t.cluster k).parate = if k / 6 = quad then moved (want 1) 1 (moved (want 0) 0 (s.cluster k).parate)
         else (s.cluster k).parate) ∧
      (s.dumpHeld = false → (t.dumpHeld = true ↔ q.entered 2 = false ∧ s.tlim2 ≤ temp ∧ q.mayChange 2 now = true ∧
        s.fwRuns 0 = true))) ∧
    (∀ n, n < 3 → quad < 16 → n ∈ q.pending → q.mayChange n now = true → Runs (.thermalHoldoffExpiry quad n) s fun t =>
      n ∉ (t.quad quad).pending ∧
      (t.quad quad).entered n = (q.entered n ^^
        if q.entered n then decide (q.thcur + 16 ≤ s.tlim n) else decide (s.tlim n ≤ q.thcur)) ∧
      ∀ k, (t.cluster k).parate = if k / 6 = quad then
        moved (if q.entered n then decide (q.thcur + 16 ≤ s.tlim n) else decide (s.tlim n ≤ q.thcur)) n (s.cluster k).parate
        else (s.cluster k).parate) ∧
    ∀ rates, Runs (.powerMeasure rates) s fun t => ∀ k, (t.cluster k).parate =
      match (rates.filter fun r => r.1 == k && decide (k < 96) && (s.die (k / 24)).booted).getLast? with
      | some r => r.2 % 2 ^ 16
      | none => (s.cluster k).parate

/-- Errors of the silicon: an uncorrectable error poisons what it hits, in memory the word of 64 bits, in a tile's stores that of
32, and is counted on the base die of its place, at HBM4 the one of the four dies that serves its stack, two stacks each (which, log
37); a clean line of the L1, and a line of an instruction cache, is fetched again and counted with no record; a dirty line's check
writes its record and raises vector 3; a corrected error is counted; an error at a place that the device has not, an address past
HBM4 among them (log 35), changes nothing (19 R337, R338, 22 R377, 00 R1 to R3). -/
def Obligations.HardwareErrors : Prop :=
  ∀ (s : State) (core slot reg lane w n : Nat), core < 384 →
    let ue := fun (t : State) d k => sget 0 (t.die d).eccue k
    let ce := fun (t : State) d k => sget 0 (t.die d).eccce k
    let d := dieOf core
    let c := s.core core
    (∀ e, softErrPlace e = false → exec (.softError e) s = .next s) ∧
    (slot < 64 → reg < 256 → lane < 1024 → Runs (.softError (.vreg core slot reg lane)) s fun t =>
      sget false (t.team core slot).vpoison (reg * 1024 + lane) = true ∧ ue t d 0 = Spec.up (ue s d 0) ∧
      t.irqs = s.irqs ++ [(0, 3)] ∧ SameMem s t) ∧
    (slot < 64 → reg < 128 → Runs (.softError (.sreg core slot reg)) s fun t =>
      sget false (t.team core slot).spoison reg = true ∧ ue t d 0 = Spec.up (ue s d 0) ∧ t.irqs = s.irqs ++ [(0, 3)] ∧ SameMem s t) ∧
    (w < 16 → n < 24 → lane < 16384 + 1024 + 16 → Runs (.softError (.tile core w n lane)) s fun t =>
        (∀ a, a / 4 = lane / 4 → a ∈ ((t.wg core w).tile n).poison) ∧ ue t d 1 = Spec.up (ue s d 1)) ∧
    (w < 16 → n < 4 → lane < 8192 → Runs (.softError (.acc core w n lane)) s fun t =>
        n * 8192 + lane ∈ (t.wg core w).accPoison ∧ ue t d 1 = Spec.up (ue s d 1)) ∧
    (∀ addr, addr < hbmBytes → Runs (.softError (.mem addr)) s fun t => (∀ a, a / 8 = addr / 8 → a ∈ t.memPoison) ∧
      hbmDie addr < 4 ∧ ue t (hbmDie addr) 5 = Spec.up (ue s (hbmDie addr) 5) ∧ t.mem = s.mem ∧ t.irqs = s.irqs) ∧
    (∀ b, b < 4 → ((List.range 8).filter fun k => hbmDie (k * 2 ^ 36) == b).length = 2) ∧ hbmDie 0 = 0 ∧
    (∀ off, off < 2 ^ 22 → Runs (.softError (.mem (spKey core off))) s fun t =>
      (∀ a, a / 8 = spKey core off / 8 → a ∈ t.memPoison) ∧
      ue t d 2 = Spec.up (ue s d 2) ∧ t.mem = s.mem ∧ t.irqs = s.irqs) ∧
    (∀ addr, hbmBytes ≤ addr → (addr < pKey 4 0 ∨ pKey 4 0 + 384 * 2 ^ 22 ≤ addr) → exec (.softError (.mem addr)) s = .next s) ∧
    (∀ line, c.l1.lines.contains line = false → exec (.softError (.dirtyLine core line)) s = .next s) ∧
    (∀ line, c.l1.lines.contains line = true → (∀ k ∈ c.l1.dirty, lineOf k ≠ line) →
      Runs (.softError (.dirtyLine core line)) s fun t =>
        line ∉ (t.core core).l1.lines ∧ ue t d 3 = Spec.up (ue s d 3) ∧ SameMem s t ∧ t.irqs = s.irqs) ∧
    (∀ line, c.l1.lines.contains line = true → (∃ k ∈ c.l1.dirty, lineOf k = line) → Runs (.softError (.dirtyLine core line)) s fun t =>
      line ∉ (t.core core).l1.lines ∧ ue t d 3 = Spec.up (ue s d 3) ∧ t.irqs = s.irqs ++ [(0, 3)] ∧
      ∀ a, (a < line ∨ line + 64 ≤ a) → t.mget a = s.mget a) ∧
    (∀ idx q, c.pen[idx]? = some q → Runs (.softError (.penumbra core idx)) s fun t =>
      (t.core core).unresolved (c.unresolved q.ids) = [] ∧ ue t d 3 = Spec.up (ue s d 3) ∧ t.irqs = s.irqs ++ [(0, 3)] ∧ SameMem s t) ∧
    (∀ idx, c.pen.length ≤ idx → exec (.softError (.penumbra core idx)) s = .next s) ∧
    (∀ b k, b < 4 → k < 6 → Runs (.softError (.corrected b k)) s fun t =>
      ce t b k = Spec.up (ce s b k) ∧ t = { s with dies := t.dies }) ∧
    ∀ k line, k < 96 →
      ((s.cluster k).icache.contains line = true → Runs (.softError (.icache k line)) s fun t =>
        line ∉ (t.cluster k).icache ∧ ce t (k / 24) 4 = Spec.up (ce s (k / 24) 4) ∧
        t = { s with dies := t.dies, clusters := t.clusters }) ∧
      ((s.cluster k).icache.contains line = false → exec (.softError (.icache k line)) s = .next s)

/-- Machine checks and the device's own events all complete: a check of 0x20 to 0x25 that its operation has not logged writes a
record with its words and raises vector 3, one of 0x20 is counted as the matrix engine's, and one that firmware makes fatal asks for
the end of the launch of its team; which record is a logged check's, where VI, SLOT and PATH are free, is log 38; a store without
acknowledgement for 100 µs is dropped, its bytes open; the scrubber's errors are counted, and its uncorrectable words are so for
every later read; a fatal error of one of the four causes, where the firmware of die 0 runs (log 30), holds the device and writes the
dump, whose place and the layout of whose registers are the model's choice, log 22, with a header that names its sections in their order
and its length; an event at a place that the device has not changes nothing (19 R330, R337 to
R339, 22 R377 to R380, 00 R2). -/
def Obligations.ErrorEvents : Prop :=
  ∀ (s : State),
    (∀ (p : MPlace) (cause va : Nat) (logged fatal : Bool),
      let t0 := s.team p.core p.slot
      let g := s.wg p.core t0.w
      let d := dieOf p.core
      let ws := faultWords s va 0 g.vi p.core p.slot p.path p.ectx p.src p.kind cause 3
      let there := p.core < 384 ∧ p.slot < 64 ∧ p.ectx < 8 ∧ 0x20 ≤ cause ∧ cause ≤ 0x25
      let asks := fun (t : State) => if fatal = true ∧ t0.life ≠ .free ∧ s.fwRuns d = true then
        ∃ e, t.ends = s.ends ++ [e] ∧ e.vi = g.vi ∧ e.replay = g.replay ∧ e.node = g.node else t.ends = s.ends
      (there → logged = false → Runs (.machineCheck p cause va logged fatal) s fun t =>
        (t.die d).faultQ = (s.die d).faultQ ++ [⟨ws⟩] ∧ t.irqs = s.irqs ++ [(0, 3)] ∧ asks t ∧ t.teams = s.teams ∧ SameMem s t ∧
        (t.die d).mxmchk = (if cause = 0x20 then Spec.up (s.die d).mxmchk else (s.die d).mxmchk)) ∧
      (there → logged = true →
        ((∃ r ∈ (s.die d).faultQ, r.words.take 2 = ws.take 2) → Runs (.machineCheck p cause va logged fatal) s fun t =>
          asks t ∧ t.irqs = s.irqs ∧ t.dies = s.dies ∧ t.teams = s.teams ∧ SameMem s t) ∧
        ((∀ r ∈ (s.die d).faultQ, sameCheck cause r.words ws = false) → (∀ r ∈ (s.die d).faultRing, sameCheck cause r.2 ws = false) →
          exec (.machineCheck p cause va logged fatal) s = .next s)) ∧
      (¬ there → exec (.machineCheck p cause va logged fatal) s = .next s)) ∧
    (∀ core idx,
      let c := s.core core
      (c.posted.length ≤ idx → exec (.postedStoreTimeout core idx) s = .next s) ∧
      ∀ q, c.posted[idx]? = some q →
        (q.since + 300000 ≤ s.time3 → Runs (.postedStoreTimeout core idx) s fun t => (t.core core).posted = c.posted.eraseIdx idx ∧
          t.irqs = s.irqs ++ [(0, 3)] ∧ t.teams = s.teams ∧ ∀ a, (a < q.key ∨ q.key + q.bytes.length ≤ a) → t.mget a = s.mget a) ∧
        (s.time3 < q.since + 300000 → exec (.postedStoreTimeout core idx) s = .next s)) ∧
    (∀ die a b,
      let mine := b.filter fun x => decide (x < hbmBytes) && hbmDie x == die
      let ue := fun (t : State) => sget 0 (t.die die).eccue 5
      let ce := fun (t : State) => sget 0 (t.die die).eccce 5
      (die < 4 → Runs (.patrolScrub die a b) s fun t =>
        ue t = (if mine = [] then ue s else min (ue s + mine.length) 0xFFFFFFFF) ∧ ce t = min (ce s + a) 0xFFFFFFFF ∧
        (∀ x ∈ mine, ∀ k, k / 8 = x / 8 → k ∈ t.memPoison) ∧
        t.teams = s.teams ∧ t.irqs = s.irqs ∧ t.mem = s.mem) ∧
      (4 ≤ die → exec (.patrolScrub die a b) s = .next s)) ∧
    ∀ die cause detail,
      (die < 4 → s.dumpHeld = false → 1 ≤ cause → cause ≤ 4 → s.fwRuns 0 = true → Runs (.fatalErrorDump die cause detail) s fun t =>
        t.dumpHeld = true ∧ t.irqs = s.irqs ++ [(0, 3)] ∧ t.teams = s.teams ∧
        let word := fun o n => t.mnat (pKey 0 (64 * 2 ^ 30 - 256 * 2 ^ 20 + o)) n
        word 0 4 = 0x44554D50 ∧ word 4 4 = 1 ∧ word 24 4 = cause + die * 2 ^ 8 ∧ word 32 4 = 64 ∧
        word 36 4 = word 32 4 + 4 * 131072 ∧ word 40 4 = word 36 4 + 4 * 131072 ∧ word 44 4 = word 40 4 + 8 * 892 ∧
        word 8 8 = word 44 4 + 4 * 524288 ∧
        ((∀ k, (∀ q ∈ (s.die k).faultRing, q.1 < 4096 ∧ q.2.length ≤ 4) ∧ ∀ q ∈ (s.die k).slotTab, q.1 < 2048) →
          word (word 40 4) 8 = s.pwrlim % 2 ^ 64)) ∧
      ((4 ≤ die ∨ s.dumpHeld = true ∨ cause = 0 ∨ 4 < cause ∨ s.fwRuns 0 = false) → exec (.fatalErrorDump die cause detail) s = .next s)

/-- Resets, boot and attestation: a reset puts every register at its reset value and keeps memory; a loss of power empties the
device's own memories, so that they read 0, as what nothing has written does (log 1, with log 24); an image that verifies runs and
is measured in die order, another leaves the die in reset; an update of a die that runs, which verifies too, is measured first, and
one that does not verify changes nothing; a report is written at ATTDST where the firmware of die 0 runs, else ATTGO stays set (log
30).  That resets keep memory is log 24; digest and signature are uninterpreted, log 9 (22 R379, R381, R382). -/
def Obligations.ResetsAndBoot : Prop :=
  ∀ (s : State) (die : Nat) (image sig : List Byte),
    let digest := Config.shake256 image
    let d := s.die die
    (∀ i, i ∈ [Instr.deviceReset, .pfReset] → Runs i s fun t => SameMem s t ∧
      t = { State.reset with mem := t.mem, memPoison := s.memPoison, peerGroup := s.peerGroup, agenda := s.agenda, fresh := s.fresh }) ∧
    Runs .modulePowerLoss s (fun t => t.powered = false ∧ t.teams = [] ∧
      ∀ a, t.mget a = if a / 2 ^ 52 = 0 ∨ a / 2 ^ 52 = 4 then 0 else s.mget a) ∧
    (Config.mldsaVerify digest sig = true → d.booted = false → die < 4 → Runs (.bootVerify die image sig) s fun t =>
      (t.die die).booted = true ∧ (t.die die).fwver = Config.fwVersion image ∧ (t.die die).digest = digest ∧
      (die ≠ s.measNext → (s.die s.measNext).digest = [] → t.meas = s.meas) ∧
      (die = s.measNext → digest ≠ [] → (s.die (die + 1)).digest = [] ∨ die = 3 →
        t.measNext = die + 1 ∧ ∀ i, i < 64 → sget 0 t.meas i = (Config.shake256 (s.measOf 0 ++ digest)).getD i 0)) ∧
    ((Config.mldsaVerify digest sig = false ∨ d.booted = true ∨ 4 ≤ die) → exec (.bootVerify die image sig) s = .next s) ∧
    (Config.mldsaVerify digest sig = true → s.fwRuns die = true → Runs (.firmwareUpdate die (image, sig)) s fun t =>
      (t.die die).fwver = Config.fwVersion image ∧
      (∀ i, i < 64 → sget 0 t.meas (384 + i) = (Config.shake256 (s.measOf 6 ++ digest)).getD i 0) ∧ SameMem s t) ∧
    ((Config.mldsaVerify digest sig = false ∨ s.fwRuns die = false) → exec (.firmwareUpdate die (image, sig)) s = .next s) ∧
    (s.fwRuns 0 = true → Runs .attgo s fun t =>
      t.mnat (hostKey s.attdst.toNat) 4 = 0x41545354 ∧ t.attgo = false ∧ t.teams = s.teams) ∧
    (s.fwRuns 0 = false → exec .attgo s = .next { s with attgo := true })

/-- What arrives over the links: a host write lands in device or host memory and in no L1; a peer's store and atomic act on this
device's memory; a port that stayed down for 1 ms leaves every route, where the firmware of die 0 runs (log 30); a fetched line is
in the instruction cache, where a full one loses a line that the model leaves open, log 42; the link layer's replay changes nothing;
a port or link that the device has not is not there, and what goes to an address past HBM4 changes nothing, log 35 (00 R1 to R3, 12
R279, R280, 11 R256, 21 R356, R361 to R363, R367). -/
def Obligations.LinksAndPeers : Prop :=
  ∀ (s : State) (a n k : Nat) (bytes : List Byte) (b : Bool),
    let at_ := fun (m : State) base (i : Nat) => if base ≤ i ∧ i < base + bytes.length then bytes.getD (i - base) 0 else m.mget i
    ((a + bytes.length ≤ hbmBytes ∨ 2 ^ 52 ≤ a ∧ a + bytes.length ≤ 2 ^ 53) → Runs (.hostMemWrite a bytes) s fun t =>
      (∀ i, t.mget i = at_ s a i) ∧ t.cores = s.cores) ∧
    (a < 2 ^ 52 → hbmBytes < a + bytes.length → exec (.hostMemWrite a bytes) s = .next s ∧
      exec (.peerAccessArrival (.store a bytes)) s = .next s) ∧
    (a + bytes.length ≤ hbmBytes → Runs (.peerAccessArrival (.store a bytes)) s fun t =>
      (∀ i, t.mget i = at_ s (pKey 0 a) i) ∧ t.cores = s.cores) ∧
    (∀ len, exec (.peerAccessArrival (.load a len)) s = .next s) ∧
    (∀ (op : AtomOp) (ty : Ty) (data exp : DWord), ty ∈ [Ty.b32, .i32, .n32, .i64, .n64] → data.toNat < 2 ^ (8 * ty.bytes) →
      exp.toNat < 2 ^ (8 * ty.bytes) → a + ty.bytes ≤ hbmBytes → Runs (.peerAccessArrival (.ratom op ty a data exp)) s fun t =>
        t.mnat (pKey 0 a) ty.bytes = Spec.atomValue op ty (s.mnat (pKey 0 a) ty.bytes) data.toNat exp.toNat ∧
        ∀ i, (i < pKey 0 a ∨ pKey 0 a + ty.bytes ≤ i) → t.mget i = s.mget i) ∧
    (let down := sget 0 s.portDown n ≠ 0 ∧ sget 0 s.portDown n + 3000000 ≤ s.time3 + 1
     (¬ down → exec (.portDownRemoval n) s = .next s) ∧
     (s.fwRuns 0 = false → exec (.portDownRemoval n) s = .next s) ∧
     (n < 18 → down → s.fwRuns 0 = true → Runs (.portDownRemoval n) s fun t => n ∈ t.ports ∧ (∀ q ∈ t.route, q.2.testBit n = false) ∧
      ∀ q ∈ s.route, q.2 = 2 ^ n → q.1 ∈ t.lost)) ∧
    (18 ≤ n → exec (.portDownRemoval n) s = .next s) ∧
    (k ∈ (s.cluster n).icmiss → Runs (.instructionCacheLineArrival n k) s fun t =>
      let l := (s.cluster n).icache
      k ∈ (t.cluster n).icache ∧ k ∉ (t.cluster n).icmiss ∧
      (l.length < 4096 → t = { s with clusters := t.clusters } ∧ ∀ a ∈ l, a ∈ (t.cluster n).icache) ∧
      (4096 ≤ l.length → t = { s with clusters := t.clusters, fresh := t.fresh } ∧
        ∃ victim, ∀ a ∈ l, a ≠ victim → a ∈ (t.cluster n).icache)) ∧
    Runs (.flitCrcReplay n) s (fun t => t = s) ∧
    (n < 2 → Runs (.linkTraining n b) s fun t => (n ∈ t.links ↔ b = false) ∧ ∀ m, m ≠ n → (m ∈ t.links ↔ m ∈ s.links)) ∧
    (2 ≤ n → exec (.linkTraining n b) s = .next s) ∧
    Runs (.ptpLock b) s (fun t => t = if s.fwRuns 0 then { s with ptp := b } else s) ∧
    Runs (.poolWindowDown n k) s fun t => k ∈ (t.vi n).poolDown ∧ t = { s with vis := t.vis }
end

