-- ==== Sys2Proof/Laws/Sparse.lean ====
section
/-!
SUPPORT. Reading after writing, and the canonical form of data by key.
-/

namespace Sys2Proof

variable {α : Type} [DecidableEq α] (dflt : α)

omit [DecidableEq α] in
theorem sget_sins (d : Sparse α) (k j : Nat) (v : α) :
    sget dflt (sins d k v) j = if k = j then v else sget dflt d j := by
  induction d with
  | nil => simp [sins, sget]
  | cons q l ih =>
    obtain ⟨k', v'⟩ := q
    unfold sins
    split
    · have : k' ≠ k := by omega
      by_cases h3 : k' = j
      · subst h3; simp [sget, Ne.symm this]
      · simp [sget, h3, ih]
    · split
      · rename_i _ h; subst h; by_cases h3 : k' = j <;> simp [sget, h3]
      · by_cases h3 : k = j <;> simp [sget, h3]

omit [DecidableEq α] in
theorem sget_filter (d : Sparse α) (k j : Nat) :
    sget dflt (d.filter fun q => q.1 != k) j = if k = j then dflt else sget dflt d j := by
  induction d with
  | nil => simp [sget]
  | cons q l ih =>
    obtain ⟨k', v'⟩ := q
    by_cases h2 : k' = k <;> by_cases h3 : k' = j <;> by_cases h4 : k = j <;> simp_all [sget]

/-- Reading after writing. -/
theorem sget_sput (d : Sparse α) (k j : Nat) (v : α) :
    sget dflt (sput dflt d k v) j = if k = j then v else sget dflt d j := by
  by_cases h : v = dflt
  · rw [sput, if_pos h, sget_filter, h]
  · rw [sput, if_neg h, sget_sins]

@[simp] theorem sget_sput_self (d : Sparse α) (k : Nat) (v : α) : sget dflt (sput dflt d k v) k = v := by
  simp [sget_sput]

theorem sget_sput_other (d : Sparse α) {k j : Nat} (v : α) (h : k ≠ j) :
    sget dflt (sput dflt d k v) j = sget dflt d j := by simp [sget_sput, h]

theorem swfFrom_mono (d : Sparse α) {lo lo' : Nat} (h : lo' ≤ lo) (w : swfFrom dflt lo d = true) :
    swfFrom dflt lo' d = true := by
  cases d with
  | nil => rfl
  | cons q l => simp only [swfFrom, Bool.and_eq_true, decide_eq_true_eq] at w ⊢; exact ⟨⟨by omega, w.1.2⟩, w.2⟩

theorem swfFrom_filter (p : Nat × α → Bool) (d : Sparse α) (lo : Nat) (w : swfFrom dflt lo d = true) :
    swfFrom dflt lo (d.filter p) = true := by
  induction d generalizing lo with
  | nil => rfl
  | cons q l ih =>
    simp only [swfFrom, Bool.and_eq_true, decide_eq_true_eq] at w
    by_cases hp : p q = true
    · simp only [List.filter_cons, hp, if_true, swfFrom, Bool.and_eq_true, decide_eq_true_eq]
      exact ⟨w.1, ih _ w.2⟩
    · simp only [List.filter_cons, hp]
      exact swfFrom_mono dflt _ (by omega) (ih _ w.2)

theorem swfFrom_sins (d : Sparse α) {lo k : Nat} {v : α} (hk : lo ≤ k) (hv : v ≠ dflt)
    (w : swfFrom dflt lo d = true) : swfFrom dflt lo (sins d k v) = true := by
  induction d generalizing lo with
  | nil => simp [sins, swfFrom, hk, hv]
  | cons q l ih =>
    simp only [swfFrom, Bool.and_eq_true, decide_eq_true_eq] at w
    obtain ⟨⟨h1, h2⟩, h3⟩ := w
    unfold sins
    split
    · simp only [swfFrom, Bool.and_eq_true, decide_eq_true_eq]
      exact ⟨⟨h1, h2⟩, ih (by omega) h3⟩
    · split
      · subst_vars; simp only [swfFrom, Bool.and_eq_true, decide_eq_true_eq]; exact ⟨⟨hk, hv⟩, h3⟩
      · simp only [swfFrom, Bool.and_eq_true, decide_eq_true_eq]
        exact ⟨⟨hk, hv⟩, ⟨by omega, h2⟩, h3⟩

/-- A write keeps the canonical form. -/
theorem swf_sput (d : Sparse α) (k : Nat) (v : α) (w : swf dflt d = true) : swf dflt (sput dflt d k v) = true := by
  unfold sput
  split
  · exact swfFrom_filter _ _ _ _ w
  · exact swfFrom_sins _ _ (Nat.zero_le _) ‹_› w

theorem swf_smod (d : Sparse α) (k : Nat) (f : α → α) (w : swf dflt d = true) :
    swf dflt (smod dflt d k f) = true := swf_sput _ _ _ _ w

theorem swf_filter (p : Nat × α → Bool) (d : Sparse α) (w : swf dflt d = true) : swf dflt (d.filter p) = true :=
  swfFrom_filter _ _ _ _ w

end Sys2Proof
end

