-- ==== Sys2Proof/Laws/State.lean ====
section
/-!
SUPPORT. One lemma per field per update of the state and of a team, true by unfolding, so that no proof unfolds a record
update; and what a record that was written reads as.
-/

namespace Sys2Proof.Machine

open Sys2Proof

/-! ## `State.setTeam` -/

@[simp] theorem State.setTeam_wgs (s : State) (core slot : Nat) (t : Team) : (s.setTeam core slot t).wgs = s.wgs := rfl
@[simp] theorem State.setTeam_cores (s : State) (core slot : Nat) (t : Team) : (s.setTeam core slot t).cores = s.cores := rfl
@[simp] theorem State.setTeam_clusters (s : State) (core slot : Nat) (t : Team) : (s.setTeam core slot t).clusters = s.clusters := rfl
@[simp] theorem State.setTeam_quads (s : State) (core slot : Nat) (t : Team) : (s.setTeam core slot t).quads = s.quads := rfl
@[simp] theorem State.setTeam_dies (s : State) (core slot : Nat) (t : Team) : (s.setTeam core slot t).dies = s.dies := rfl
@[simp] theorem State.setTeam_vis (s : State) (core slot : Nat) (t : Team) : (s.setTeam core slot t).vis = s.vis := rfl
@[simp] theorem State.setTeam_mem (s : State) (core slot : Nat) (t : Team) : (s.setTeam core slot t).mem = s.mem := rfl
@[simp] theorem State.setTeam_memPoison (s : State) (core slot : Nat) (t : Team) : (s.setTeam core slot t).memPoison = s.memPoison := rfl
@[simp] theorem State.setTeam_time3 (s : State) (core slot : Nat) (t : Team) : (s.setTeam core slot t).time3 = s.time3 := rfl
@[simp] theorem State.setTeam_pwrlim (s : State) (core slot : Nat) (t : Team) : (s.setTeam core slot t).pwrlim = s.pwrlim := rfl
@[simp] theorem State.setTeam_tlim0 (s : State) (core slot : Nat) (t : Team) : (s.setTeam core slot t).tlim0 = s.tlim0 := rfl
@[simp] theorem State.setTeam_tlim1 (s : State) (core slot : Nat) (t : Team) : (s.setTeam core slot t).tlim1 = s.tlim1 := rfl
@[simp] theorem State.setTeam_tlim2 (s : State) (core slot : Nat) (t : Team) : (s.setTeam core slot t).tlim2 = s.tlim2 := rfl
@[simp] theorem State.setTeam_meas (s : State) (core slot : Nat) (t : Team) : (s.setTeam core slot t).meas = s.meas := rfl
@[simp] theorem State.setTeam_measNext (s : State) (core slot : Nat) (t : Team) : (s.setTeam core slot t).measNext = s.measNext := rfl
@[simp] theorem State.setTeam_measSteps (s : State) (core slot : Nat) (t : Team) : (s.setTeam core slot t).measSteps = s.measSteps := rfl
@[simp] theorem State.setTeam_attnonce (s : State) (core slot : Nat) (t : Team) : (s.setTeam core slot t).attnonce = s.attnonce := rfl
@[simp] theorem State.setTeam_attdst (s : State) (core slot : Nat) (t : Team) : (s.setTeam core slot t).attdst = s.attdst := rfl
@[simp] theorem State.setTeam_attgo (s : State) (core slot : Nat) (t : Team) : (s.setTeam core slot t).attgo = s.attgo := rfl
@[simp] theorem State.setTeam_dumpHeld (s : State) (core slot : Nat) (t : Team) : (s.setTeam core slot t).dumpHeld = s.dumpHeld := rfl
@[simp] theorem State.setTeam_powered (s : State) (core slot : Nat) (t : Team) : (s.setTeam core slot t).powered = s.powered := rfl
@[simp] theorem State.setTeam_links (s : State) (core slot : Nat) (t : Team) : (s.setTeam core slot t).links = s.links := rfl
@[simp] theorem State.setTeam_ports (s : State) (core slot : Nat) (t : Team) : (s.setTeam core slot t).ports = s.ports := rfl
@[simp] theorem State.setTeam_portDown (s : State) (core slot : Nat) (t : Team) : (s.setTeam core slot t).portDown = s.portDown := rfl
@[simp] theorem State.setTeam_route (s : State) (core slot : Nat) (t : Team) : (s.setTeam core slot t).route = s.route := rfl
@[simp] theorem State.setTeam_lost (s : State) (core slot : Nat) (t : Team) : (s.setTeam core slot t).lost = s.lost := rfl
@[simp] theorem State.setTeam_peerGroup (s : State) (core slot : Nat) (t : Team) : (s.setTeam core slot t).peerGroup = s.peerGroup := rfl
@[simp] theorem State.setTeam_ptp (s : State) (core slot : Nat) (t : Team) : (s.setTeam core slot t).ptp = s.ptp := rfl
@[simp] theorem State.setTeam_irqs (s : State) (core slot : Nat) (t : Team) : (s.setTeam core slot t).irqs = s.irqs := rfl
@[simp] theorem State.setTeam_ends (s : State) (core slot : Nat) (t : Team) : (s.setTeam core slot t).ends = s.ends := rfl
@[simp] theorem State.setTeam_saves (s : State) (core slot : Nat) (t : Team) : (s.setTeam core slot t).saves = s.saves := rfl
@[simp] theorem State.setTeam_agenda (s : State) (core slot : Nat) (t : Team) : (s.setTeam core slot t).agenda = s.agenda := rfl
@[simp] theorem State.setTeam_cyc (s : State) (core slot : Nat) (t : Team) : (s.setTeam core slot t).cyc = s.cyc := rfl
@[simp] theorem State.setTeam_cur (s : State) (core slot : Nat) (t : Team) : (s.setTeam core slot t).cur = s.cur := rfl
@[simp] theorem State.setTeam_fresh (s : State) (core slot : Nat) (t : Team) : (s.setTeam core slot t).fresh = s.fresh := rfl

/-! ## `State.setWg` -/

@[simp] theorem State.setWg_teams (s : State) (core w : Nat) (g : Wg) : (s.setWg core w g).teams = s.teams := rfl
@[simp] theorem State.setWg_cores (s : State) (core w : Nat) (g : Wg) : (s.setWg core w g).cores = s.cores := rfl
@[simp] theorem State.setWg_clusters (s : State) (core w : Nat) (g : Wg) : (s.setWg core w g).clusters = s.clusters := rfl
@[simp] theorem State.setWg_quads (s : State) (core w : Nat) (g : Wg) : (s.setWg core w g).quads = s.quads := rfl
@[simp] theorem State.setWg_dies (s : State) (core w : Nat) (g : Wg) : (s.setWg core w g).dies = s.dies := rfl
@[simp] theorem State.setWg_vis (s : State) (core w : Nat) (g : Wg) : (s.setWg core w g).vis = s.vis := rfl
@[simp] theorem State.setWg_mem (s : State) (core w : Nat) (g : Wg) : (s.setWg core w g).mem = s.mem := rfl
@[simp] theorem State.setWg_memPoison (s : State) (core w : Nat) (g : Wg) : (s.setWg core w g).memPoison = s.memPoison := rfl
@[simp] theorem State.setWg_time3 (s : State) (core w : Nat) (g : Wg) : (s.setWg core w g).time3 = s.time3 := rfl
@[simp] theorem State.setWg_pwrlim (s : State) (core w : Nat) (g : Wg) : (s.setWg core w g).pwrlim = s.pwrlim := rfl
@[simp] theorem State.setWg_tlim0 (s : State) (core w : Nat) (g : Wg) : (s.setWg core w g).tlim0 = s.tlim0 := rfl
@[simp] theorem State.setWg_tlim1 (s : State) (core w : Nat) (g : Wg) : (s.setWg core w g).tlim1 = s.tlim1 := rfl
@[simp] theorem State.setWg_tlim2 (s : State) (core w : Nat) (g : Wg) : (s.setWg core w g).tlim2 = s.tlim2 := rfl
@[simp] theorem State.setWg_meas (s : State) (core w : Nat) (g : Wg) : (s.setWg core w g).meas = s.meas := rfl
@[simp] theorem State.setWg_measNext (s : State) (core w : Nat) (g : Wg) : (s.setWg core w g).measNext = s.measNext := rfl
@[simp] theorem State.setWg_measSteps (s : State) (core w : Nat) (g : Wg) : (s.setWg core w g).measSteps = s.measSteps := rfl
@[simp] theorem State.setWg_attnonce (s : State) (core w : Nat) (g : Wg) : (s.setWg core w g).attnonce = s.attnonce := rfl
@[simp] theorem State.setWg_attdst (s : State) (core w : Nat) (g : Wg) : (s.setWg core w g).attdst = s.attdst := rfl
@[simp] theorem State.setWg_attgo (s : State) (core w : Nat) (g : Wg) : (s.setWg core w g).attgo = s.attgo := rfl
@[simp] theorem State.setWg_dumpHeld (s : State) (core w : Nat) (g : Wg) : (s.setWg core w g).dumpHeld = s.dumpHeld := rfl
@[simp] theorem State.setWg_powered (s : State) (core w : Nat) (g : Wg) : (s.setWg core w g).powered = s.powered := rfl
@[simp] theorem State.setWg_links (s : State) (core w : Nat) (g : Wg) : (s.setWg core w g).links = s.links := rfl
@[simp] theorem State.setWg_ports (s : State) (core w : Nat) (g : Wg) : (s.setWg core w g).ports = s.ports := rfl
@[simp] theorem State.setWg_portDown (s : State) (core w : Nat) (g : Wg) : (s.setWg core w g).portDown = s.portDown := rfl
@[simp] theorem State.setWg_route (s : State) (core w : Nat) (g : Wg) : (s.setWg core w g).route = s.route := rfl
@[simp] theorem State.setWg_lost (s : State) (core w : Nat) (g : Wg) : (s.setWg core w g).lost = s.lost := rfl
@[simp] theorem State.setWg_peerGroup (s : State) (core w : Nat) (g : Wg) : (s.setWg core w g).peerGroup = s.peerGroup := rfl
@[simp] theorem State.setWg_ptp (s : State) (core w : Nat) (g : Wg) : (s.setWg core w g).ptp = s.ptp := rfl
@[simp] theorem State.setWg_irqs (s : State) (core w : Nat) (g : Wg) : (s.setWg core w g).irqs = s.irqs := rfl
@[simp] theorem State.setWg_ends (s : State) (core w : Nat) (g : Wg) : (s.setWg core w g).ends = s.ends := rfl
@[simp] theorem State.setWg_saves (s : State) (core w : Nat) (g : Wg) : (s.setWg core w g).saves = s.saves := rfl
@[simp] theorem State.setWg_agenda (s : State) (core w : Nat) (g : Wg) : (s.setWg core w g).agenda = s.agenda := rfl
@[simp] theorem State.setWg_cyc (s : State) (core w : Nat) (g : Wg) : (s.setWg core w g).cyc = s.cyc := rfl
@[simp] theorem State.setWg_cur (s : State) (core w : Nat) (g : Wg) : (s.setWg core w g).cur = s.cur := rfl
@[simp] theorem State.setWg_fresh (s : State) (core w : Nat) (g : Wg) : (s.setWg core w g).fresh = s.fresh := rfl

/-! ## `State.setCore` -/

@[simp] theorem State.setCore_teams (s : State) (c : Nat) (x : CoreSt) : (s.setCore c x).teams = s.teams := rfl
@[simp] theorem State.setCore_wgs (s : State) (c : Nat) (x : CoreSt) : (s.setCore c x).wgs = s.wgs := rfl
@[simp] theorem State.setCore_clusters (s : State) (c : Nat) (x : CoreSt) : (s.setCore c x).clusters = s.clusters := rfl
@[simp] theorem State.setCore_quads (s : State) (c : Nat) (x : CoreSt) : (s.setCore c x).quads = s.quads := rfl
@[simp] theorem State.setCore_dies (s : State) (c : Nat) (x : CoreSt) : (s.setCore c x).dies = s.dies := rfl
@[simp] theorem State.setCore_vis (s : State) (c : Nat) (x : CoreSt) : (s.setCore c x).vis = s.vis := rfl
@[simp] theorem State.setCore_mem (s : State) (c : Nat) (x : CoreSt) : (s.setCore c x).mem = s.mem := rfl
@[simp] theorem State.setCore_memPoison (s : State) (c : Nat) (x : CoreSt) : (s.setCore c x).memPoison = s.memPoison := rfl
@[simp] theorem State.setCore_time3 (s : State) (c : Nat) (x : CoreSt) : (s.setCore c x).time3 = s.time3 := rfl
@[simp] theorem State.setCore_pwrlim (s : State) (c : Nat) (x : CoreSt) : (s.setCore c x).pwrlim = s.pwrlim := rfl
@[simp] theorem State.setCore_tlim0 (s : State) (c : Nat) (x : CoreSt) : (s.setCore c x).tlim0 = s.tlim0 := rfl
@[simp] theorem State.setCore_tlim1 (s : State) (c : Nat) (x : CoreSt) : (s.setCore c x).tlim1 = s.tlim1 := rfl
@[simp] theorem State.setCore_tlim2 (s : State) (c : Nat) (x : CoreSt) : (s.setCore c x).tlim2 = s.tlim2 := rfl
@[simp] theorem State.setCore_meas (s : State) (c : Nat) (x : CoreSt) : (s.setCore c x).meas = s.meas := rfl
@[simp] theorem State.setCore_measNext (s : State) (c : Nat) (x : CoreSt) : (s.setCore c x).measNext = s.measNext := rfl
@[simp] theorem State.setCore_measSteps (s : State) (c : Nat) (x : CoreSt) : (s.setCore c x).measSteps = s.measSteps := rfl
@[simp] theorem State.setCore_attnonce (s : State) (c : Nat) (x : CoreSt) : (s.setCore c x).attnonce = s.attnonce := rfl
@[simp] theorem State.setCore_attdst (s : State) (c : Nat) (x : CoreSt) : (s.setCore c x).attdst = s.attdst := rfl
@[simp] theorem State.setCore_attgo (s : State) (c : Nat) (x : CoreSt) : (s.setCore c x).attgo = s.attgo := rfl
@[simp] theorem State.setCore_dumpHeld (s : State) (c : Nat) (x : CoreSt) : (s.setCore c x).dumpHeld = s.dumpHeld := rfl
@[simp] theorem State.setCore_powered (s : State) (c : Nat) (x : CoreSt) : (s.setCore c x).powered = s.powered := rfl
@[simp] theorem State.setCore_links (s : State) (c : Nat) (x : CoreSt) : (s.setCore c x).links = s.links := rfl
@[simp] theorem State.setCore_ports (s : State) (c : Nat) (x : CoreSt) : (s.setCore c x).ports = s.ports := rfl
@[simp] theorem State.setCore_portDown (s : State) (c : Nat) (x : CoreSt) : (s.setCore c x).portDown = s.portDown := rfl
@[simp] theorem State.setCore_route (s : State) (c : Nat) (x : CoreSt) : (s.setCore c x).route = s.route := rfl
@[simp] theorem State.setCore_lost (s : State) (c : Nat) (x : CoreSt) : (s.setCore c x).lost = s.lost := rfl
@[simp] theorem State.setCore_peerGroup (s : State) (c : Nat) (x : CoreSt) : (s.setCore c x).peerGroup = s.peerGroup := rfl
@[simp] theorem State.setCore_ptp (s : State) (c : Nat) (x : CoreSt) : (s.setCore c x).ptp = s.ptp := rfl
@[simp] theorem State.setCore_irqs (s : State) (c : Nat) (x : CoreSt) : (s.setCore c x).irqs = s.irqs := rfl
@[simp] theorem State.setCore_ends (s : State) (c : Nat) (x : CoreSt) : (s.setCore c x).ends = s.ends := rfl
@[simp] theorem State.setCore_saves (s : State) (c : Nat) (x : CoreSt) : (s.setCore c x).saves = s.saves := rfl
@[simp] theorem State.setCore_agenda (s : State) (c : Nat) (x : CoreSt) : (s.setCore c x).agenda = s.agenda := rfl
@[simp] theorem State.setCore_cyc (s : State) (c : Nat) (x : CoreSt) : (s.setCore c x).cyc = s.cyc := rfl
@[simp] theorem State.setCore_cur (s : State) (c : Nat) (x : CoreSt) : (s.setCore c x).cur = s.cur := rfl
@[simp] theorem State.setCore_fresh (s : State) (c : Nat) (x : CoreSt) : (s.setCore c x).fresh = s.fresh := rfl

/-! ## `State.setCluster` -/

@[simp] theorem State.setCluster_teams (s : State) (c : Nat) (x : Cluster) : (s.setCluster c x).teams = s.teams := rfl
@[simp] theorem State.setCluster_wgs (s : State) (c : Nat) (x : Cluster) : (s.setCluster c x).wgs = s.wgs := rfl
@[simp] theorem State.setCluster_cores (s : State) (c : Nat) (x : Cluster) : (s.setCluster c x).cores = s.cores := rfl
@[simp] theorem State.setCluster_quads (s : State) (c : Nat) (x : Cluster) : (s.setCluster c x).quads = s.quads := rfl
@[simp] theorem State.setCluster_dies (s : State) (c : Nat) (x : Cluster) : (s.setCluster c x).dies = s.dies := rfl
@[simp] theorem State.setCluster_vis (s : State) (c : Nat) (x : Cluster) : (s.setCluster c x).vis = s.vis := rfl
@[simp] theorem State.setCluster_mem (s : State) (c : Nat) (x : Cluster) : (s.setCluster c x).mem = s.mem := rfl
@[simp] theorem State.setCluster_memPoison (s : State) (c : Nat) (x : Cluster) : (s.setCluster c x).memPoison = s.memPoison := rfl
@[simp] theorem State.setCluster_time3 (s : State) (c : Nat) (x : Cluster) : (s.setCluster c x).time3 = s.time3 := rfl
@[simp] theorem State.setCluster_pwrlim (s : State) (c : Nat) (x : Cluster) : (s.setCluster c x).pwrlim = s.pwrlim := rfl
@[simp] theorem State.setCluster_tlim0 (s : State) (c : Nat) (x : Cluster) : (s.setCluster c x).tlim0 = s.tlim0 := rfl
@[simp] theorem State.setCluster_tlim1 (s : State) (c : Nat) (x : Cluster) : (s.setCluster c x).tlim1 = s.tlim1 := rfl
@[simp] theorem State.setCluster_tlim2 (s : State) (c : Nat) (x : Cluster) : (s.setCluster c x).tlim2 = s.tlim2 := rfl
@[simp] theorem State.setCluster_meas (s : State) (c : Nat) (x : Cluster) : (s.setCluster c x).meas = s.meas := rfl
@[simp] theorem State.setCluster_measNext (s : State) (c : Nat) (x : Cluster) : (s.setCluster c x).measNext = s.measNext := rfl
@[simp] theorem State.setCluster_measSteps (s : State) (c : Nat) (x : Cluster) : (s.setCluster c x).measSteps = s.measSteps := rfl
@[simp] theorem State.setCluster_attnonce (s : State) (c : Nat) (x : Cluster) : (s.setCluster c x).attnonce = s.attnonce := rfl
@[simp] theorem State.setCluster_attdst (s : State) (c : Nat) (x : Cluster) : (s.setCluster c x).attdst = s.attdst := rfl
@[simp] theorem State.setCluster_attgo (s : State) (c : Nat) (x : Cluster) : (s.setCluster c x).attgo = s.attgo := rfl
@[simp] theorem State.setCluster_dumpHeld (s : State) (c : Nat) (x : Cluster) : (s.setCluster c x).dumpHeld = s.dumpHeld := rfl
@[simp] theorem State.setCluster_powered (s : State) (c : Nat) (x : Cluster) : (s.setCluster c x).powered = s.powered := rfl
@[simp] theorem State.setCluster_links (s : State) (c : Nat) (x : Cluster) : (s.setCluster c x).links = s.links := rfl
@[simp] theorem State.setCluster_ports (s : State) (c : Nat) (x : Cluster) : (s.setCluster c x).ports = s.ports := rfl
@[simp] theorem State.setCluster_portDown (s : State) (c : Nat) (x : Cluster) : (s.setCluster c x).portDown = s.portDown := rfl
@[simp] theorem State.setCluster_route (s : State) (c : Nat) (x : Cluster) : (s.setCluster c x).route = s.route := rfl
@[simp] theorem State.setCluster_lost (s : State) (c : Nat) (x : Cluster) : (s.setCluster c x).lost = s.lost := rfl
@[simp] theorem State.setCluster_peerGroup (s : State) (c : Nat) (x : Cluster) : (s.setCluster c x).peerGroup = s.peerGroup := rfl
@[simp] theorem State.setCluster_ptp (s : State) (c : Nat) (x : Cluster) : (s.setCluster c x).ptp = s.ptp := rfl
@[simp] theorem State.setCluster_irqs (s : State) (c : Nat) (x : Cluster) : (s.setCluster c x).irqs = s.irqs := rfl
@[simp] theorem State.setCluster_ends (s : State) (c : Nat) (x : Cluster) : (s.setCluster c x).ends = s.ends := rfl
@[simp] theorem State.setCluster_saves (s : State) (c : Nat) (x : Cluster) : (s.setCluster c x).saves = s.saves := rfl
@[simp] theorem State.setCluster_agenda (s : State) (c : Nat) (x : Cluster) : (s.setCluster c x).agenda = s.agenda := rfl
@[simp] theorem State.setCluster_cyc (s : State) (c : Nat) (x : Cluster) : (s.setCluster c x).cyc = s.cyc := rfl
@[simp] theorem State.setCluster_cur (s : State) (c : Nat) (x : Cluster) : (s.setCluster c x).cur = s.cur := rfl
@[simp] theorem State.setCluster_fresh (s : State) (c : Nat) (x : Cluster) : (s.setCluster c x).fresh = s.fresh := rfl

/-! ## `State.setQuad` -/

@[simp] theorem State.setQuad_teams (s : State) (q : Nat) (x : Quad) : (s.setQuad q x).teams = s.teams := rfl
@[simp] theorem State.setQuad_wgs (s : State) (q : Nat) (x : Quad) : (s.setQuad q x).wgs = s.wgs := rfl
@[simp] theorem State.setQuad_cores (s : State) (q : Nat) (x : Quad) : (s.setQuad q x).cores = s.cores := rfl
@[simp] theorem State.setQuad_clusters (s : State) (q : Nat) (x : Quad) : (s.setQuad q x).clusters = s.clusters := rfl
@[simp] theorem State.setQuad_dies (s : State) (q : Nat) (x : Quad) : (s.setQuad q x).dies = s.dies := rfl
@[simp] theorem State.setQuad_vis (s : State) (q : Nat) (x : Quad) : (s.setQuad q x).vis = s.vis := rfl
@[simp] theorem State.setQuad_mem (s : State) (q : Nat) (x : Quad) : (s.setQuad q x).mem = s.mem := rfl
@[simp] theorem State.setQuad_memPoison (s : State) (q : Nat) (x : Quad) : (s.setQuad q x).memPoison = s.memPoison := rfl
@[simp] theorem State.setQuad_time3 (s : State) (q : Nat) (x : Quad) : (s.setQuad q x).time3 = s.time3 := rfl
@[simp] theorem State.setQuad_pwrlim (s : State) (q : Nat) (x : Quad) : (s.setQuad q x).pwrlim = s.pwrlim := rfl
@[simp] theorem State.setQuad_tlim0 (s : State) (q : Nat) (x : Quad) : (s.setQuad q x).tlim0 = s.tlim0 := rfl
@[simp] theorem State.setQuad_tlim1 (s : State) (q : Nat) (x : Quad) : (s.setQuad q x).tlim1 = s.tlim1 := rfl
@[simp] theorem State.setQuad_tlim2 (s : State) (q : Nat) (x : Quad) : (s.setQuad q x).tlim2 = s.tlim2 := rfl
@[simp] theorem State.setQuad_meas (s : State) (q : Nat) (x : Quad) : (s.setQuad q x).meas = s.meas := rfl
@[simp] theorem State.setQuad_measNext (s : State) (q : Nat) (x : Quad) : (s.setQuad q x).measNext = s.measNext := rfl
@[simp] theorem State.setQuad_measSteps (s : State) (q : Nat) (x : Quad) : (s.setQuad q x).measSteps = s.measSteps := rfl
@[simp] theorem State.setQuad_attnonce (s : State) (q : Nat) (x : Quad) : (s.setQuad q x).attnonce = s.attnonce := rfl
@[simp] theorem State.setQuad_attdst (s : State) (q : Nat) (x : Quad) : (s.setQuad q x).attdst = s.attdst := rfl
@[simp] theorem State.setQuad_attgo (s : State) (q : Nat) (x : Quad) : (s.setQuad q x).attgo = s.attgo := rfl
@[simp] theorem State.setQuad_dumpHeld (s : State) (q : Nat) (x : Quad) : (s.setQuad q x).dumpHeld = s.dumpHeld := rfl
@[simp] theorem State.setQuad_powered (s : State) (q : Nat) (x : Quad) : (s.setQuad q x).powered = s.powered := rfl
@[simp] theorem State.setQuad_links (s : State) (q : Nat) (x : Quad) : (s.setQuad q x).links = s.links := rfl
@[simp] theorem State.setQuad_ports (s : State) (q : Nat) (x : Quad) : (s.setQuad q x).ports = s.ports := rfl
@[simp] theorem State.setQuad_portDown (s : State) (q : Nat) (x : Quad) : (s.setQuad q x).portDown = s.portDown := rfl
@[simp] theorem State.setQuad_route (s : State) (q : Nat) (x : Quad) : (s.setQuad q x).route = s.route := rfl
@[simp] theorem State.setQuad_lost (s : State) (q : Nat) (x : Quad) : (s.setQuad q x).lost = s.lost := rfl
@[simp] theorem State.setQuad_peerGroup (s : State) (q : Nat) (x : Quad) : (s.setQuad q x).peerGroup = s.peerGroup := rfl
@[simp] theorem State.setQuad_ptp (s : State) (q : Nat) (x : Quad) : (s.setQuad q x).ptp = s.ptp := rfl
@[simp] theorem State.setQuad_irqs (s : State) (q : Nat) (x : Quad) : (s.setQuad q x).irqs = s.irqs := rfl
@[simp] theorem State.setQuad_ends (s : State) (q : Nat) (x : Quad) : (s.setQuad q x).ends = s.ends := rfl
@[simp] theorem State.setQuad_saves (s : State) (q : Nat) (x : Quad) : (s.setQuad q x).saves = s.saves := rfl
@[simp] theorem State.setQuad_agenda (s : State) (q : Nat) (x : Quad) : (s.setQuad q x).agenda = s.agenda := rfl
@[simp] theorem State.setQuad_cyc (s : State) (q : Nat) (x : Quad) : (s.setQuad q x).cyc = s.cyc := rfl
@[simp] theorem State.setQuad_cur (s : State) (q : Nat) (x : Quad) : (s.setQuad q x).cur = s.cur := rfl
@[simp] theorem State.setQuad_fresh (s : State) (q : Nat) (x : Quad) : (s.setQuad q x).fresh = s.fresh := rfl

/-! ## `State.setDie` -/

@[simp] theorem State.setDie_teams (s : State) (d : Nat) (x : Die) : (s.setDie d x).teams = s.teams := rfl
@[simp] theorem State.setDie_wgs (s : State) (d : Nat) (x : Die) : (s.setDie d x).wgs = s.wgs := rfl
@[simp] theorem State.setDie_cores (s : State) (d : Nat) (x : Die) : (s.setDie d x).cores = s.cores := rfl
@[simp] theorem State.setDie_clusters (s : State) (d : Nat) (x : Die) : (s.setDie d x).clusters = s.clusters := rfl
@[simp] theorem State.setDie_quads (s : State) (d : Nat) (x : Die) : (s.setDie d x).quads = s.quads := rfl
@[simp] theorem State.setDie_vis (s : State) (d : Nat) (x : Die) : (s.setDie d x).vis = s.vis := rfl
@[simp] theorem State.setDie_mem (s : State) (d : Nat) (x : Die) : (s.setDie d x).mem = s.mem := rfl
@[simp] theorem State.setDie_memPoison (s : State) (d : Nat) (x : Die) : (s.setDie d x).memPoison = s.memPoison := rfl
@[simp] theorem State.setDie_time3 (s : State) (d : Nat) (x : Die) : (s.setDie d x).time3 = s.time3 := rfl
@[simp] theorem State.setDie_pwrlim (s : State) (d : Nat) (x : Die) : (s.setDie d x).pwrlim = s.pwrlim := rfl
@[simp] theorem State.setDie_tlim0 (s : State) (d : Nat) (x : Die) : (s.setDie d x).tlim0 = s.tlim0 := rfl
@[simp] theorem State.setDie_tlim1 (s : State) (d : Nat) (x : Die) : (s.setDie d x).tlim1 = s.tlim1 := rfl
@[simp] theorem State.setDie_tlim2 (s : State) (d : Nat) (x : Die) : (s.setDie d x).tlim2 = s.tlim2 := rfl
@[simp] theorem State.setDie_meas (s : State) (d : Nat) (x : Die) : (s.setDie d x).meas = s.meas := rfl
@[simp] theorem State.setDie_measNext (s : State) (d : Nat) (x : Die) : (s.setDie d x).measNext = s.measNext := rfl
@[simp] theorem State.setDie_measSteps (s : State) (d : Nat) (x : Die) : (s.setDie d x).measSteps = s.measSteps := rfl
@[simp] theorem State.setDie_attnonce (s : State) (d : Nat) (x : Die) : (s.setDie d x).attnonce = s.attnonce := rfl
@[simp] theorem State.setDie_attdst (s : State) (d : Nat) (x : Die) : (s.setDie d x).attdst = s.attdst := rfl
@[simp] theorem State.setDie_attgo (s : State) (d : Nat) (x : Die) : (s.setDie d x).attgo = s.attgo := rfl
@[simp] theorem State.setDie_dumpHeld (s : State) (d : Nat) (x : Die) : (s.setDie d x).dumpHeld = s.dumpHeld := rfl
@[simp] theorem State.setDie_powered (s : State) (d : Nat) (x : Die) : (s.setDie d x).powered = s.powered := rfl
@[simp] theorem State.setDie_links (s : State) (d : Nat) (x : Die) : (s.setDie d x).links = s.links := rfl
@[simp] theorem State.setDie_ports (s : State) (d : Nat) (x : Die) : (s.setDie d x).ports = s.ports := rfl
@[simp] theorem State.setDie_portDown (s : State) (d : Nat) (x : Die) : (s.setDie d x).portDown = s.portDown := rfl
@[simp] theorem State.setDie_route (s : State) (d : Nat) (x : Die) : (s.setDie d x).route = s.route := rfl
@[simp] theorem State.setDie_lost (s : State) (d : Nat) (x : Die) : (s.setDie d x).lost = s.lost := rfl
@[simp] theorem State.setDie_peerGroup (s : State) (d : Nat) (x : Die) : (s.setDie d x).peerGroup = s.peerGroup := rfl
@[simp] theorem State.setDie_ptp (s : State) (d : Nat) (x : Die) : (s.setDie d x).ptp = s.ptp := rfl
@[simp] theorem State.setDie_irqs (s : State) (d : Nat) (x : Die) : (s.setDie d x).irqs = s.irqs := rfl
@[simp] theorem State.setDie_ends (s : State) (d : Nat) (x : Die) : (s.setDie d x).ends = s.ends := rfl
@[simp] theorem State.setDie_saves (s : State) (d : Nat) (x : Die) : (s.setDie d x).saves = s.saves := rfl
@[simp] theorem State.setDie_agenda (s : State) (d : Nat) (x : Die) : (s.setDie d x).agenda = s.agenda := rfl
@[simp] theorem State.setDie_cyc (s : State) (d : Nat) (x : Die) : (s.setDie d x).cyc = s.cyc := rfl
@[simp] theorem State.setDie_cur (s : State) (d : Nat) (x : Die) : (s.setDie d x).cur = s.cur := rfl
@[simp] theorem State.setDie_fresh (s : State) (d : Nat) (x : Die) : (s.setDie d x).fresh = s.fresh := rfl

/-! ## `State.setVi` -/

@[simp] theorem State.setVi_teams (s : State) (v : Nat) (x : Vi) : (s.setVi v x).teams = s.teams := rfl
@[simp] theorem State.setVi_wgs (s : State) (v : Nat) (x : Vi) : (s.setVi v x).wgs = s.wgs := rfl
@[simp] theorem State.setVi_cores (s : State) (v : Nat) (x : Vi) : (s.setVi v x).cores = s.cores := rfl
@[simp] theorem State.setVi_clusters (s : State) (v : Nat) (x : Vi) : (s.setVi v x).clusters = s.clusters := rfl
@[simp] theorem State.setVi_quads (s : State) (v : Nat) (x : Vi) : (s.setVi v x).quads = s.quads := rfl
@[simp] theorem State.setVi_dies (s : State) (v : Nat) (x : Vi) : (s.setVi v x).dies = s.dies := rfl
@[simp] theorem State.setVi_mem (s : State) (v : Nat) (x : Vi) : (s.setVi v x).mem = s.mem := rfl
@[simp] theorem State.setVi_memPoison (s : State) (v : Nat) (x : Vi) : (s.setVi v x).memPoison = s.memPoison := rfl
@[simp] theorem State.setVi_time3 (s : State) (v : Nat) (x : Vi) : (s.setVi v x).time3 = s.time3 := rfl
@[simp] theorem State.setVi_pwrlim (s : State) (v : Nat) (x : Vi) : (s.setVi v x).pwrlim = s.pwrlim := rfl
@[simp] theorem State.setVi_tlim0 (s : State) (v : Nat) (x : Vi) : (s.setVi v x).tlim0 = s.tlim0 := rfl
@[simp] theorem State.setVi_tlim1 (s : State) (v : Nat) (x : Vi) : (s.setVi v x).tlim1 = s.tlim1 := rfl
@[simp] theorem State.setVi_tlim2 (s : State) (v : Nat) (x : Vi) : (s.setVi v x).tlim2 = s.tlim2 := rfl
@[simp] theorem State.setVi_meas (s : State) (v : Nat) (x : Vi) : (s.setVi v x).meas = s.meas := rfl
@[simp] theorem State.setVi_measNext (s : State) (v : Nat) (x : Vi) : (s.setVi v x).measNext = s.measNext := rfl
@[simp] theorem State.setVi_measSteps (s : State) (v : Nat) (x : Vi) : (s.setVi v x).measSteps = s.measSteps := rfl
@[simp] theorem State.setVi_attnonce (s : State) (v : Nat) (x : Vi) : (s.setVi v x).attnonce = s.attnonce := rfl
@[simp] theorem State.setVi_attdst (s : State) (v : Nat) (x : Vi) : (s.setVi v x).attdst = s.attdst := rfl
@[simp] theorem State.setVi_attgo (s : State) (v : Nat) (x : Vi) : (s.setVi v x).attgo = s.attgo := rfl
@[simp] theorem State.setVi_dumpHeld (s : State) (v : Nat) (x : Vi) : (s.setVi v x).dumpHeld = s.dumpHeld := rfl
@[simp] theorem State.setVi_powered (s : State) (v : Nat) (x : Vi) : (s.setVi v x).powered = s.powered := rfl
@[simp] theorem State.setVi_links (s : State) (v : Nat) (x : Vi) : (s.setVi v x).links = s.links := rfl
@[simp] theorem State.setVi_ports (s : State) (v : Nat) (x : Vi) : (s.setVi v x).ports = s.ports := rfl
@[simp] theorem State.setVi_portDown (s : State) (v : Nat) (x : Vi) : (s.setVi v x).portDown = s.portDown := rfl
@[simp] theorem State.setVi_route (s : State) (v : Nat) (x : Vi) : (s.setVi v x).route = s.route := rfl
@[simp] theorem State.setVi_lost (s : State) (v : Nat) (x : Vi) : (s.setVi v x).lost = s.lost := rfl
@[simp] theorem State.setVi_peerGroup (s : State) (v : Nat) (x : Vi) : (s.setVi v x).peerGroup = s.peerGroup := rfl
@[simp] theorem State.setVi_ptp (s : State) (v : Nat) (x : Vi) : (s.setVi v x).ptp = s.ptp := rfl
@[simp] theorem State.setVi_irqs (s : State) (v : Nat) (x : Vi) : (s.setVi v x).irqs = s.irqs := rfl
@[simp] theorem State.setVi_ends (s : State) (v : Nat) (x : Vi) : (s.setVi v x).ends = s.ends := rfl
@[simp] theorem State.setVi_saves (s : State) (v : Nat) (x : Vi) : (s.setVi v x).saves = s.saves := rfl
@[simp] theorem State.setVi_agenda (s : State) (v : Nat) (x : Vi) : (s.setVi v x).agenda = s.agenda := rfl
@[simp] theorem State.setVi_cyc (s : State) (v : Nat) (x : Vi) : (s.setVi v x).cyc = s.cyc := rfl
@[simp] theorem State.setVi_cur (s : State) (v : Nat) (x : Vi) : (s.setVi v x).cur = s.cur := rfl
@[simp] theorem State.setVi_fresh (s : State) (v : Nat) (x : Vi) : (s.setVi v x).fresh = s.fresh := rfl

/-! ## `Team.setPath` -/

@[simp] theorem Team.setPath_life (t : Team) (p : Nat) (x : Path) : (t.setPath p x).life = t.life := rfl
@[simp] theorem Team.setPath_w (t : Team) (p : Nat) (x : Path) : (t.setPath p x).w = t.w := rfl
@[simp] theorem Team.setPath_index (t : Team) (p : Nat) (x : Path) : (t.setPath p x).index = t.index := rfl
@[simp] theorem Team.setPath_shadow (t : Team) (p : Nat) (x : Path) : (t.setPath p x).shadow = t.shadow := rfl
@[simp] theorem Team.setPath_partner (t : Team) (p : Nat) (x : Path) : (t.setPath p x).partner = t.partner := rfl
@[simp] theorem Team.setPath_width (t : Team) (p : Nat) (x : Path) : (t.setPath p x).width = t.width := rfl
@[simp] theorem Team.setPath_admitNo (t : Team) (p : Nat) (x : Path) : (t.setPath p x).admitNo = t.admitNo := rfl
@[simp] theorem Team.setPath_vcount (t : Team) (p : Nat) (x : Path) : (t.setPath p x).vcount = t.vcount := rfl
@[simp] theorem Team.setPath_scount (t : Team) (p : Nat) (x : Path) : (t.setPath p x).scount = t.scount := rfl
@[simp] theorem Team.setPath_member (t : Team) (p : Nat) (x : Path) : (t.setPath p x).member = t.member := rfl
@[simp] theorem Team.setPath_vregs (t : Team) (p : Nat) (x : Path) : (t.setPath p x).vregs = t.vregs := rfl
@[simp] theorem Team.setPath_vpoison (t : Team) (p : Nat) (x : Path) : (t.setPath p x).vpoison = t.vpoison := rfl
@[simp] theorem Team.setPath_preds (t : Team) (p : Nat) (x : Path) : (t.setPath p x).preds = t.preds := rfl
@[simp] theorem Team.setPath_ff (t : Team) (p : Nat) (x : Path) : (t.setPath p x).ff = t.ff := rfl
@[simp] theorem Team.setPath_rst (t : Team) (p : Nat) (x : Path) : (t.setPath p x).rst = t.rst := rfl
@[simp] theorem Team.setPath_sregs (t : Team) (p : Nat) (x : Path) : (t.setPath p x).sregs = t.sregs := rfl
@[simp] theorem Team.setPath_spoison (t : Team) (p : Nat) (x : Path) : (t.setPath p x).spoison = t.spoison := rfl
@[simp] theorem Team.setPath_gregs (t : Team) (p : Nat) (x : Path) : (t.setPath p x).gregs = t.gregs := rfl
@[simp] theorem Team.setPath_la (t : Team) (p : Nat) (x : Path) : (t.setPath p x).la = t.la := rfl
@[simp] theorem Team.setPath_fb (t : Team) (p : Nat) (x : Path) : (t.setPath p x).fb = t.fb := rfl
@[simp] theorem Team.setPath_xt (t : Team) (p : Nat) (x : Path) : (t.setPath p x).xt = t.xt := rfl
@[simp] theorem Team.setPath_tf (t : Team) (p : Nat) (x : Path) : (t.setPath p x).tf = t.tf := rfl
@[simp] theorem Team.setPath_fmode (t : Team) (p : Nat) (x : Path) : (t.setPath p x).fmode = t.fmode := rfl
@[simp] theorem Team.setPath_amax (t : Team) (p : Nat) (x : Path) : (t.setPath p x).amax = t.amax := rfl
@[simp] theorem Team.setPath_sthr (t : Team) (p : Nat) (x : Path) : (t.setPath p x).sthr = t.sthr := rfl
@[simp] theorem Team.setPath_sdrop (t : Team) (p : Nat) (x : Path) : (t.setPath p x).sdrop = t.sdrop := rfl
@[simp] theorem Team.setPath_scnt (t : Team) (p : Nat) (x : Path) : (t.setPath p x).scnt = t.scnt := rfl
@[simp] theorem Team.setPath_inst (t : Team) (p : Nat) (x : Path) : (t.setPath p x).inst = t.inst := rfl
@[simp] theorem Team.setPath_entries (t : Team) (p : Nat) (x : Path) : (t.setPath p x).entries = t.entries := rfl
@[simp] theorem Team.setPath_stall (t : Team) (p : Nat) (x : Path) : (t.setPath p x).stall = t.stall := rfl
@[simp] theorem Team.setPath_issued (t : Team) (p : Nat) (x : Path) : (t.setPath p x).issued = t.issued := rfl
@[simp] theorem Team.setPath_passes (t : Team) (p : Nat) (x : Path) : (t.setPath p x).passes = t.passes := rfl
@[simp] theorem Team.setPath_recent (t : Team) (p : Nat) (x : Path) : (t.setPath p x).recent = t.recent := rfl
@[simp] theorem Team.setPath_window (t : Team) (p : Nat) (x : Path) : (t.setPath p x).window = t.window := rfl
@[simp] theorem Team.setPath_privBase (t : Team) (p : Nat) (x : Path) : (t.setPath p x).privBase = t.privBase := rfl
@[simp] theorem Team.setPath_privMark (t : Team) (p : Nat) (x : Path) : (t.setPath p x).privMark = t.privMark := rfl
@[simp] theorem Team.setPath_ownIds (t : Team) (p : Nat) (x : Path) : (t.setPath p x).ownIds = t.ownIds := rfl
@[simp] theorem Team.setPath_inhIds (t : Team) (p : Nat) (x : Path) : (t.setPath p x).inhIds = t.inhIds := rfl
@[simp] theorem Team.setPath_squashed (t : Team) (p : Nat) (x : Path) : (t.setPath p x).squashed = t.squashed := rfl
@[simp] theorem Team.setPath_flushing (t : Team) (p : Nat) (x : Path) : (t.setPath p x).flushing = t.flushing := rfl
@[simp] theorem Team.setPath_batches (t : Team) (p : Nat) (x : Path) : (t.setPath p x).batches = t.batches := rfl
@[simp] theorem Team.setPath_nextBatch (t : Team) (p : Nat) (x : Path) : (t.setPath p x).nextBatch = t.nextBatch := rfl
@[simp] theorem Team.setPath_ended (t : Team) (p : Nat) (x : Path) : (t.setPath p x).ended = t.ended := rfl

/-! ## `Team.sputr` -/

@[simp] theorem Team.sputr_life (t : Team) (r : Nat) (v : Word) : (t.sputr r v).life = t.life := rfl
@[simp] theorem Team.sputr_w (t : Team) (r : Nat) (v : Word) : (t.sputr r v).w = t.w := rfl
@[simp] theorem Team.sputr_index (t : Team) (r : Nat) (v : Word) : (t.sputr r v).index = t.index := rfl
@[simp] theorem Team.sputr_shadow (t : Team) (r : Nat) (v : Word) : (t.sputr r v).shadow = t.shadow := rfl
@[simp] theorem Team.sputr_partner (t : Team) (r : Nat) (v : Word) : (t.sputr r v).partner = t.partner := rfl
@[simp] theorem Team.sputr_width (t : Team) (r : Nat) (v : Word) : (t.sputr r v).width = t.width := rfl
@[simp] theorem Team.sputr_admitNo (t : Team) (r : Nat) (v : Word) : (t.sputr r v).admitNo = t.admitNo := rfl
@[simp] theorem Team.sputr_vcount (t : Team) (r : Nat) (v : Word) : (t.sputr r v).vcount = t.vcount := rfl
@[simp] theorem Team.sputr_scount (t : Team) (r : Nat) (v : Word) : (t.sputr r v).scount = t.scount := rfl
@[simp] theorem Team.sputr_member (t : Team) (r : Nat) (v : Word) : (t.sputr r v).member = t.member := rfl
@[simp] theorem Team.sputr_paths (t : Team) (r : Nat) (v : Word) : (t.sputr r v).paths = t.paths := rfl
@[simp] theorem Team.sputr_vregs (t : Team) (r : Nat) (v : Word) : (t.sputr r v).vregs = t.vregs := rfl
@[simp] theorem Team.sputr_vpoison (t : Team) (r : Nat) (v : Word) : (t.sputr r v).vpoison = t.vpoison := rfl
@[simp] theorem Team.sputr_preds (t : Team) (r : Nat) (v : Word) : (t.sputr r v).preds = t.preds := rfl
@[simp] theorem Team.sputr_ff (t : Team) (r : Nat) (v : Word) : (t.sputr r v).ff = t.ff := rfl
@[simp] theorem Team.sputr_rst (t : Team) (r : Nat) (v : Word) : (t.sputr r v).rst = t.rst := rfl
@[simp] theorem Team.sputr_gregs (t : Team) (r : Nat) (v : Word) : (t.sputr r v).gregs = t.gregs := rfl
@[simp] theorem Team.sputr_la (t : Team) (r : Nat) (v : Word) : (t.sputr r v).la = t.la := rfl
@[simp] theorem Team.sputr_fb (t : Team) (r : Nat) (v : Word) : (t.sputr r v).fb = t.fb := rfl
@[simp] theorem Team.sputr_xt (t : Team) (r : Nat) (v : Word) : (t.sputr r v).xt = t.xt := rfl
@[simp] theorem Team.sputr_tf (t : Team) (r : Nat) (v : Word) : (t.sputr r v).tf = t.tf := rfl
@[simp] theorem Team.sputr_fmode (t : Team) (r : Nat) (v : Word) : (t.sputr r v).fmode = t.fmode := rfl
@[simp] theorem Team.sputr_amax (t : Team) (r : Nat) (v : Word) : (t.sputr r v).amax = t.amax := rfl
@[simp] theorem Team.sputr_sthr (t : Team) (r : Nat) (v : Word) : (t.sputr r v).sthr = t.sthr := rfl
@[simp] theorem Team.sputr_sdrop (t : Team) (r : Nat) (v : Word) : (t.sputr r v).sdrop = t.sdrop := rfl
@[simp] theorem Team.sputr_scnt (t : Team) (r : Nat) (v : Word) : (t.sputr r v).scnt = t.scnt := rfl
@[simp] theorem Team.sputr_inst (t : Team) (r : Nat) (v : Word) : (t.sputr r v).inst = t.inst := rfl
@[simp] theorem Team.sputr_entries (t : Team) (r : Nat) (v : Word) : (t.sputr r v).entries = t.entries := rfl
@[simp] theorem Team.sputr_stall (t : Team) (r : Nat) (v : Word) : (t.sputr r v).stall = t.stall := rfl
@[simp] theorem Team.sputr_issued (t : Team) (r : Nat) (v : Word) : (t.sputr r v).issued = t.issued := rfl
@[simp] theorem Team.sputr_passes (t : Team) (r : Nat) (v : Word) : (t.sputr r v).passes = t.passes := rfl
@[simp] theorem Team.sputr_recent (t : Team) (r : Nat) (v : Word) : (t.sputr r v).recent = t.recent := rfl
@[simp] theorem Team.sputr_window (t : Team) (r : Nat) (v : Word) : (t.sputr r v).window = t.window := rfl
@[simp] theorem Team.sputr_privBase (t : Team) (r : Nat) (v : Word) : (t.sputr r v).privBase = t.privBase := rfl
@[simp] theorem Team.sputr_privMark (t : Team) (r : Nat) (v : Word) : (t.sputr r v).privMark = t.privMark := rfl
@[simp] theorem Team.sputr_ownIds (t : Team) (r : Nat) (v : Word) : (t.sputr r v).ownIds = t.ownIds := rfl
@[simp] theorem Team.sputr_inhIds (t : Team) (r : Nat) (v : Word) : (t.sputr r v).inhIds = t.inhIds := rfl
@[simp] theorem Team.sputr_squashed (t : Team) (r : Nat) (v : Word) : (t.sputr r v).squashed = t.squashed := rfl
@[simp] theorem Team.sputr_flushing (t : Team) (r : Nat) (v : Word) : (t.sputr r v).flushing = t.flushing := rfl
@[simp] theorem Team.sputr_batches (t : Team) (r : Nat) (v : Word) : (t.sputr r v).batches = t.batches := rfl
@[simp] theorem Team.sputr_nextBatch (t : Team) (r : Nat) (v : Word) : (t.sputr r v).nextBatch = t.nextBatch := rfl
@[simp] theorem Team.sputr_ended (t : Team) (r : Nat) (v : Word) : (t.sputr r v).ended = t.ended := rfl

/-! ## `Team.vput` -/

@[simp] theorem Team.vput_life (t : Team) (r l : Nat) (v : Word) : (t.vput r l v).life = t.life := rfl
@[simp] theorem Team.vput_w (t : Team) (r l : Nat) (v : Word) : (t.vput r l v).w = t.w := rfl
@[simp] theorem Team.vput_index (t : Team) (r l : Nat) (v : Word) : (t.vput r l v).index = t.index := rfl
@[simp] theorem Team.vput_shadow (t : Team) (r l : Nat) (v : Word) : (t.vput r l v).shadow = t.shadow := rfl
@[simp] theorem Team.vput_partner (t : Team) (r l : Nat) (v : Word) : (t.vput r l v).partner = t.partner := rfl
@[simp] theorem Team.vput_width (t : Team) (r l : Nat) (v : Word) : (t.vput r l v).width = t.width := rfl
@[simp] theorem Team.vput_admitNo (t : Team) (r l : Nat) (v : Word) : (t.vput r l v).admitNo = t.admitNo := rfl
@[simp] theorem Team.vput_vcount (t : Team) (r l : Nat) (v : Word) : (t.vput r l v).vcount = t.vcount := rfl
@[simp] theorem Team.vput_scount (t : Team) (r l : Nat) (v : Word) : (t.vput r l v).scount = t.scount := rfl
@[simp] theorem Team.vput_member (t : Team) (r l : Nat) (v : Word) : (t.vput r l v).member = t.member := rfl
@[simp] theorem Team.vput_paths (t : Team) (r l : Nat) (v : Word) : (t.vput r l v).paths = t.paths := rfl
@[simp] theorem Team.vput_preds (t : Team) (r l : Nat) (v : Word) : (t.vput r l v).preds = t.preds := rfl
@[simp] theorem Team.vput_ff (t : Team) (r l : Nat) (v : Word) : (t.vput r l v).ff = t.ff := rfl
@[simp] theorem Team.vput_rst (t : Team) (r l : Nat) (v : Word) : (t.vput r l v).rst = t.rst := rfl
@[simp] theorem Team.vput_sregs (t : Team) (r l : Nat) (v : Word) : (t.vput r l v).sregs = t.sregs := rfl
@[simp] theorem Team.vput_spoison (t : Team) (r l : Nat) (v : Word) : (t.vput r l v).spoison = t.spoison := rfl
@[simp] theorem Team.vput_gregs (t : Team) (r l : Nat) (v : Word) : (t.vput r l v).gregs = t.gregs := rfl
@[simp] theorem Team.vput_la (t : Team) (r l : Nat) (v : Word) : (t.vput r l v).la = t.la := rfl
@[simp] theorem Team.vput_fb (t : Team) (r l : Nat) (v : Word) : (t.vput r l v).fb = t.fb := rfl
@[simp] theorem Team.vput_xt (t : Team) (r l : Nat) (v : Word) : (t.vput r l v).xt = t.xt := rfl
@[simp] theorem Team.vput_tf (t : Team) (r l : Nat) (v : Word) : (t.vput r l v).tf = t.tf := rfl
@[simp] theorem Team.vput_fmode (t : Team) (r l : Nat) (v : Word) : (t.vput r l v).fmode = t.fmode := rfl
@[simp] theorem Team.vput_amax (t : Team) (r l : Nat) (v : Word) : (t.vput r l v).amax = t.amax := rfl
@[simp] theorem Team.vput_sthr (t : Team) (r l : Nat) (v : Word) : (t.vput r l v).sthr = t.sthr := rfl
@[simp] theorem Team.vput_sdrop (t : Team) (r l : Nat) (v : Word) : (t.vput r l v).sdrop = t.sdrop := rfl
@[simp] theorem Team.vput_scnt (t : Team) (r l : Nat) (v : Word) : (t.vput r l v).scnt = t.scnt := rfl
@[simp] theorem Team.vput_inst (t : Team) (r l : Nat) (v : Word) : (t.vput r l v).inst = t.inst := rfl
@[simp] theorem Team.vput_entries (t : Team) (r l : Nat) (v : Word) : (t.vput r l v).entries = t.entries := rfl
@[simp] theorem Team.vput_stall (t : Team) (r l : Nat) (v : Word) : (t.vput r l v).stall = t.stall := rfl
@[simp] theorem Team.vput_issued (t : Team) (r l : Nat) (v : Word) : (t.vput r l v).issued = t.issued := rfl
@[simp] theorem Team.vput_passes (t : Team) (r l : Nat) (v : Word) : (t.vput r l v).passes = t.passes := rfl
@[simp] theorem Team.vput_recent (t : Team) (r l : Nat) (v : Word) : (t.vput r l v).recent = t.recent := rfl
@[simp] theorem Team.vput_window (t : Team) (r l : Nat) (v : Word) : (t.vput r l v).window = t.window := rfl
@[simp] theorem Team.vput_privBase (t : Team) (r l : Nat) (v : Word) : (t.vput r l v).privBase = t.privBase := rfl
@[simp] theorem Team.vput_privMark (t : Team) (r l : Nat) (v : Word) : (t.vput r l v).privMark = t.privMark := rfl
@[simp] theorem Team.vput_ownIds (t : Team) (r l : Nat) (v : Word) : (t.vput r l v).ownIds = t.ownIds := rfl
@[simp] theorem Team.vput_inhIds (t : Team) (r l : Nat) (v : Word) : (t.vput r l v).inhIds = t.inhIds := rfl
@[simp] theorem Team.vput_squashed (t : Team) (r l : Nat) (v : Word) : (t.vput r l v).squashed = t.squashed := rfl
@[simp] theorem Team.vput_flushing (t : Team) (r l : Nat) (v : Word) : (t.vput r l v).flushing = t.flushing := rfl
@[simp] theorem Team.vput_batches (t : Team) (r l : Nat) (v : Word) : (t.vput r l v).batches = t.batches := rfl
@[simp] theorem Team.vput_nextBatch (t : Team) (r l : Nat) (v : Word) : (t.vput r l v).nextBatch = t.nextBatch := rfl
@[simp] theorem Team.vput_ended (t : Team) (r l : Nat) (v : Word) : (t.vput r l v).ended = t.ended := rfl

/-! ## `Team.gput` -/

@[simp] theorem Team.gput_life (t : Team) (n : Nat) (b : Bool) : (t.gput n b).life = t.life := rfl
@[simp] theorem Team.gput_w (t : Team) (n : Nat) (b : Bool) : (t.gput n b).w = t.w := rfl
@[simp] theorem Team.gput_index (t : Team) (n : Nat) (b : Bool) : (t.gput n b).index = t.index := rfl
@[simp] theorem Team.gput_shadow (t : Team) (n : Nat) (b : Bool) : (t.gput n b).shadow = t.shadow := rfl
@[simp] theorem Team.gput_partner (t : Team) (n : Nat) (b : Bool) : (t.gput n b).partner = t.partner := rfl
@[simp] theorem Team.gput_width (t : Team) (n : Nat) (b : Bool) : (t.gput n b).width = t.width := rfl
@[simp] theorem Team.gput_admitNo (t : Team) (n : Nat) (b : Bool) : (t.gput n b).admitNo = t.admitNo := rfl
@[simp] theorem Team.gput_vcount (t : Team) (n : Nat) (b : Bool) : (t.gput n b).vcount = t.vcount := rfl
@[simp] theorem Team.gput_scount (t : Team) (n : Nat) (b : Bool) : (t.gput n b).scount = t.scount := rfl
@[simp] theorem Team.gput_member (t : Team) (n : Nat) (b : Bool) : (t.gput n b).member = t.member := rfl
@[simp] theorem Team.gput_paths (t : Team) (n : Nat) (b : Bool) : (t.gput n b).paths = t.paths := rfl
@[simp] theorem Team.gput_vregs (t : Team) (n : Nat) (b : Bool) : (t.gput n b).vregs = t.vregs := rfl
@[simp] theorem Team.gput_vpoison (t : Team) (n : Nat) (b : Bool) : (t.gput n b).vpoison = t.vpoison := rfl
@[simp] theorem Team.gput_preds (t : Team) (n : Nat) (b : Bool) : (t.gput n b).preds = t.preds := rfl
@[simp] theorem Team.gput_ff (t : Team) (n : Nat) (b : Bool) : (t.gput n b).ff = t.ff := rfl
@[simp] theorem Team.gput_rst (t : Team) (n : Nat) (b : Bool) : (t.gput n b).rst = t.rst := rfl
@[simp] theorem Team.gput_sregs (t : Team) (n : Nat) (b : Bool) : (t.gput n b).sregs = t.sregs := rfl
@[simp] theorem Team.gput_spoison (t : Team) (n : Nat) (b : Bool) : (t.gput n b).spoison = t.spoison := rfl
@[simp] theorem Team.gput_la (t : Team) (n : Nat) (b : Bool) : (t.gput n b).la = t.la := rfl
@[simp] theorem Team.gput_fb (t : Team) (n : Nat) (b : Bool) : (t.gput n b).fb = t.fb := rfl
@[simp] theorem Team.gput_xt (t : Team) (n : Nat) (b : Bool) : (t.gput n b).xt = t.xt := rfl
@[simp] theorem Team.gput_tf (t : Team) (n : Nat) (b : Bool) : (t.gput n b).tf = t.tf := rfl
@[simp] theorem Team.gput_fmode (t : Team) (n : Nat) (b : Bool) : (t.gput n b).fmode = t.fmode := rfl
@[simp] theorem Team.gput_amax (t : Team) (n : Nat) (b : Bool) : (t.gput n b).amax = t.amax := rfl
@[simp] theorem Team.gput_sthr (t : Team) (n : Nat) (b : Bool) : (t.gput n b).sthr = t.sthr := rfl
@[simp] theorem Team.gput_sdrop (t : Team) (n : Nat) (b : Bool) : (t.gput n b).sdrop = t.sdrop := rfl
@[simp] theorem Team.gput_scnt (t : Team) (n : Nat) (b : Bool) : (t.gput n b).scnt = t.scnt := rfl
@[simp] theorem Team.gput_inst (t : Team) (n : Nat) (b : Bool) : (t.gput n b).inst = t.inst := rfl
@[simp] theorem Team.gput_entries (t : Team) (n : Nat) (b : Bool) : (t.gput n b).entries = t.entries := rfl
@[simp] theorem Team.gput_stall (t : Team) (n : Nat) (b : Bool) : (t.gput n b).stall = t.stall := rfl
@[simp] theorem Team.gput_issued (t : Team) (n : Nat) (b : Bool) : (t.gput n b).issued = t.issued := rfl
@[simp] theorem Team.gput_passes (t : Team) (n : Nat) (b : Bool) : (t.gput n b).passes = t.passes := rfl
@[simp] theorem Team.gput_recent (t : Team) (n : Nat) (b : Bool) : (t.gput n b).recent = t.recent := rfl
@[simp] theorem Team.gput_window (t : Team) (n : Nat) (b : Bool) : (t.gput n b).window = t.window := rfl
@[simp] theorem Team.gput_privBase (t : Team) (n : Nat) (b : Bool) : (t.gput n b).privBase = t.privBase := rfl
@[simp] theorem Team.gput_privMark (t : Team) (n : Nat) (b : Bool) : (t.gput n b).privMark = t.privMark := rfl
@[simp] theorem Team.gput_ownIds (t : Team) (n : Nat) (b : Bool) : (t.gput n b).ownIds = t.ownIds := rfl
@[simp] theorem Team.gput_inhIds (t : Team) (n : Nat) (b : Bool) : (t.gput n b).inhIds = t.inhIds := rfl
@[simp] theorem Team.gput_squashed (t : Team) (n : Nat) (b : Bool) : (t.gput n b).squashed = t.squashed := rfl
@[simp] theorem Team.gput_flushing (t : Team) (n : Nat) (b : Bool) : (t.gput n b).flushing = t.flushing := rfl
@[simp] theorem Team.gput_batches (t : Team) (n : Nat) (b : Bool) : (t.gput n b).batches = t.batches := rfl
@[simp] theorem Team.gput_nextBatch (t : Team) (n : Nat) (b : Bool) : (t.gput n b).nextBatch = t.nextBatch := rfl
@[simp] theorem Team.gput_ended (t : Team) (n : Nat) (b : Bool) : (t.gput n b).ended = t.ended := rfl

end Sys2Proof.Machine
end

