-- ==== Sys2Proof/Laws/Memory.lean ====
section
/-!
SUPPORT. Memory: reading after writing bytes, what a write of bytes leaves unchanged, and that every operation over memory keeps
its canonical form.
-/

namespace Sys2Proof.Machine

open Sys2Proof

/-! ## The canonical form -/

theorem Memory.wf_nil : Memory.wf [] = true := rfl

theorem Memory.wf_reset : Memory.wf State.reset.mem = true := rfl

theorem Memory.wf_filter (p : Host.Cell → Bool) (m : List Host.Cell) (w : Memory.wf m = true) : Memory.wf (m.filter p) = true :=
  swf_filter 0 p m w

theorem Memory.wf_memPuts (m : List Host.Cell) (k : Nat) (bs : List Byte) (w : Memory.wf m = true) :
    Memory.wf (memPuts m k bs) = true := by
  induction bs generalizing m k with
  | nil => exact w
  | cons b l ih => exact ih _ _ (swf_sput 0 m k b w)

/-! ## Bytes written and read -/

/-- A byte after a write of bytes at k. -/
theorem sget_memPuts (m : List Host.Cell) (k a : Nat) (bs : List Byte) :
    sget 0 (memPuts m k bs) a = if k ≤ a ∧ a < k + bs.length then bs.getD (a - k) 0 else sget 0 m a := by
  induction bs generalizing m k with
  | nil => rw [memPuts, if_neg]; simp
  | cons b l ih =>
    rw [memPuts, ih, sget_sput]
    by_cases h1 : k = a
    · subst h1; rw [if_neg (by omega)]; simp
    · by_cases h2 : k + 1 ≤ a ∧ a < k + 1 + l.length
      · have h3 : a - k = (a - (k + 1)) + 1 := by omega
        rw [if_pos h2, if_pos ⟨by omega, by simp only [List.length_cons]; omega⟩, h3]
        simp
      · rw [if_neg h2, if_neg h1, if_neg]
        simp only [List.length_cons]
        omega

/-- What every step of a fold keeps, the fold keeps. -/
theorem foldl_keeps {α β γ : Type} (f : α → β → α) (g : α → γ) (h : ∀ a b, g (f a b) = g a) (l : List β) (a : α) :
    g (l.foldl f a) = g a := by
  induction l generalizing a with
  | nil => rfl
  | cons b l ih => rw [List.foldl_cons, ih, h]

/-- A predicate that every step of a fold keeps holds after the fold. -/
theorem foldl_holds {α β : Type} (f : α → β → α) (P : α → Prop) (h : ∀ a b, P a → P (f a b)) (l : List β) (a : α) (ha : P a) :
    P (l.foldl f a) := by
  induction l generalizing a with
  | nil => exact ha
  | cons b l ih => exact ih _ (h _ _ ha)

/-- A write of memory changes workgroup contexts only, of everything that is not memory. -/
theorem State.clearWatch_eq (s : State) (k n : Nat) : s.clearWatch k n = { s with wgs := (s.clearWatch k n).wgs } := by
  unfold State.clearWatch
  refine foldl_holds _ (fun t : State => t = { s with wgs := t.wgs }) (fun t q h => ?_) _ _ rfl
  refine foldl_holds _ (fun t : State => t = { s with wgs := t.wgs }) (fun u x h => ?_) _ _ h
  split
  · rw [h]
  · exact h

@[simp] theorem State.clearWatch_mem (s : State) (k n : Nat) : (s.clearWatch k n).mem = s.mem := by
  rw [State.clearWatch_eq]

/-- A write of bytes changes memory, its poison, and ZF of tiles. -/
theorem State.mput_eq (s : State) (k : Nat) (bs : List Byte) :
    s.mput k bs = { s with mem := memPuts s.mem k bs, memPoison := (s.mput k bs).memPoison, wgs := (s.mput k bs).wgs } := by
  unfold State.mput
  rw [State.clearWatch_eq]

@[simp] theorem State.mput_mem (s : State) (k : Nat) (bs : List Byte) : (s.mput k bs).mem = memPuts s.mem k bs := by
  rw [State.mput_eq]
@[simp] theorem State.mput_teams (s : State) (k : Nat) (bs : List Byte) : (s.mput k bs).teams = s.teams := by rw [State.mput_eq]
@[simp] theorem State.mput_cores (s : State) (k : Nat) (bs : List Byte) : (s.mput k bs).cores = s.cores := by rw [State.mput_eq]
@[simp] theorem State.mput_clusters (s : State) (k : Nat) (bs : List Byte) : (s.mput k bs).clusters = s.clusters := by
  rw [State.mput_eq]
@[simp] theorem State.mput_dies (s : State) (k : Nat) (bs : List Byte) : (s.mput k bs).dies = s.dies := by rw [State.mput_eq]
@[simp] theorem State.mput_vis (s : State) (k : Nat) (bs : List Byte) : (s.mput k bs).vis = s.vis := by rw [State.mput_eq]
@[simp] theorem State.mput_cur (s : State) (k : Nat) (bs : List Byte) : (s.mput k bs).cur = s.cur := by rw [State.mput_eq]
@[simp] theorem State.mput_time3 (s : State) (k : Nat) (bs : List Byte) : (s.mput k bs).time3 = s.time3 := by rw [State.mput_eq]
@[simp] theorem State.mput_fresh (s : State) (k : Nat) (bs : List Byte) : (s.mput k bs).fresh = s.fresh := by rw [State.mput_eq]

@[simp] theorem State.team_mput (s : State) (k c n : Nat) (bs : List Byte) : (s.mput k bs).team c n = s.team c n := by
  rw [State.team, State.mput_teams, State.team]
@[simp] theorem State.core_mput (s : State) (k c : Nat) (bs : List Byte) : (s.mput k bs).core c = s.core c := by
  rw [State.core, State.mput_cores, State.core]
@[simp] theorem State.vi_mput (s : State) (k c : Nat) (bs : List Byte) : (s.mput k bs).vi c = s.vi c := by
  rw [State.vi, State.mput_vis, State.vi]
@[simp] theorem State.die_mput (s : State) (k c : Nat) (bs : List Byte) : (s.mput k bs).die c = s.die c := by
  rw [State.die, State.mput_dies, State.die]

/-- A byte after a write of bytes. -/
theorem State.mget_mput (s : State) (k a : Nat) (bs : List Byte) :
    (s.mput k bs).mget a = if k ≤ a ∧ a < k + bs.length then bs.getD (a - k) 0 else s.mget a := by
  rw [State.mget, State.mput_mem, sget_memPuts, State.mget]

/-- Bytes outside a write are as before. -/
theorem State.mget_mput_outside (s : State) {k a : Nat} (bs : List Byte) (h : a < k ∨ k + bs.length ≤ a) :
    (s.mput k bs).mget a = s.mget a := by
  rw [State.mget_mput, if_neg (by omega)]

/-! ## Every operation over memory keeps the form -/

theorem State.wf_mput (s : State) (k : Nat) (bs : List Byte) (w : Memory.wf s.mem = true) : Memory.wf (s.mput k bs).mem = true := by
  rw [State.mput_mem]; exact Memory.wf_memPuts _ _ _ w

@[simp] theorem State.modCore_mem (s : State) (c : Nat) (f : CoreSt → CoreSt) : (s.modCore c f).mem = s.mem := rfl

/-- Posting bytes changes no memory. -/
@[simp] theorem State.post_mem (s : State) (core slot : Nat) (paths : List Nat) (k : Nat) (bs : List Byte) :
    (s.post core slot paths k bs).mem = s.mem := rfl

theorem State.wf_performPosted (s : State) (core : Nat) (mine : Posted → Bool) (k n : Nat) (w : Memory.wf s.mem = true) :
    Memory.wf (s.performPosted core mine k n).mem = true := by
  unfold State.performPosted
  dsimp only
  split
  · exact w
  · exact foldl_holds (fun (s : State) (q : Posted) => s.mput q.key q.bytes) (fun t : State => Memory.wf t.mem = true)
      (fun t q h => t.wf_mput q.key _ h) _ _ w

theorem State.wf_writeBack (s : State) (core : Nat) (ks : List Nat) (w : Memory.wf s.mem = true) :
    Memory.wf (s.writeBack core ks).mem = true := by
  unfold State.writeBack
  exact foldl_holds (fun (t : State) (k : Nat) =>
      (t.performPosted core (fun q => q.slot == linkSlot) k 1).mput k [sget 0 (s.core core).l1.data k])
    (fun t : State => Memory.wf t.mem = true) (fun t k h => State.wf_mput _ k _ (t.wf_performPosted core _ k 1 h)) _ s w

/-- Bytes sent toward the host links change no memory yet. -/
@[simp] theorem State.sendKeys_mem (s : State) (core : Nat) (ks : List Nat) : (s.sendKeys core ks).mem = s.mem := by
  unfold State.sendKeys
  exact foldl_keeps (fun (t : State) (q : Nat × Nat) =>
    t.post core linkSlot [] q.1 ((List.range q.2).map fun i => sget 0 (s.core core).l1.data (q.1 + i))) State.mem
    (fun _ _ => rfl) _ s

theorem State.wf_writeOut (s : State) (core : Nat) (ks : List Nat) (w : Memory.wf s.mem = true) :
    Memory.wf (s.writeOut core ks).mem = true := by
  unfold State.writeOut
  split
  · rw [State.sendKeys_mem]; exact w
  · exact s.wf_writeBack core ks w

theorem State.wf_l1Clean (s : State) (core line : Nat) (w : Memory.wf s.mem = true) : Memory.wf (s.l1Clean core line).mem = true :=
  s.wf_writeOut core _ w

/-- A line sent toward the host links changes no memory yet. -/
@[simp] theorem State.l1Send_mem (s : State) (core line : Nat) : (s.l1Send core line).mem = s.mem := s.sendKeys_mem core _

theorem State.wf_l1Release (s : State) (core scope line : Nat) (w : Memory.wf s.mem = true) :
    Memory.wf (s.l1Release core scope line).mem = true := by
  unfold State.l1Release
  dsimp only
  split
  · rw [State.l1Send_mem]; exact w
  · exact s.wf_l1Clean core line w

theorem State.wf_l1Drop (s : State) (core line : Nat) (w : Memory.wf s.mem = true) : Memory.wf (s.l1Drop core line).mem = true :=
  s.wf_l1Clean core line w

theorem State.wf_l1Room (s : State) (core : Nat) (w : Memory.wf s.mem = true) : Memory.wf (s.l1Room core).mem = true := by
  unfold State.l1Room
  dsimp only
  split
  · exact w
  · exact State.wf_l1Drop _ core _ w

theorem State.wf_l1Fill (s : State) (core line : Nat) (w : Memory.wf s.mem = true) : Memory.wf (s.l1Fill core line).mem = true := by
  unfold State.l1Fill
  split
  · exact w
  · exact s.wf_l1Room core w

theorem State.wf_l1CleanAll (s : State) (core : Nat) (w : Memory.wf s.mem = true) : Memory.wf (s.l1CleanAll core).mem = true :=
  foldl_holds _ (fun t : State => Memory.wf t.mem = true) (fun t l h => t.wf_l1Clean core l h) _ s w

theorem State.wf_l1DropAll (s : State) (core : Nat) (w : Memory.wf s.mem = true) : Memory.wf (s.l1DropAll core).mem = true :=
  foldl_holds _ (fun t : State => Memory.wf t.mem = true) (fun t l h => t.wf_l1Drop core l h) _ s w

theorem State.wf_relAct (s : State) (core : Nat) (o : Order) (scope : Nat) (w : Memory.wf s.mem = true) :
    Memory.wf (s.relAct core o scope).mem = true := by
  unfold State.relAct; split
  · exact foldl_holds _ (fun t : State => Memory.wf t.mem = true) (fun t l h => t.wf_l1Release core scope l h) _ s w
  · exact w

theorem State.wf_acqAct (s : State) (core : Nat) (o : Order) (scope : Nat) (w : Memory.wf s.mem = true) :
    Memory.wf (s.acqAct core o scope).mem = true := by
  unfold State.acqAct; split
  · exact s.wf_l1DropAll core w
  · exact w

/-- A store of a path keeps the form, wherever it goes. -/
theorem State.wf_storeAs (s : State) (core slot : Nat) (paths : List Nat) (tgt pa : Nat) (bs : List Byte)
    (w : Memory.wf s.mem = true) : Memory.wf (s.storeAs core slot paths tgt pa bs).mem = true := by
  unfold State.storeAs
  dsimp only
  split
  · exact s.wf_l1Fill core _ w
  · split
    · exact s.wf_mput _ _ w
    · exact w

theorem State.wf_memErase (s : State) (k n : Nat) (w : Memory.wf s.mem = true) : Memory.wf (s.memErase k n).mem = true := by
  rw [State.memErase, State.clearWatch_mem]; exact Memory.wf_filter _ _ w

/-- A copied run keeps the form. -/
theorem State.wf_copyRun (s : State) (src dst n : Nat) (w : Memory.wf s.mem = true) :
    Memory.wf (s.copyRun src dst n).mem = true := by
  unfold State.copyRun
  exact foldl_holds (fun (t : State) (q : Host.Cell) => t.mput (dst + (q.1 - src)) [q.2]) (fun t : State => Memory.wf t.mem = true)
    (fun t q h => t.wf_mput _ _ h) _ _ (s.wf_memErase dst n w)

theorem State.wf_toReset (s : State) (w : Memory.wf s.mem = true) : Memory.wf s.toReset.mem = true := w

end Sys2Proof.Machine
end

