-- ==== Sys2Proof/Laws/Registers.lean ====
section
/-!
SUPPORT. What records and registers read as after a write, and what completing an instruction leaves.
-/

namespace Sys2Proof.Machine

open Sys2Proof

/-! ## Records -/

section records
variable (s : State)

@[simp] theorem State.team_setTeam (c k : Nat) (t : Team) : (s.setTeam c k t).team c k = t := sget_sput_self ..

theorem State.team_setTeam_other {c k c' k' : Nat} (t : Team) (h : teamKey c k ≠ teamKey c' k') :
    (s.setTeam c k t).team c' k' = s.team c' k' := sget_sput_other _ _ _ h

@[simp] theorem State.wg_setWg (c k : Nat) (g : Wg) : (s.setWg c k g).wg c k = g := sget_sput_self ..
@[simp] theorem State.core_setCore (c : Nat) (x : CoreSt) : (s.setCore c x).core c = x := sget_sput_self ..
@[simp] theorem State.cluster_setCluster (c : Nat) (x : Cluster) : (s.setCluster c x).cluster c = x :=
  sget_sput_self ..
@[simp] theorem State.quad_setQuad (c : Nat) (x : Quad) : (s.setQuad c x).quad c = x := sget_sput_self ..
@[simp] theorem State.die_setDie (c : Nat) (x : Die) : (s.setDie c x).die c = x := sget_sput_self ..
@[simp] theorem State.vi_setVi (c : Nat) (x : Vi) : (s.setVi c x).vi c = x := sget_sput_self ..

theorem State.wg_setWg_other {c k c' k' : Nat} (g : Wg) (h : wgKey c k ≠ wgKey c' k') :
    (s.setWg c k g).wg c' k' = s.wg c' k' := sget_sput_other _ _ _ h
theorem State.core_setCore_other {c d : Nat} (x : CoreSt) (h : c ≠ d) : (s.setCore c x).core d = s.core d :=
  sget_sput_other _ _ _ h

@[simp] theorem State.wg_setTeam (c k c' k' : Nat) (t : Team) : (s.setTeam c k t).wg c' k' = s.wg c' k' := rfl
@[simp] theorem State.core_setTeam (c k c' : Nat) (t : Team) : (s.setTeam c k t).core c' = s.core c' := rfl
@[simp] theorem State.die_setTeam (c k c' : Nat) (t : Team) : (s.setTeam c k t).die c' = s.die c' := rfl
@[simp] theorem State.vi_setTeam (c k c' : Nat) (t : Team) : (s.setTeam c k t).vi c' = s.vi c' := rfl
@[simp] theorem State.cluster_setTeam (c k c' : Nat) (t : Team) : (s.setTeam c k t).cluster c' = s.cluster c' := rfl
@[simp] theorem State.mget_setTeam (c k a : Nat) (t : Team) : (s.setTeam c k t).mget a = s.mget a := rfl

@[simp] theorem State.team_setWg (c k c' k' : Nat) (x : Wg) : (s.setWg c k x).team c' k' = s.team c' k' := rfl
@[simp] theorem State.core_setWg (c k c' : Nat) (x : Wg) : (s.setWg c k x).core c' = s.core c' := rfl
@[simp] theorem State.die_setWg (c k c' : Nat) (x : Wg) : (s.setWg c k x).die c' = s.die c' := rfl
@[simp] theorem State.vi_setWg (c k c' : Nat) (x : Wg) : (s.setWg c k x).vi c' = s.vi c' := rfl
@[simp] theorem State.cluster_setWg (c k c' : Nat) (x : Wg) : (s.setWg c k x).cluster c' = s.cluster c' := rfl
@[simp] theorem State.mget_setWg (c k a : Nat) (x : Wg) : (s.setWg c k x).mget a = s.mget a := rfl

@[simp] theorem State.team_setCore (c c' k' : Nat) (x : CoreSt) : (s.setCore c x).team c' k' = s.team c' k' := rfl
@[simp] theorem State.wg_setCore (c c' k' : Nat) (x : CoreSt) : (s.setCore c x).wg c' k' = s.wg c' k' := rfl
@[simp] theorem State.die_setCore (c c' : Nat) (x : CoreSt) : (s.setCore c x).die c' = s.die c' := rfl
@[simp] theorem State.vi_setCore (c c' : Nat) (x : CoreSt) : (s.setCore c x).vi c' = s.vi c' := rfl
@[simp] theorem State.cluster_setCore (c c' : Nat) (x : CoreSt) : (s.setCore c x).cluster c' = s.cluster c' := rfl
@[simp] theorem State.mget_setCore (c a : Nat) (x : CoreSt) : (s.setCore c x).mget a = s.mget a := rfl

@[simp] theorem State.team_setDie (c c' k' : Nat) (x : Die) : (s.setDie c x).team c' k' = s.team c' k' := rfl
@[simp] theorem State.wg_setDie (c c' k' : Nat) (x : Die) : (s.setDie c x).wg c' k' = s.wg c' k' := rfl
@[simp] theorem State.core_setDie (c c' : Nat) (x : Die) : (s.setDie c x).core c' = s.core c' := rfl
@[simp] theorem State.vi_setDie (c c' : Nat) (x : Die) : (s.setDie c x).vi c' = s.vi c' := rfl
@[simp] theorem State.mget_setDie (c a : Nat) (x : Die) : (s.setDie c x).mget a = s.mget a := rfl

@[simp] theorem State.team_setVi (c c' k' : Nat) (x : Vi) : (s.setVi c x).team c' k' = s.team c' k' := rfl
@[simp] theorem State.wg_setVi (c c' k' : Nat) (x : Vi) : (s.setVi c x).wg c' k' = s.wg c' k' := rfl
@[simp] theorem State.core_setVi (c c' : Nat) (x : Vi) : (s.setVi c x).core c' = s.core c' := rfl
@[simp] theorem State.die_setVi (c c' : Nat) (x : Vi) : (s.setVi c x).die c' = s.die c' := rfl
@[simp] theorem State.mget_setVi (c a : Nat) (x : Vi) : (s.setVi c x).mget a = s.mget a := rfl

@[simp] theorem State.team_setCluster (c c' k' : Nat) (x : Cluster) : (s.setCluster c x).team c' k' = s.team c' k' := rfl
@[simp] theorem State.wg_setCluster (c c' k' : Nat) (x : Cluster) : (s.setCluster c x).wg c' k' = s.wg c' k' := rfl
@[simp] theorem State.mget_setCluster (c a : Nat) (x : Cluster) : (s.setCluster c x).mget a = s.mget a := rfl

end records

/-! ## Paths -/

@[simp] theorem Team.path_setPath (t : Team) (p : Nat) (x : Path) : (t.setPath p x).path p = x := sget_sput_self ..

theorem Team.path_setPath_other (t : Team) {p q : Nat} (x : Path) (h : p ≠ q) : (t.setPath p x).path q = t.path q :=
  sget_sput_other _ _ _ h

@[simp] theorem Team.path_sputr (t : Team) (r p : Nat) (v : Word) : (t.sputr r v).path p = t.path p := rfl
@[simp] theorem Team.path_vput (t : Team) (r l p : Nat) (v : Word) : (t.vput r l v).path p = t.path p := rfl
@[simp] theorem Team.path_gput (t : Team) (n p : Nat) (b : Bool) : (t.gput n b).path p = t.path p := rfl

/-! ## Registers -/

@[simp] theorem Team.sgetr_sputr (t : Team) (r : Nat) (v : Word) : (t.sputr r v).sgetr r = v := sget_sput_self ..

theorem Team.sgetr_sputr_other (t : Team) {r q : Nat} (v : Word) (h : r ≠ q) : (t.sputr r v).sgetr q = t.sgetr q :=
  sget_sput_other _ _ _ h

@[simp] theorem Team.gget_gput (t : Team) (n : Nat) (b : Bool) : (t.gput n b).gget n = b := sget_sput_self ..

theorem Team.gget_gput_other (t : Team) {n m : Nat} (b : Bool) (h : n ≠ m) : (t.gput n b).gget m = t.gget m :=
  sget_sput_other _ _ _ h

@[simp] theorem Team.vget_vput (t : Team) (r l : Nat) (v : Word) : (t.vput r l v).vget r l = v := sget_sput_self ..

theorem Team.vget_vput_lane (t : Team) (r : Nat) {l m : Nat} (v : Word) (h : l ≠ m) :
    (t.vput r l v).vget r m = t.vget r m := sget_sput_other _ _ _ (by omega)

/-- A write of distinct lanes by one function gives each lane its value. -/
theorem Team.vget_vputs (f : Nat → Word) (r l : Nat) (e : List Nat) (t : Team) :
    (t.vputs r (e.map fun l => (l, f l))).vget r l = if l ∈ e then f l else t.vget r l := by
  unfold Team.vputs
  induction e generalizing t with
  | nil => simp
  | cons a e ih =>
    simp only [List.map_cons, List.foldl_cons, ih, List.mem_cons]
    by_cases h1 : l ∈ e
    · simp [h1]
    · by_cases h2 : l = a
      · simp [h2]
      · simp [h1, h2, Team.vget_vput_lane t r (f a) (Ne.symm h2)]

/-- Lanes written keep every place outside them. -/
theorem Team.vregs_vputs (r k : Nat) (q : List (Nat × Word)) (t : Team) (h : ∀ p ∈ q, r * 1024 + p.1 ≠ k) :
    sget 0 (t.vputs r q).vregs k = sget 0 t.vregs k := by
  unfold Team.vputs
  induction q generalizing t with
  | nil => rfl
  | cons a q ih =>
    simp only [List.foldl_cons]
    rw [ih _ fun p hp => h p (List.mem_cons_of_mem _ hp)]
    exact sget_sput_other _ _ _ (h a List.mem_cons_self)

theorem Team.ffGet_ffOr (t : Team) (l m : Nat) (f : Flags) :
    (t.ffOr l f).ffGet m = if l = m then t.ffGet m ||| f else t.ffGet m := by
  unfold Team.ffOr Team.ffGet
  split
  · next h => simp [h]
  · simp only [sget_sput]; split <;> simp_all

end Sys2Proof.Machine
end

