-- ==== Sys2Proof/Laws/Ops.lean ====
section
/-!
SUPPORT. What the shared operations of a meaning do, each said once: running on the issuing path, counting, going on, completing,
waiting, taking a trap and returning from one, and taking a free value.
-/

namespace Sys2Proof.Machine

open Sys2Proof

variable (s : State) (r : PathRef)

/-! ## Running on the issuing path -/

/-- With a live path, a meaning runs on it. -/
theorem onPath_live (f : Here → Res) (h : (s.hereAt s.cur).p.mask ≠ []) : onPath s f = f (s.hereAt s.cur) := if_neg h

/-- A meaning that answers a next state ran on a live path. -/
theorem onPath_next {f : Here → Res} {t : State} (h : onPath s f = .next t) :
    (s.hereAt s.cur).p.mask ≠ [] ∧ f (s.hereAt s.cur) = .next t := by
  unfold onPath at h
  dsimp only at h
  split at h
  · cases h
  · exact ⟨‹_›, h⟩

@[simp] theorem hereAt_r : (s.hereAt r).r = r := rfl
@[simp] theorem hereAt_t : (s.hereAt r).t = s.team r.core r.slot := rfl
@[simp] theorem hereAt_p : (s.hereAt r).p = s.path r := rfl
@[simp] theorem hereAt_g : (s.hereAt r).g = s.wg r.core (s.team r.core r.slot).w := rfl

/-! ## A path of a state -/

@[simp] theorem State.path_modPath (f : Path → Path) : (s.modPath r f).path r = f (s.path r) := by
  simp [State.modPath, State.modTeam, State.path, Team.modPath]

theorem State.path_modPath_other {q : PathRef} (f : Path → Path) (h1 : q.core = r.core) (h2 : q.slot = r.slot) (h3 : q.path ≠ r.path) :
    (s.modPath r f).path q = s.path q := by
  simp [State.modPath, State.modTeam, State.path, Team.modPath, h1, h2, Team.path_setPath_other _ _ (Ne.symm h3)]

/-- A change of a path changes its team only. -/
theorem State.modPath_eq (f : Path → Path) : s.modPath r f = { s with teams := (s.modPath r f).teams } := rfl

@[simp] theorem State.mget_modPath (f : Path → Path) (a : Nat) : (s.modPath r f).mget a = s.mget a := rfl
@[simp] theorem State.wg_modPath (f : Path → Path) (c w : Nat) : (s.modPath r f).wg c w = s.wg c w := rfl
@[simp] theorem State.core_modPath (f : Path → Path) (c : Nat) : (s.modPath r f).core c = s.core c := rfl

@[simp] theorem State.team_modPath (f : Path → Path) :
    (s.modPath r f).team r.core r.slot = (s.team r.core r.slot).modPath r.path f := by
  simp [State.modPath, State.modTeam]

/-! ## Counting, going on, completing, waiting -/

@[simp] theorem State.team_count (n : Nat) : (s.count r n).team r.core r.slot =
    { s.team r.core r.slot with issued := (s.team r.core r.slot).issued + 1,
                                passes := (s.team r.core r.slot).passes + n } := by
  simp [State.count, State.modTeam]

@[simp] theorem State.path_count (n : Nat) : (s.count r n).path r = s.path r := by
  simp [State.path, Team.path]

theorem State.count_eq (n : Nat) : s.count r n = { s with teams := (s.count r n).teams } := rfl

@[simp] theorem State.path_goto (pc : DWord) : (s.goto r pc).path r =
    { s.path r with pc := pc, wait := .none, window := (s.path r).window - 1, skipCmp := false, waited := 0, yielded := 0,
                    readyFor := 0, lostFor := 0, forced := false, spres := none, code := none,
                    pendTrap := (s.path r).pendTrap.map fun ti => { ti with win := ti.win + 1 } } := by
  simp [State.goto]

theorem State.goto_eq (pc : DWord) : s.goto r pc = { s with teams := (s.goto r pc).teams } := rfl

/-- Completing counts an issue and its passes, and goes on behind the instruction. -/
@[simp] theorem State.path_finish (len n : Nat) : (s.finish r len n).path r =
    { s.path r with pc := (s.path r).pc + BitVec.ofNat 64 len, wait := .none, window := (s.path r).window - 1, skipCmp := false,
                    waited := 0, yielded := 0, readyFor := 0, lostFor := 0, forced := false, spres := none, code := none,
                    pendTrap := (s.path r).pendTrap.map fun ti => { ti with win := ti.win + 1 } } := by
  simp [State.finish]

@[simp] theorem State.finish_sregs (len n : Nat) :
    ((s.finish r len n).team r.core r.slot).sregs = (s.team r.core r.slot).sregs := by
  simp [State.finish, State.goto, Team.modPath, Team.setPath]

@[simp] theorem State.finish_vregs (len n : Nat) :
    ((s.finish r len n).team r.core r.slot).vregs = (s.team r.core r.slot).vregs := by
  simp [State.finish, State.goto, Team.modPath, Team.setPath]

@[simp] theorem State.finish_issued (len n : Nat) :
    ((s.finish r len n).team r.core r.slot).issued = (s.team r.core r.slot).issued + 1 := by
  simp [State.finish, State.goto, Team.modPath, Team.setPath]

@[simp] theorem State.finish_passes (len n : Nat) :
    ((s.finish r len n).team r.core r.slot).passes = (s.team r.core r.slot).passes + n := by
  simp [State.finish, State.goto, Team.modPath, Team.setPath]

/-- Completing changes the team of the path only. -/
theorem State.finish_eq (len n : Nat) : s.finish r len n = { s with teams := (s.finish r len n).teams } := rfl

/-- Waiting leaves the path at its instruction, with its window closed but under the reasons 9, 12 and 15. -/
@[simp] theorem State.path_waitFor (reason : Nat) :
    (s.waitFor r reason).path r = { s.path r with
      wait := .retry reason, window := if reason = 9 ∨ reason = 12 ∨ reason = 15 then (s.path r).window else 0 } := by
  simp [State.waitFor]

/-- Waiting with the window as it is. -/
@[simp] theorem State.path_stallFor (reason : Nat) :
    (s.stallFor r reason).path r = { s.path r with wait := .retry reason } := by simp [State.stallFor]

theorem State.stallFor_eq (reason : Nat) : s.stallFor r reason = { s with teams := (s.stallFor r reason).teams } := rfl

theorem State.waitFor_eq (reason : Nat) : s.waitFor r reason = { s with teams := (s.waitFor r reason).teams } := rfl

/-! ## Traps (11 R239 to R245) -/

/-- The trap record and the entry, where a handler exists, none is running, and no debugger takes the trap. -/
theorem State.takeTrap_entry (kind num : Nat) (ti : TrapInfo)
    (hd : ¬((ti.cause = tcBreak ∨ ti.cause = tcWatch) ∧ (s.core r.core).dbgen.getLsbD (s.hereAt r).g.vi = true))
    (hi : (s.path r).inh = false) (he : (s.hereAt r).g.trapEntry ≠ 0xFFFFFFFF) :
    s.takeTrap r kind num ti = s.modPath r fun p =>
      { p with tcause := ti.cause, twin := ti.win, tpc := (s.hereAt r).offset ti.pc, tresume := (s.hereAt r).offset ti.resume,
               tinfo := ti.info, tlane := BitVec.ofNat 32 ti.lane, inh := true,
               pc := BitVec.ofNat 64 ((s.hereAt r).g.code + (s.hereAt r).g.trapEntry), wait := .pause 12, pendTrap := none,
               window := 0, skipCmp := false, waited := 0, spres := none, code := none } := by
  unfold State.takeTrap
  rw [if_neg hd, if_neg]
  simpa [hi] using he

/-- A trap in a handler, or without one, asks firmware to end the launch; the path stays with its record. -/
theorem State.takeTrap_end (kind num : Nat) (ti : TrapInfo)
    (hd : ¬((ti.cause = tcBreak ∨ ti.cause = tcWatch) ∧ (s.core r.core).dbgen.getLsbD (s.hereAt r).g.vi = true))
    (hi : (s.path r).inh = true ∨ (s.hereAt r).g.trapEntry = 0xFFFFFFFF) :
    (s.takeTrap r kind num ti).path r = { s.path r with wait := .trap, pendTrap := none } ∧
    (s.takeTrap r kind num ti).ends.length = s.ends.length + 1 := by
  unfold State.takeTrap
  rw [if_neg hd, if_pos (by simpa using hi)]
  constructor
  · exact State.path_modPath s r _
  · exact List.length_append

/-- A trap of an instruction is taken at once when none waits from an earlier one. -/
theorem State.trapHere_none (len cause info lane : Nat) (h : (s.path r).pendTrap = none) :
    s.trapHere r len cause info lane =
      s.takeTrap r 0 0 ⟨cause, BitVec.ofNat 64 info, lane, (s.path r).pc, (s.path r).pc + BitVec.ofNat 64 len, 0⟩ := by
  simp [State.trapHere, h]

/-- The trap that waits from an earlier instruction is delivered instead. -/
theorem State.trapHere_some (len cause info lane : Nat) {ti : TrapInfo} (h : (s.path r).pendTrap = some ti) :
    s.trapHere r len cause info lane = s.deliverPending r := by simp [State.trapHere, h]

/-- A trace event changes the trace of one die only. -/
@[simp] theorem State.tracePost_mem (core slot path vi kind value pc : Nat) :
    (s.tracePost core slot path vi kind value pc).mem = s.mem := by
  unfold State.tracePost
  dsimp only
  split <;> rfl

/-- A stop changes no memory. -/
@[simp] theorem State.eclipsePath_mem (h : Here) (kind num : Nat) (ti : TrapInfo) : (s.eclipsePath h kind num ti).mem = s.mem := by
  rw [State.eclipsePath, State.tracePost_mem]; rfl

/-- A trap changes no memory. -/
@[simp] theorem State.takeTrap_mem (kind num : Nat) (ti : TrapInfo) : (s.takeTrap r kind num ti).mem = s.mem := by
  unfold State.takeTrap
  dsimp only
  split
  · rw [State.eclipsePath_mem]
  · split <;> rfl

@[simp] theorem State.deliverPending_mem : (s.deliverPending r).mem = s.mem := by
  unfold State.deliverPending
  dsimp only
  split
  · rfl
  · rw [State.takeTrap_mem]; rfl

@[simp] theorem State.trapHere_mem (len cause info lane : Nat) : (s.trapHere r len cause info lane).mem = s.mem := by
  unfold State.trapHere
  dsimp only
  split
  · exact s.deliverPending_mem r
  · exact s.takeTrap_mem r _ _ _

/-- A return goes to the offset, out of the handler. -/
@[simp] theorem State.path_trapReturn (g : Wg) (t : Word) :
    ((s.trapReturn r g t).path r).pc = BitVec.ofNat 64 (g.code + t.toNat) ∧ ((s.trapReturn r g t).path r).inh = false := by
  simp [State.trapReturn]

/-! ## Free values -/

@[simp] theorem State.takeFree_fresh : s.takeFree.2.fresh = s.fresh + 1 := rfl
@[simp] theorem State.takeFree_value : s.takeFree.1 = Config.freeWord s.fresh := rfl
theorem State.takeFree_eq : s.takeFree.2 = { s with fresh := s.fresh + 1 } := rfl

end Sys2Proof.Machine
end

