-- ==== Sys2Proof/Tests/Slice0.lean ====
section
/-!
SUPPORT. The model's own tests: words of the spec's encodings decode, ill-formed instructions are refused, single steps give what
worked examples of the spec say, and for each statement a state that meets its hypotheses.
-/

open Sys2Proof Sys2Proof.Machine

set_option Elab.async false

namespace Sys2Proof.Tests

/-! ## Building blocks -/

def always : Guard := ⟨false, 7⟩

def args (d a b c : Nat) (t : Ty) : Args := ⟨always, d, a, b, c, t, 0, 0, none⟩

def ctl (opnd tgt token : Nat) : Ctl := ⟨always, opnd, tgt, token, 0⟩

/-- An operation that replaces source B by a literal. -/
def withB (x : Args) (v : Word) : Args := { x with lit := some ⟨.b, v⟩ }

def withC (x : Args) (v : Word) : Args := { x with lit := some ⟨.c, v⟩ }

def lanes4 : Mask := [0, 1, 2, 3]

/-- Lane values of a register, from lane 0 on. -/
def lane (r : Nat) (vs : List Word) : Sparse Word := (vs.zipIdx.map fun q => (r * 1024 + q.2, q.1)).filter fun q => q.2 != 0

def path0 : Path := { Path.empty with pc := 0x10000, mask := lanes4 }

def team0 : Team :=
  { Team.empty with life := .running, vcount := 256, scount := 128, member := lanes4, paths := [(0, path0)] }

def group0 : Wg :=
  { Wg.empty with used := true, tileN := 24, accN := 4, code := 0x10000, codeSize := 0x400, spGran := 16, trapEntry := 0x80,
                  lcore := 0 }

/-- A device whose core 0 runs one team of four lanes. -/
def demo : State := { State.reset with teams := [(0, team0)], wgs := [(0, group0)] }

def withTeam (f : Team → Team) : State := { demo with teams := [(0, f team0)] }

def withPath (f : Path → Path) : State := { demo with teams := [(0, { team0 with paths := [(0, f path0)] })] }

def withWg (f : Wg → Wg) : State := { demo with wgs := [(0, f group0)] }

def withCore (f : CoreSt → CoreSt) (s : State) : State := { s with cores := [(0, f CoreSt.empty)] }

/-- A step went to a next state. -/
def went : Host.Outcome State Fault Refusal → Bool
  | .next _ => true
  | _ => false

/-- What a next state shows. -/
def after {α : Type} (o : Host.Outcome State Fault Refusal) (f : State → α) : Option α :=
  match o with
  | .next t => some (f t)
  | _ => none

theorem exists_of_went {o : Host.Outcome State Fault Refusal} (h : went o = true) : ∃ t, o = .next t := by
  cases o with
  | next t => exact ⟨t, rfl⟩
  | fault f => cases h
  | refused f => cases h

/-- What words decode to, and under which name they are turned away. -/
def decoded (lim : Limits) (ws : List Nat) : Option (Instr × Nat) := (decode lim 0 ws).toOption

def rejected (lim : Limits) (ws : List Nat) : Option DecTrap :=
  match decode lim 0 ws with
  | .ok _ => none
  | .error e => some e

/-! ## Decoding: words written out by the spec (05, 06, 07, 10, 11 and the programs of 13 to 17) -/

theorem test_decode_control :
    decoded maxLimits [0x0000_FFFF_A007_0004] = some (.bra (ctl 0 0xFFFFA 0), 8) ∧
    decoded maxLimits [0x0003_0000_6077_000C] = some (.brv (ctl 7 6 3), 8) ∧
    decoded maxLimits [0x0020_FFFF_5007_0008] = some (.brc ⟨always, 0, 0xFFFF5, 0, 2⟩, 8) ∧
    decoded maxLimits [0x0003_0000_0007_0020] = some (.join (ctl 0 0 3), 8) ∧
    decoded maxLimits [0x0000_0000_0007_0024] = some (.exit (ctl 0 0 0), 8) ∧
    decoded maxLimits [0x0000_0000_0007_002C] = some (.nop (ctl 0 0 0), 8) := by decide +kernel

theorem test_decode_scalar :
    decoded maxLimits [0x0030_0000_C0C7_0041, 0x0000_0001_0000_0001] = some (.sadd (withB (args 12 12 0 0 .i32) 1), 16) ∧
    decoded maxLimits [0x0070_0060_5007_0480] = some (.scmp .ne (args 0 5 6 0 .n32), 8) ∧
    decoded maxLimits [0x0000_0000_6087_00A0] = some (.sget (args 8 6 0 0 .b32), 8) ∧
    decoded maxLimits [0x0000_0000_0097_008D, 0x0000_0000_0001_0042] = some (.sli { args 9 0 0 0 .b32 with lit := some ⟨.a, 0x10042⟩ }, 16) := by decide +kernel

theorem test_decode_vector :
    decoded maxLimits [0x0030_0030_2017_00C0] = some (.vadd (args 1 2 3 0 .i32), 8) ∧
    decoded maxLimits [0x0090_4030_2027_00D0] = some (.vmad (args 2 2 3 4 .f32), 8) ∧
    decoded maxLimits [0x0030_0000_4017_0919, 0x0000_0001_0000_0000] = some (.vcmp .lt (withB (args 1 4 0 0 .i32) 0), 16) ∧
    decoded maxLimits [0x3090_0000_50A7_0180] = some (.vcvt { args 10 5 0 0 .f32 with ext := 3 }, 8) ∧
    decoded maxLimits [0x0000_2020_1047_01A8] = some (.vpush (args 4 1 2 2 .b32), 8) ∧
    decoded maxLimits [0x0000_0000_7067_81B8] = some (.vballotTeam (args 6 7 0 0 .b32), 8) := by decide +kernel

theorem test_decode_memory :
    decoded maxLimits [0x0030_001C_0047_01C1, 0x0000_0002_0000_0000] = some (.ld (withC (args 4 0xC0 1 0 .i32) 0), 16) ∧
    decoded maxLimits [0x0090_0019_6021_01CC] = some (.sts { args 2 150 1 0 .f32 with guard := ⟨false, 1⟩ }, 8) ∧
    decoded maxLimits [0x0330_0000_C047_01D5, 0x0000_0002_0000_0001] = some (.atom .add .rlx { withC (args 4 12 0 0 .i32) 1 with md := 3 }, 16) ∧
    decoded maxLimits [0x0100_0000_2057_01EC] = some (.eacq { args 5 2 0 0 .b32 with md := 1 }, 8) ∧
    decoded maxLimits [0x0000_8030_2007_01E4] = some (.ebind (args 0 2 3 8 .b32), 8) ∧
    decoded maxLimits [0x0000_0000_00E7_01F5, 0x0000_0001_0000_0040] = some (.nbarr (withB (args 14 0 0 0 .b32) 64), 16) := by
  decide +kernel

theorem test_decode_matrix :
    decoded maxLimits [0x0000_0001_1037_0240] = some (.tld (args 3 17 0 0 .b32), 8) ∧
    decoded maxLimits [0x0090_0030_1007_0254] = some (.mmaa (args 0 1 3 0 .f32), 8) ∧
    decoded maxLimits [0x0000_0000_0017_0258] = some (.mcommit (args 1 0 0 0 .b32), 8) ∧
    decoded maxLimits [0x0000_B060_8007_0270] = some (.cpyToScratchpad (args 0 8 6 11 .b32), 8) ∧
    decoded maxLimits [0x0090_8031_0087_027C] = some (.gpool .sum (args 8 16 3 8 .f32), 8) := by decide +kernel

theorem test_decode_forecast :
    decoded maxLimits [0x0090_0000_6027_02C4] = some (.laadd (args 2 6 0 0 .f32), 8) ∧
    decoded maxLimits [0x0000_0000_0027_06D0] = some (.lastagDivg (args 2 0 0 0 .b32), 8) ∧
    decoded maxLimits [0x0000_0080_0067_06E8] = some (.fctake .linear (args 6 0 8 0 .b32), 8) ∧
    decoded maxLimits [0x0300_0100_4007_02EC] = some (.spres { args 0 4 16 0 .b32 with md := 3 }, 8) ∧
    decoded maxLimits [0x0000_0060_0007_02F0] = some (.spjoin (args 0 0 6 0 .b32), 8) := by decide +kernel

theorem test_decode_system :
    decoded maxLimits [0x0000_0000_5002_0300] = some (.trap { args 0 5 0 0 .b32 with guard := ⟨false, 2⟩ }, 8) ∧
    decoded maxLimits [0x0000_0000_0007_0309, 0] = some (.brk { args 0 0 0 0 .b32 with lit := some ⟨.a, 0⟩ }, 16) ∧
    decoded maxLimits [0x0000_0008_9007_0304] = some (.tret (args 0 137 0 0 .b32), 8) ∧
    decoded maxLimits [0x0000_0000_2067_0314] = some (.pmread (args 6 2 0 0 .b32), 8) := by decide +kernel

/-- The prism of 13 R288 and R289, its fields packed at the bits that R289 lists. -/
def classWords : List Nat :=
  let w := (3 + 7 * 2 ^ 2 + 7 * 2 ^ 10 + 6 * 2 ^ 21 + 7 * 2 ^ 24 + 0x1000203 * 2 ^ 28 + 0x1000202 * 2 ^ 53 +
    0x1320202 * 2 ^ 78 + 0x010101860 * 2 ^ 203 + 0x018101431 * 2 ^ 237 + 0x0001014F2 * 2 ^ 271 + 0x000141803 * 2 ^ 305 +
    0x000001A04 * 2 ^ 339 + 0x0001016A5 * 2 ^ 373 + 2 * 2 ^ 463)
  (List.range 8).map fun k => w / 2 ^ (64 * k) % 2 ^ 64

theorem test_decode_prism_word : classWords.getD 0 0 = 0x4050_0020_37C0_1C1F := by decide +kernel

def classPrism : Prism :=
  { guard := always, present := 7, token := 0, arcn := 6,
    tests := [⟨2, 0, 4, .i32, .le⟩, ⟨2, 0, 4, .i32, .lt⟩, ⟨2, 100, 4, .i32, .lt⟩, PTest.zero, PTest.zero, PTest.zero, PTest.zero],
    arcs := [⟨4, 4, 6, false, .xor, 0⟩, ⟨6, 4, 5, false, .mulI, 1⟩, ⟨0, 4, 5, false, .negI, 2⟩, ⟨0, 5, 6, false, .mov, 3⟩,
             ⟨0, 0, 6, true, .mov, 4⟩, ⟨0, 4, 5, true, .sra, 5⟩],
    leaf := [0, 0, 0, 0, 0, 0, 0, 0], tgtA := 0, tgtB := 0, lit := 2 }

theorem test_decode_prism : decoded maxLimits classWords = some (.prism classPrism, 64) := by decide +kernel

/-- Rejections by name (05 R112 and its table). -/
theorem test_decode_rejects :
    (∀ w ∈ [0x0000_0000_0000_0000, 0x0030_0030_2017_04C0, 0x0030_0030_2017_00C3, 0x0030_0030_201F_04C0, 0x0000_0000_0007_008C,
      0x0000_0000_0007_001D], rejected maxLimits [w] = some .opcode) ∧
    (∀ w ∈ [0x00C0_0030_2017_00C0, 0x0030_0030_201F_00C0], rejected maxLimits [w] = some .encoding) ∧
    rejected ⟨3, 8, 0, 0⟩ [0x0030_0030_2017_00C0] = some .encoding := by decide +kernel

theorem test_decode_table_word :
    decodeTableWord 64 0x0030_0030_2017_00C0 = some (.vadd (args 1 2 3 0 .i32)) ∧ decodeTableWord 64 0 = none := by decide +kernel

theorem test_encode : encode (.vadd (args 1 2 3 0 .i32)) = [0x0030_0030_2017_00C0] ∧ encode (.prism classPrism) = classWords := by
  decide +kernel

/-! ## Well-formedness: a term for each check, which the check refuses -/

def pairSub : SubOp := { op := .add, ty := .i32, ty2 := .b32, cond := 0, kc := false, kb := false, ka := false, d := 8, a := 5, b := 4, c := 0 }

def pairSub2 : SubOp := { pairSub with op := .sub, d := 9 }

theorem test_wellformed :
    WellFormed maxLimits (.vadd (args 1 2 3 0 .i32)) = true ∧ WellFormed maxLimits (.prism classPrism) = true ∧
    WellFormed maxLimits (.wPair pairSub pairSub2) = true ∧ WellFormed maxLimits (.brv (ctl 255 6 15)) = true := by decide +kernel

/-- Guard (04 R86): p7 negated. -/
theorem test_illformed_guard : WellFormed maxLimits (.vadd { args 1 2 3 0 .i32 with guard := ⟨true, 7⟩ }) = false := by
  decide +kernel

/-- Operand index (04 R87): a register at the count of the section. -/
theorem test_illformed_index :
    WellFormed ⟨8, 8, 0, 0⟩ (.vadd (args 8 2 3 0 .i32)) = false ∧ WellFormed ⟨8, 8, 0, 0⟩ (.vadd (args 7 2 3 0 .i32)) = true ∧
    WellFormed ⟨8, 8, 0, 0⟩ (.tld (args 0 0 0 0 .b32)) = false := by decide +kernel

/-- Type (04 R88): `vadd` has no 8-bit float type. -/
theorem test_illformed_type : WellFormed maxLimits (.vadd (args 1 2 3 0 .e4m3)) = false := by decide +kernel

/-- Modifier (04 R89): a rounding where the row has none. -/
theorem test_illformed_modifier : WellFormed maxLimits (.vadd { args 1 2 3 0 .i32 with md := 1 }) = false := by decide +kernel

/-- Bits 63:60 (04 R90). -/
theorem test_illformed_ext : WellFormed maxLimits (.vadd { args 1 2 3 0 .i32 with ext := 1 }) = false := by decide +kernel

/-- A literal for a source the row does not have, and its field not zero (04 R92). -/
theorem test_illformed_literal :
    WellFormed maxLimits (.vneg (withB (args 1 2 0 0 .i32) 1)) = false ∧
    WellFormed maxLimits (.vadd (withB (args 1 2 3 0 .i32) 1)) = false := by decide +kernel

/-- An unused field of a pair, and a pair rule (04 R93 to R95): both destinations in one bank. -/
theorem test_illformed_pair :
    WellFormed maxLimits (.wPair { pairSub with c := 1 } pairSub2) = false ∧
    fieldsOk maxLimits (.wPair pairSub { pairSub2 with d := 12 }) = true ∧
    WellFormed maxLimits (.wPair pairSub { pairSub2 with d := 12 }) = false := by decide +kernel

/-- A prism without its root, with a target no leaf names (04 R98, R103). -/
theorem test_illformed_prism :
    WellFormed maxLimits (.prism { classPrism with present := 6 }) = false ∧
    WellFormed maxLimits (.prism { classPrism with tgtA := 1 }) = false := by decide +kernel

/-- Control fields (06 R115): an operand of a branch that has none, a `join` without a token. -/
theorem test_illformed_control :
    WellFormed maxLimits (.bra (ctl 1 4 0)) = false ∧ WellFormed maxLimits (.join (ctl 0 0 0)) = false := by decide +kernel

/-! ## Fetch and step -/

/-- A few words run as the first instruction: the path goes on at the next one, or where the instruction sends it. -/
theorem test_step_first :
    after (step (State.reset.withFetchWord 64 0x0000_0000_0007_002C)) (fun t => t.here.p.pc) = some 0x10008 ∧
    after (step (State.reset.withFetchWord 64 0x0000_0000_4007_0004)) (fun t => t.here.p.pc) = some 0x10020 ∧
    after (step (State.reset.withFetchWord 64 0x0070_0000_0017_01BC)) (fun t => t.here.t.vget 1 31) = some 31 := by decide +kernel

/-- A word that no encoding allows: the launch has no trap entry, so firmware is asked to end it with the trap's cause (11 R240). -/
theorem test_step_illegal :
    after (step (State.reset.withFetchWord 64 0)) (fun t => (t.ends.length, t.here.p.wait)) = some (1, Wait.trap) := by
  decide +kernel

theorem witness_decodeOfEncode :
    WellFormed maxLimits (.vadd (args 255 255 255 0 .i32)) = true ∧ (Instr.vadd (args 255 255 255 0 .i32)).view ≠ .event ∧
    0x10008 % (8 * (encode (.vadd (args 255 255 255 0 .i32))).length) = 0 := by decide +kernel

theorem witness_encodeOfDecode :
    (∀ w ∈ classWords, w < 2 ^ 64) ∧ decoded maxLimits classWords = some (.prism classPrism, 64) := by decide +kernel

theorem witness_memoryStaysCanonical :
    Memory.wf State.reset.mem = true ∧ Memory.wf [(5, 1), (9, 255)] = true ∧ ∃ t, step State.reset = .next t :=
  ⟨by decide +kernel, by decide +kernel, exists_of_went (by decide +kernel)⟩

def fetchEntry : Tlb := ⟨0, fetchVa, 2 ^ 16, fetchVa, 0, true⟩

/-- The premises of `StepRunsDecoded` for an instruction in place. -/
def fetchPremises (s : State) (w : Nat) (i : Instr) : Bool :=
  let r : PathRef := ⟨0, 0, 0⟩
  let h := s.hereAt r
  let pc := h.p.pc.toNat
  let pa := fetchEntry.frame + (pc - fetchEntry.base)
  s.dumpHeld == false && s.powered && s.cyc == none && h.t.life == .running && h.p.mask != [] && h.p.onChip &&
  h.p.eclipse == none && h.p.wait == .none && h.p.parked == none && h.p.window == 0 && h.p.pend == [] && h.p.busy == [] &&
  h.p.away == false && h.p.pendTrap == none && !h.t.overMark pc && (s.core r.core).tlbHit h.g.vi pc == some fetchEntry && decide (pc < 2 ^ 57) &&
  s.unreachable h.g.vi fetchEntry.tgt pa == false && (s.cluster (clusterOf r.core)).icache.contains (icKey h.g.vi pc) &&
  s.breakHit r.core h.g.vi h.p.pc == none && (decode h.limits pc (s.wordsAt (pKey fetchEntry.tgt pa))).toOption == some (i, 8) &&
  (s.wordsAt (pKey fetchEntry.tgt pa)).getD 0 0 == w

def loadingGroup : Wg := { fetchWg with tiles := [(0, { Tile.empty with loading := true })] }

/-- By the agenda, and with an empty agenda by the path's own turn; an instruction that completes, one that waits (`tzf`
on a tile that is loading), and one that only traps (`join` without the token). -/
theorem witness_stepRunsDecoded :
    let s := State.reset.withFetchWord 64 0x0000_0000_0007_002C
    let u := { State.reset.withFetchWord 64 0x0000_0000_0007_024C with wgs := [(0, loadingGroup)] }
    let v := { State.reset.withFetchWord 64 0x0003_0000_0007_0020 with wgs := [(0, { fetchWg with trapEntry := 0x80 })] }
    fetchPremises s 0x0000_0000_0007_002C (.nop (ctl 0 0 0)) = true ∧ s.agenda = [.issue ⟨0, 0, 0⟩] ∧
    fetchPremises { s with agenda := [] } 0x0000_0000_0007_002C (.nop (ctl 0 0 0)) = true ∧ s.time3 % 4 ≠ 3 ∧ s.cur = ⟨0, 0, 0⟩ ∧
    s.allPaths.contains ⟨0, 0, 0⟩ = true ∧ (s.core 0).t3 ≤ s.time3 ∧
    after (exec (.nop (ctl 0 0 0)) { s with agenda := [], cur := ⟨0, 0, 0⟩ }) (fun t => stalled .none (t.path ⟨0, 0, 0⟩).wait) =
      some false ∧
    fetchPremises u 0x0000_0000_0007_024C (.tzf (args 0 0 0 0 .b32)) = true ∧
    after (exec (.tzf (args 0 0 0 0 .b32)) { u with agenda := [], cur := ⟨0, 0, 0⟩ })
      (fun t => stalled .none (t.path ⟨0, 0, 0⟩).wait) = some true ∧
    fetchPremises v 0x0003_0000_0007_0020 (.join (ctl 0 0 3)) = true ∧
    (let w := { v with agenda := [], cur := ⟨0, 0, 0⟩ }
     after (exec (.join (ctl 0 0 3)) w) (fun t => (stalled .none (t.path ⟨0, 0, 0⟩).wait, trapped w t ⟨0, 0, 0⟩)) =
       some (false, true)) ∧
    (let w := { s with agenda := [], cur := ⟨0, 0, 0⟩ }
     after (exec (.nop (ctl 0 0 0)) w) (fun t => trapped w t ⟨0, 0, 0⟩) = some false) := by decide +kernel

/-! ## Traps -/

theorem witness_traps :
    (let h := demo.here; h.p.pendTrap = none ∧ h.p.inh = false ∧ h.g.trapEntry ≠ 0xFFFFFFFF) ∧
    (let h := (withPath fun p => { p with inh := true }).here; h.p.pendTrap = none ∧ h.p.inh = true) ∧
    (let h := (withWg fun g => { g with trapEntry := 0xFFFFFFFF }).here; h.p.pendTrap = none ∧ h.g.trapEntry = 0xFFFFFFFF) ∧
    tcUserTrap ≠ tcBreak ∧ tcUserTrap ≠ tcWatch := by decide +kernel

theorem witness_poisonTraps :
    let s := withTeam fun t => { t with vpoison := [(2 * 1024 + 1, true), (4 * 1024 + 3, true)], spoison := [(2, true)] }
    let e := s.here.execLanes always
    s.live ∧ (args 1 2 3 4 .i32).lit = none ∧ s.here.t.poisonLanes e [2, 3] ≠ [] ∧ s.here.t.poisonLanes e [5, 3, 4] ≠ [] ∧
    s.here.t.poisonLanes e [2] ≠ [] ∧ s.here.t.spoisoned [2, 3] = true := by decide +kernel

/-- 19 R337: INFO is the lowest lane that reads a poisoned element. -/
theorem test_poison_info :
    let s := withTeam fun t => { t with vpoison := [(2 * 1024 + 1, true), (2 * 1024 + 3, true)] }
    after (exec (.vadd (args 1 2 3 0 .i32)) s) (fun t => (t.here.p.tcause, t.here.p.tinfo, t.here.p.pc)) =
      some (tcPoison, 1, 0x10080) := by decide +kernel

/-! ## Control -/

/-- A team whose v7 holds lane AND 1, as in the kernel c_split of 06, at code offset 0x20. -/
def splitTeam : State :=
  withTeam fun t => { t with vregs := lane 7 [0, 1, 0, 1], sregs := [(2, 1), (3, 2)], paths := [(0, { path0 with pc := 0x10020 })] }

theorem witness_jumpsAndHints :
    splitTeam.live ∧ splitTeam.here.clean [] [] [2] ∧ splitTeam.here.clean lanes4 [5] [] ∧
    (let s := withTeam fun t => { t with vregs := lane 5 [0x40, 0x40, 0x40, 0x40] }
     s.here.clean lanes4 [5] [] ∧ (∀ l ∈ lanes4, s.here.t.vget 5 l = 0x40) ∧ 0x40 % 8 = 0 ∧ 0x40 < s.here.g.codeSize) ∧
    (∃ l ∈ lanes4, splitTeam.here.t.vget 7 l ≠ splitTeam.here.t.vget 7 0) ∧
    (let s := withTeam fun t => { t with vregs := lane 5 [4, 4, 4, 4] }
     (∀ l ∈ lanes4, s.here.t.vget 5 l = 4) ∧ 4 % 8 ≠ 0) ∧
    (let s := withTeam fun t => { t with vregs := lane 5 [0x400, 0x400, 0x400, 0x400] }
     (∀ l ∈ lanes4, s.here.t.vget 5 l = 0x400) ∧ 0x400 % 8 = 0 ∧ s.here.g.codeSize ≤ 0x400) := by decide +kernel

/-- `loop` with a count of 1 goes on at next, with 2 to the target, with 0 to the target with FFFFFFFF (06 R123). -/
theorem test_loop :
    after (exec (.loop (ctl 2 4 0)) splitTeam) (fun t => (t.here.p.pc, t.here.t.sgetr 2)) = some (0x10028, 0) ∧
    after (exec (.loop (ctl 3 4 0)) splitTeam) (fun t => (t.here.p.pc, t.here.t.sgetr 3)) = some (0x10040, 1) ∧
    after (exec (.loop (ctl 4 4 0)) splitTeam) (fun t => (t.here.p.pc, t.here.t.sgetr 4)) = some (0x10040, 0xFFFFFFFF) := by
  decide +kernel

/-- Line (4) of the kernel c_split of 06: the groups tie, next continues in place, the fragment is path 1; both carry (3, i). -/
theorem test_brv_splits :
    after (exec (.brv (ctl 7 6 3)) splitTeam) (fun t =>
      ((t.here.t.path 0).pc, (t.here.t.path 0).mask, (t.here.t.path 0).stack)) = some (0x10028, [0, 2], [(3, 0)]) ∧
    after (exec (.brv (ctl 7 6 3)) splitTeam) (fun t =>
      ((t.here.t.path 1).pc, (t.here.t.path 1).mask, (t.here.t.path 1).stack)) = some (0x10050, [1, 3], [(3, 0)]) := by
  decide +kernel

theorem witness_branches_uniform :
    ∃ order succ, demo.live ∧ Spec.branchTo demo.here (.brc (ctl 7 6 3)) = some (ctl 7 6 3, order, succ) ∧
      demo.here.clean demo.here.p.mask (Spec.branchReads (.brc (ctl 7 6 3))) [] ∧ (∀ l ∈ demo.here.p.mask, succ l = 0x10030) ∧
      Spec.spillFits demo (Spec.splitBy demo order succ 3) :=
  ⟨_, _, by decide +kernel, rfl, by decide +kernel, by decide +kernel, .inl (by decide +kernel)⟩

/-- The fault ring of die 0 has no room (19 R331). -/
def ringFull (s : State) : State := s.modDie 0 fun d => { d with fqtail := 4095 }

/-- A path with four tokens, in a team whose mark is 0: a fifth token spills. -/
def fullStack : State :=
  withTeam fun t => { t with privMark := 0, paths := [(0, { path0 with stack := [(1, 0), (2, 0), (1, 1), (2, 1)] })] }

theorem witness_branches_spill :
    ∃ order succ, fullStack.live ∧ Spec.branchTo fullStack.here (.brc (ctl 7 6 3)) = some (ctl 7 6 3, order, succ) ∧
      Spec.spillsOver fullStack order succ 3 = true ∧ fullStack.faultRoom 0 1 = true :=
  ⟨_, _, by decide +kernel, rfl, by decide +kernel, by decide +kernel⟩

theorem witness_branches_stall :
    ∃ order succ, (ringFull fullStack).live ∧
      Spec.branchTo (ringFull fullStack).here (.brc (ctl 7 6 3)) = some (ctl 7 6 3, order, succ) ∧
      Spec.spillsOver (ringFull fullStack) order succ 3 = true ∧ (ringFull fullStack).faultRoom 0 1 = false :=
  ⟨_, _, by decide +kernel, rfl, by decide +kernel, by decide +kernel⟩

/-- A fifth token that has room below the mark, in a private region whose first page no table maps. -/
def brokenSpill : State :=
  withTeam fun t => { t with privBase := 2 ^ 40, privMark := Config.spillBytes 0 1 + 0 + 1,
                             paths := [(0, { path0 with stack := [(1, 0), (2, 0), (1, 1), (2, 1)] })] }

/-- The first line of the spill area is one of those that a spill writes, whatever its length. -/
theorem first_spill_line {s : State} {h : Here} {n : Nat} {wr : Bool} (hb : h.t.privBase ≠ 0) (hn : 0 < n) :
    ((⟨leastOf h.p.mask, h.t.privBase + 64 * 0, 0, 0⟩ : LaneAcc),
      s.translate h.r.core h.g.vi { h.t with xt := [] } (h.t.privBase + 64 * 0) wr) ∈ s.spillLines h n wr := by
  unfold State.spillLines
  rw [if_neg hb]
  exact List.mem_map.mpr ⟨0, List.mem_range.mpr (by unfold ceilDiv; omega), rfl⟩

def refusedPlace : TRes → Bool
  | .bad .. => true
  | .ok .. => false

theorem refused_place {r : TRes} (h : refusedPlace r = true) : ∃ fatal cause base psz, r = .bad fatal cause base psz := by
  cases r with
  | bad a b c d => exact ⟨a, b, c, d, rfl⟩
  | ok => exact absurd h Bool.false_ne_true

theorem spill_faults {s : State} {t : Team} {k l : Nat} (hm : s.here.t.spillsMore t = true) (hs : t.spilled = (k, l))
    (hp : s.here.t.privMark = Config.spillBytes k l + k + l) (hl : 0 < k + l) (hb : s.here.t.privBase ≠ 0)
    (ht : refusedPlace (s.translate s.here.r.core s.here.g.vi { s.here.t with xt := [] } (s.here.t.privBase + 64 * 0) true) = true) :
    Spec.spillFaults s t := by
  have hz : t.spillSize = Config.spillBytes k l + k + l := by unfold Team.spillSize; rw [hs]
  refine ⟨hm, by omega, _, first_spill_line hb (by omega), ?_⟩
  show ∃ a b c d, s.translate s.here.r.core s.here.g.vi { s.here.t with xt := [] } (s.here.t.privBase + 64 * 0) true = .bad a b c d
  exact refused_place ht

theorem witness_branches_fault :
    ∃ order succ, brokenSpill.live ∧ Spec.branchTo brokenSpill.here (.brc (ctl 7 6 3)) = some (ctl 7 6 3, order, succ) ∧
      Spec.spillFaults brokenSpill (Spec.splitBy brokenSpill order succ 3) :=
  ⟨_, _, by decide +kernel, rfl, spill_faults (k := 0) (l := 1) (by decide +kernel) (by decide +kernel) rfl (by decide)
    (by decide +kernel) (by decide +kernel)⟩

theorem witness_branches_split :
    let h := splitTeam.here
    ∃ succ, splitTeam.live ∧ Spec.branchTo h (.brv (ctl 7 6 3)) = some (ctl 7 6 3, [0x10028, 0x10050], succ) ∧
      h.clean h.p.mask (Spec.branchReads (.brv (ctl 7 6 3))) [] ∧ h.p.mask.filter (fun l => succ l = 0x10028) ≠ [] ∧
      h.p.mask.filter (fun l => succ l = 0x10050) ≠ [] ∧ (0x10028 : DWord) ≠ 0x10050 ∧
      Spec.spillFits splitTeam (Spec.splitBy splitTeam [0x10028, 0x10050] succ 3) :=
  ⟨_, by decide +kernel, rfl, by decide +kernel, by decide +kernel, by decide +kernel, by decide +kernel, .inl (by decide +kernel)⟩

/-- Two paths that have arrived at `join tk3`, and one that has not. -/
def joinTeam (wait1 : Wait) : State :=
  { demo with teams := [(0, { team0 with inst := 1, paths := [(0, { path0 with mask := [0, 2], stack := [(3, 0)] }),
      (1, { path0 with mask := [1, 3], stack := [(3, 0)], wait := wait1 })] })] }

theorem witness_exitsAndJoins :
    (let h := demo.here
     demo.live ∧ demo.exitIllegal h (h.execLanes always) = false ∧ h.p.mask.filter (fun l => !(h.execLanes always).contains l) = [] ∧
     mdiff h.t.member (h.execLanes always) = []) ∧
    (let s := withTeam fun t => { t with preds := [(1024, true)] }
     let e := s.here.execLanes ⟨false, 1⟩
     s.exitIllegal s.here e = false ∧ s.here.p.mask.filter (fun l => !e.contains l) ≠ [] ∧ mdiff s.here.t.member e ≠ []) ∧
    (let s := withCore (fun c => { c with ids := [(1, .unresolved)] }) (withTeam fun t => { t with ownIds := [1] })
     let e := s.here.execLanes always
     e ≠ [] ∧ mdiff s.here.t.member e = [] ∧ (s.core 0).unresolved s.here.t.ids ≠ []) ∧
    (let s := withCore (fun c => { c with ids := [(1, .committed)] }) (withTeam fun t => { t with inhIds := [1] })
     s.here.t.pen = true ∧ s.exitIllegal s.here (s.here.execLanes always) = false) ∧
    demo.here.p.stack.head? = none := by decide +kernel

theorem witness_joins :
    (let s := joinTeam .none
     let a := (s.count s.cur 0).modPath s.cur fun p => { p with wait := .join 3 0, window := 0, skipCmp := false }
     s.live ∧ s.here.p.stack.head? = some (3, 0) ∧ s.here.p.wait ≠ .join 3 0 ∧ (s.core 0).unperformed 0 0 0 = false ∧
     s.here.p.stack.length ≤ 4 ∧ a.here.t.joinReady 3 0 = false) ∧
    (let s := { joinTeam .none with cores := [(0, { CoreSt.empty with posted := [⟨0, [0], spKey 1 0, [1], false, 0⟩] })] }
     s.live ∧ s.here.p.stack.head? = some (3, 0) ∧ s.here.p.wait ≠ .join 3 0 ∧ (s.core 0).unperformed 0 0 0 = true) ∧
    (let s := joinTeam (.join 3 0)
     let a := (s.count s.cur 0).modPath s.cur fun p => { p with wait := .join 3 0, window := 0, skipCmp := false }
     s.live ∧ (s.core 0).unperformed 0 0 0 = false ∧ a.here.t.joinReady 3 0 = true ∧
     (a.here.t.arrived 3 0).map (·.1) = [0, 1]) := by decide +kernel

/-- Line (8) of the kernel c_split: the second arrival merges both into path 0 with an empty stack, and index 1 is free. -/
theorem test_join_merges :
    after (exec (.join (ctl 0 0 3)) (joinTeam (.join 3 0))) (fun t =>
      ((t.here.t.path 0).mask, (t.here.t.path 0).pc, (t.here.t.path 0).stack, (t.here.t.path 1).mask)) =
      some ([0, 1, 2, 3], 0x10008, [], []) := by decide +kernel

/-- The eight lanes of 13 before the prism: v4 holds the inputs, v5 is 1, v6 is 3. -/
def classVregs : Sparse Word :=
  lane 4 [0xFFFFFFF9, 0, 3, 250, 0xFFFFFFFF, 99, 100, 0x7FFFFFFF] ++ lane 5 [1, 1, 1, 1, 1, 1, 1, 1] ++
  lane 6 [3, 3, 3, 3, 3, 3, 3, 3]

def classTeam : State :=
  withTeam fun t => { t with member := List.range 8, vregs := classVregs,
                             paths := [(0, { path0 with pc := 0x10040, mask := List.range 8 })] }

/-- 13 R290: what the prism leaves in v5 and v6. -/
theorem test_prism_classifies :
    after (exec (.prism classPrism) classTeam) (fun t =>
      ((List.range 8).map (t.here.t.vget 5), (List.range 8).map (t.here.t.vget 6), t.here.t.livePaths, t.here.p.pc)) =
      some ([7, 1, 9, 62, 1, 297, 25, 0x1FFFFFFF], [0, 1, 2, 3, 0, 2, 3, 3], [0], 0x10080) := by decide +kernel

theorem witness_prismCompletes :
    let h := classTeam.here
    let gone := h.p.mask.filter fun l => Spec.prismTo h classPrism l = none
    let order := fun (h : Here) => [h.p.pc + 64, Spec.jump h.p.pc classPrism.tgtA, Spec.jump h.p.pc classPrism.tgtB]
    classTeam.live ∧ (∀ l ∈ h.p.mask, l < 1024) ∧ classTeam.exitIllegal h gone = false ∧ mdiff h.t.member gone ≠ [] ∧
    (classTeam.here.t.spillsMore (classTeam.splitTeam h (order h) (h.p.mask.map fun l => (l, Spec.prismTo h classPrism l)) 0)) = false ∧
    Spec.spillFaults brokenSpill (brokenSpill.splitTeam brokenSpill.here (order brokenSpill.here)
      (brokenSpill.here.p.mask.map fun l => (l, Spec.prismTo brokenSpill.here classPrism l)) 3) ∧
    brokenSpill.exitIllegal brokenSpill.here
      (brokenSpill.here.p.mask.filter fun l => Spec.prismTo brokenSpill.here classPrism l = none) = false ∧
    (let s := fullStack
     s.exitIllegal s.here (s.here.p.mask.filter fun l => Spec.prismTo s.here classPrism l = none) = false ∧
     s.splitOver s.here (order s.here) (s.here.p.mask.map fun l => (l, Spec.prismTo s.here classPrism l)) 3 = true ∧
     s.faultRoom 0 1 = true ∧ (ringFull s).faultRoom 0 1 = false) ∧
    (let s := withCore (fun c => { c with ids := [(1, .unresolved)] })
       { classTeam with teams := [(0, { classTeam.here.t with ownIds := [1] })] }
     let x := { classPrism with leaf := [3, 3, 3, 3, 3, 3, 3, 3] }
     let gone := s.here.p.mask.filter fun l => Spec.prismTo s.here x l = none
     s.exitIllegal s.here gone = true ∧ gone ≠ [] ∧ mdiff s.here.t.member gone = [] ∧ (s.core 0).unresolved s.here.t.ids ≠ []) ∧
    Spec.testResult h classPrism (classPrism.tests.getD 0 PTest.zero) 0 = some (true, 0) := by
  refine ⟨by decide +kernel, by decide +kernel, by decide +kernel, by decide +kernel, by decide +kernel, ?_, by decide +kernel,
    by decide +kernel, by decide +kernel, by decide +kernel⟩
  exact spill_faults (k := 0) (l := 1) (by decide +kernel) (by decide +kernel) rfl (by decide) (by decide +kernel)
    (by decide +kernel)

theorem witness_masksStayLaneSets :
    Spec.changesPaths (.brv (ctl 7 6 3)) = true ∧ (∃ t, exec (.brv (ctl 7 6 3)) splitTeam = .next t) ∧
    Spec.lanesOk (splitTeam.team 0 0) :=
  ⟨rfl, exists_of_went (by decide +kernel), by
    unfold Spec.lanesOk Spec.laneSet
    decide +kernel⟩

/-! ## Scalar instructions -/

theorem witness_scalarResults :
    let h := demo.here
    demo.live ∧ h.clean [] [] [1, 2] ∧ (∀ r ∈ Spec.scalarTable (args 3 1 2 4 .i32) 1 2 3, h.clean [] [] (readRegs (args 3 1 2 4 .i32) r.2.1)) ∧
    h.clean [] [] (readRegs (args 3 1 2 0 .i32) [(.a, 1), (.b, 2)]) ∧ Spec.wordCond .lt .i32 0xFFFFFFFF 0 = some true ∧
    Spec.wordCond .lt .n32 0xFFFFFFFF 0 = some false ∧ Spec.wordCond .any .b32 5 4 = some true ∧ (args 0 1 2 0 .f32).ty = .f32 ∧
    h.clean [] [] (pairRegs 1 ++ pairRegs 2) ∧ h.clean [] [] (pairRegs 1 ++ [7]) := by decide +kernel

/-- The example of 06 R135: `slea.i32 d4, [d2 + s7*4 + 16]` with s7 = −2. -/
theorem test_slea :
    after (exec (.slea (withC (args 4 2 7 0 .i32) 16)) (withTeam fun t => { t with sregs := [(5, 0x100), (7, 0xFFFFFFFE)] }))
      (fun t => t.here.t.dget 4) = some 0x0000_0100_0000_0008 := by decide +kernel

/-- A high product of two negative numbers, and an arithmetic shift past the width (06 R133). -/
theorem test_scalar_signs :
    let s := withTeam fun t => { t with sregs := [(1, 0xFFFFFFFE), (2, 0x80000000), (3, 40)] }
    after (exec (.smulh (args 4 1 2 0 .i32)) s) (fun t => t.here.t.sgetr 4) = some 1 ∧
    after (exec (.ssra (args 4 2 3 0 .i32)) s) (fun t => t.here.t.sgetr 4) = some 0xFFFFFFFF ∧
    after (exec (.sshr (args 4 2 3 0 .b32)) s) (fun t => t.here.t.sgetr 4) = some 0 := by decide +kernel

theorem witness_scalarFrame :
    Spec.scalarDests (.dadd (args 3 1 2 0 .i64)) = some ([6, 7], []) ∧ ∃ t, exec (.dadd (args 3 1 2 0 .i64)) demo = .next t :=
  ⟨rfl, exists_of_went (by decide +kernel)⟩

/-- A matrix step of core 0 that reads tile 0 of workgroup 0. -/
def tileStep : MStep := ⟨1, 0, 0, 0, 0, 1, none, 1, false, 8, false, 0, 0⟩

theorem witness_controlRegisters :
    let h := demo.here
    demo.live ∧ (∀ n ∈ [0x00, 0x0C, 0x10, 0x16, 0x40, 0x9F], ∃ r ∈ Spec.cregValues h, n = r.1) ∧
    (∀ n ∈ [0x10, 0x12, 0x16, 0x40, 0x9F], ∃ r ∈ Spec.cregBits, n = r.1) ∧ h.clean [] [] (readRegs (args 0x40 1 0 0 .b32) [(.a, 1)]) ∧
    demo.tileBusy 0 h.t.w ((0x40 - 0x40) / 4) = false ∧ demo.tileBusy 0 h.t.w ((0x9F - 0x40) / 4) = false ∧
    (withCore (fun c => { c with running := some tileStep }) demo).tileBusy 0 0 ((0x43 - 0x40) / 4) = true := by decide +kernel

/-- `sset` keeps the writable bits only: 5 of a tile's width, none of `%lane` (06 R136 to R138). -/
theorem test_sset :
    let s := withTeam fun t => { t with sregs := [(1, 0xFFFFFFFF)] }
    after (exec (.sset (args 0x40 1 0 0 .b32)) s) (fun t => (t.here.g.tile 0).width) = some 0x1F ∧
    after (exec (.sset (args 0x00 1 0 0 .b32)) s) (fun t => t.here.p.tcause) = some tcPrivilege := by decide +kernel

/-- Page tables of interface 0 (19 R326, R327): the 1 GiB page at 0 is a leaf of level 2, writable, in HBM4, owned by the device. -/
def pageTables : List Host.Cell := [(0x1000, 0x01), (0x1001, 0x20), (0x2000, 0x01), (0x2001, 0x30), (0x3000, 0x0F)]

def paged (f : Team → Team) : State :=
  { withTeam f with vis := [(0, { Vi.empty with ptroot := 0x1000 })], mem := pageTables }

theorem witness_translationRegister :
    demo.live ∧ demo.here.clean [] [] (pairRegs 1 ++ readRegs (args 0 1 4 0 .b32) [(.b, 4)]) ∧
    ((demo.here.t.dget 1).toNat < 2 ^ 57 ∧ (demo.here.ssrc (args 0 1 4 0 .b32) .b 4).toNat = 0) ∧
    (let s := paged fun t => { t with sregs := [(2, 0x3FFFFF00), (4, 0x1000)] }
     (s.here.t.dget 1).toNat = 0x3FFFFF00 ∧ (s.here.ssrc (args 0 1 4 0 .b32) .b 4).toNat = 0x1000 ∧
     s.walkVa 0 s.here.t 0x3FFFFF00 false = .ok 0 0x3FFFFF00 true 0 (2 ^ 30)) ∧
    (let s := withTeam fun t => { t with sregs := [(3, 0xFFFFFFFF)] }
     2 ^ 57 ≤ (s.here.t.dget 1).toNat ∧ s.faultRoom 0 1 = true ∧ (ringFull s).faultRoom 0 1 = false) := by decide +kernel

/-- `sxlat` cuts the limit at the end of the page (06 R139): 0x100 bytes are left of 0x1000. -/
theorem test_sxlat :
    after (exec (.sxlat (args 2 1 4 0 .b32)) (paged fun t => { t with sregs := [(2, 0x3FFFFF00), (4, 0x1000)] }))
      (fun t => sget Xt.empty t.here.t.xt 2) = some ⟨true, 0x3FFFFF00, 0, 0x3FFFFF00, 0x100, true, 0, 2 ^ 30⟩ := by decide +kernel

/-! ## Vector instructions -/

theorem witness_vectorIntegers :
    demo.live ∧ (∀ r ∈ Spec.vectorInts (args 1 2 3 4 .b32), demo.here.clean (demo.here.execLanes always) (readRegs (args 1 2 3 4 .b32) r.2.1) []) := by
  decide +kernel

/-- Saturation of a dot product sets SAT (07 R150): four products of 127 × 127 on the largest sum. -/
theorem test_vdot4 :
    let s := withTeam fun t => { t with vregs := lane 2 [0x7F7F7F7F] ++ lane 3 [0x7F7F7F7F] ++ lane 4 [0x7FFFFFFF] }
    after (exec (.vdot4 (args 1 2 3 4 .i32)) s) (fun t => (t.here.t.vget 1 0, t.here.t.ffGet 0, t.here.t.ffGet 1)) =
      some (0x7FFFFFFF, flSAT, 0) := by decide +kernel

theorem witness_vectorFloats :
    demo.live ∧ Ty.f16 ∈ Spec.floatTypes ∧
    (∀ r ∈ Spec.vectorFloats (args 1 2 3 4 .f16) demo.here.t.fmode .f16,
      demo.here.clean (demo.here.execLanes always) (readRegs (args 1 2 3 4 .f16) r.2.1) []) := by decide +kernel

/-- ∞ − ∞ is the canonical NaN with NV (07 R143); the smaller zero of −0 and +0 (07 R147). -/
theorem test_vadd_float :
    let s := withTeam fun t => { t with vregs := lane 2 [0x7F800000, 0x3F800000] ++ lane 3 [0xFF800000, 0x40000000] }
    after (exec (.vadd (args 1 2 3 0 .f32)) s) (fun t => (t.here.t.vget 1 0, t.here.t.ffGet 0, t.here.t.vget 1 1)) =
      some (0x7FC00000, flNV, 0x40400000) := by decide +kernel

theorem witness_roundingIsExact :
    Ty.e2m1 ∈ [Ty.f32, .f16, .bf16, .e4m3, .e5m2, .e2m1] ∧ 0xF < 2 * Ty.e2m1.fmt.signBit ∧ (fdecode .e2m1 0xF).isNan = false ∧
    0xFFFF < 2 ^ 16 ∧ 0xFF800000 < 2 * Ty.f32.fmt.signBit ∧ (fdecode .f32 0xFF800000).isNan = false := by decide +kernel

theorem witness_vectorConditions :
    let h := demo.here
    let e := h.execLanes always
    demo.live ∧ h.clean e (readRegs (args 1 2 3 0 .i32) [(.a, 2), (.b, 3)]) [] ∧
    (∀ l ∈ e, (Spec.wordCond .lt .i32 (Spec.laneA h (args 1 2 3 0 .i32) l) (Spec.laneB h (args 1 2 3 0 .i32) l)).isSome = true) ∧
    Ty.f32 ∈ Spec.floatTypes := by decide +kernel

/-- Line n_pair of 04 R96: `vmax.i32 v8, v5, v4 || vsub.i32 v9, v5, v4`. -/
def pairMax : SubOp := { pairSub with op := .max }

theorem witness_pairIsTwoSingles :
    let h := demo.here
    demo.live ∧ (∀ l ∈ h.p.mask, l < 1024) ∧ WellFormed maxLimits (.wPair pairMax pairSub2) = true ∧
    h.clean h.p.mask (pairMax.vsources ++ pairSub2.vsources) (subSsources pairMax ++ subSsources pairSub2) ∧
    pairMax.ka = false ∧ pairMax.kb = false ∧ pairMax.kc = false ∧ pairSub2.ka = false ∧ pairSub2.kb = false ∧ pairSub2.kc = false := by
  decide +kernel

/-- The second line of 04 R96: v2 receives v1 as it stood before the pair, and v1 the sum. -/
theorem test_pair_reads_first :
    let x : SubOp := { pairSub with d := 1, a := 2, b := 3 }
    let y : SubOp := { pairSub with op := .mov, ty := .b32, d := 2, a := 1, b := 0 }
    let s := withTeam fun t => { t with vregs := lane 1 [7] ++ lane 2 [10] ++ lane 3 [100] }
    WellFormed maxLimits (.wPair x y) = true ∧
    after (exec (.wPair x y) s) (fun t => (t.here.t.vget 1 0, t.here.t.vget 2 0)) = some (110, 7) := by decide +kernel

theorem witness_specialFunctions :
    demo.live ∧ demo.here.clean (demo.here.execLanes always) [2] [] ∧ demo.here.p.window = 0 ∧
    (withPath fun p => { p with window := 15 }).here.p.window ≠ 0 := by decide +kernel

theorem witness_conversions :
    let h := demo.here
    let e := h.execLanes always
    demo.live ∧ (args 1 2 3 4 .f16).lit = none ∧ h.clean e [2] [] ∧ h.clean e [2] [3] ∧ h.clean e [2, 3] [] ∧ h.clean e [2, 3] [4] ∧
    h.clean e [2, 3, 4] [] ∧ h.clean e [2] [0x83 - 0x80] ∧ (∀ l ∈ e, e.count l = 1) ∧ RMode.ofCode 4 = .rst ∧
    RMode.ofCode 0 ≠ .rst ∧ Ty.e4m3 ≠ .q4n := by decide +kernel

/-- `vcvt.f16.f32` rounds to nearest even: 1 + 2^−11 lies half way and goes to 1, with IX (03 R68, 07 R154). -/
theorem test_vcvt :
    let s := withTeam fun t => { t with vregs := lane 2 [0x3F801000, 0x3F803000] }
    after (exec (.vcvt { args 1 2 0 0 .f16 with ext := 9 }) s) (fun t => (t.here.t.vget 1 0, t.here.t.vget 1 1, t.here.t.ffGet 0)) =
      some (0x3C00, 0x3C02, flIX) := by decide +kernel

/-- The team of 03 R82's example: width 64, lanes 0, 1, 2 and 40; lane 40 sits in rank 1. -/
def treeTeam : State :=
  withTeam fun t => { t with
    width := 64, member := [0, 1, 2, 40],
    vregs := [(1 * 1024 + 0, 0x4B800000), (1 * 1024 + 1, 0x3F800000), (1 * 1024 + 2, 0x3F800000), (1 * 1024 + 40, 0x3F800000)],
    paths := [(0, { path0 with mask := [0, 1, 2, 40] })] }

/-- ((x0 + x1) + x2) + x40 in FP32 with x0 = 2^24 and the others 1: every sum rounds back to 2^24 (03 R82); the other grouping
would give 2^24 + 2. -/
theorem test_vred_tree :
    after (exec (.vred true .add (args 2 1 0 0 .f32)) treeTeam) (fun t => t.here.t.vget 2 40) = some 0x4B800000 := by decide +kernel

theorem witness_acrossLanes :
    let h := demo.here
    let e := h.execLanes always
    demo.live ∧ h.clean e (readRegs (args 1 2 3 4 .b32) [(.a, 2)] ++ [3, 4]) [] ∧
    h.clean e (readRegs (args 1 2 3 4 .b32) [(.a, 2), (.b, 3)]) [] ∧ h.clean e [] (readRegs (args 1 2 3 4 .b32) [(.a, 2)]) ∧ e.Nodup ∧
    Spec.redAllowed .add .f32 = true ∧ Spec.redAllowed .xor .b32 = true ∧ h.clean e [2] [] ∧ (∀ l ∈ e, l < 2 ^ 32) ∧
    (args 1 2 3 4 .b32).lit = none := by decide +kernel

/-- Lines (3) of 07's push example: v4 of a lane takes the highest-numbered source, p2 reports two. -/
theorem test_vpush :
    let s := withTeam fun t => { t with vregs := lane 1 [10, 11, 12, 13] ++ lane 2 [0, 0, 3, 9], preds := [(2 * 1024 + 1, true)] }
    after (exec (.vpush (args 4 1 2 2 .b32)) s) (fun t =>
      (lanes4.map (t.here.t.vget 4), lanes4.map (t.here.t.pred 2))) = some ([11, 0, 0, 12], [true, false, false, false]) := by
  decide +kernel

theorem witness_vectorFrame :
    (∃ d, Spec.vectorDest demo.here (.vcvt (args 1 2 3 4 .f16)) = some d) ∧
    ∃ t, exec (.vcvt { args 1 2 0 0 .f16 with ext := 9 }) demo = .next t :=
  ⟨⟨_, rfl⟩, exists_of_went (by decide +kernel)⟩

/-! ## Memory -/

/-- The check that `Spec.Placed` states. -/
def placedB (s : State) (va n : Nat) (rd wr : Bool) (tgt pa : Nat) : Bool :=
  va % n == 0 && pa % n == 0 &&
  (match s.place s.here va wr with | .ok t p .. => t == tgt && p == pa | .bad .. => false) &&
  (match windowOf va with
   | none => true
   | some sa => s.spLegal s.here.g s.cur.core sa n &&
      (match s.spPlace s.here.g.vi s.cur.core sa with | none => true | some q => s.tagsOf q.1 (spKey q.1 q.2) n == [])) &&
  s.watchHit s.cur.core s.here.g.vi va n rd wr == none

theorem placed_of {s : State} {va n : Nat} {rd wr : Bool} {tgt pa : Nat} (h : placedB s va n rd wr tgt pa = true) :
    Spec.Placed s va n rd wr tgt pa := by
  simp only [placedB, Bool.and_eq_true, beq_iff_eq] at h
  obtain ⟨⟨⟨⟨h1, h2⟩, h3⟩, h4⟩, h5⟩ := h
  refine ⟨h1, h2, ?_, ?_, h5, ?_⟩
  · revert h3
    cases s.place s.here va wr with
    | ok t p w b z =>
      intro h3
      simp only [Bool.and_eq_true, beq_iff_eq] at h3
      exact ⟨w, b, z, by rw [h3.1, h3.2]⟩
    | bad a b c d => intro h3; cases h3
  · intro sa hsa
    rw [hsa] at h4
    simp only [Bool.and_eq_true] at h4
    exact h4.1
  · intro sa q hsa hq
    rw [hsa] at h4
    simp only [Bool.and_eq_true] at h4
    rw [hq] at h4
    exact beq_iff_eq.mp h4.2

/-- A second page of the tables of `paged`: peer memory of device 1 at 1 GiB (19 R327). -/
def memoryState : State :=
  { paged fun t => { t with vregs := lane 1 [0, 1, 2, 3] ++ lane 2 [10, 11, 12, 13],
                            sregs := [(2, 0x4000), (4, 0x40000000), (8, 0x100)] } with
    mem := pageTables ++ [(0x3008, 0x0F), (0x3009, 0x03), (0x300D, 0x01), (0x4004, 0x78), (0x4005, 0x56), (0x4007, 0x12)],
    route := [(1, 1)] }

def ldArgs : Args := args 3 0xC1 1 0 .i32
def ldsArgs : Args := args 3 0x88 1 0 .i32

def globalAddr (l : Nat) : Nat := 0x4000 + 4 * l
def scratchAddr (l : Nat) : Nat := 0x01FFFFFF80000000 + 0x100 + 4 * l
def scratchPa (l : Nat) : Nat := 0x100 + 4 * l

theorem placed_lanes {s : State} {e : Mask} {va pa tgt : Nat → Nat} {n : Nat} {rd wr : Bool}
    (h : (e.all fun l => placedB s (va l) n rd wr (tgt l) (pa l)) = true) : ∀ l ∈ e, Spec.Placed s (va l) n rd wr (tgt l) (pa l) :=
  fun l hl => placed_of (List.all_eq_true.mp h l hl)

/-- `ld` from a page, and `lds` from the workgroup's own scratchpad. -/
theorem witness_loadsComplete :
    let h := memoryState.here
    let e := h.execLanes always
    (memoryState.live ∧ h.clean e [1] (pairRegs 1) ∧ h.clean e [1] [8] ∧ h.p.wait = .none ∧ h.t.pen = false) ∧
    (∀ l ∈ e, Spec.pairAddr h ldArgs 0 l = globalAddr l ∧ Spec.windowAddr (Spec.scalarAddr h ldsArgs 0 l) = scratchAddr l) ∧
    (∀ l ∈ e, Spec.Placed memoryState (globalAddr l) 4 true false 0 (globalAddr l)) ∧
    (∀ l ∈ e, Spec.Placed memoryState (scratchAddr l) 4 true false 4 (scratchPa l)) ∧
    (∀ l ∈ e, Spec.Sound memoryState (pKey 0 (globalAddr l)) 4 ∧ Spec.Sound memoryState (pKey 4 (scratchPa l)) 4) ∧
    Spec.roomFor memoryState e.length :=
  ⟨by decide +kernel, by decide +kernel, placed_lanes (tgt := fun _ => 0) (by decide +kernel),
    placed_lanes (tgt := fun _ => 4) (by decide +kernel), by unfold Spec.Sound; decide +kernel, by unfold Spec.roomFor; decide +kernel⟩

/-- Little-endian bytes (00 R5): the word at 0x4004 is 12005678. -/
theorem test_ld_bytes :
    after (exec (.ld ldArgs) memoryState) (fun t => t.here.p.pend.map fun d => d.vals) =
      some [[(0, 0), (1, 0x12005678), (2, 0), (3, 0)]] := by decide +kernel

theorem witness_storesComplete :
    let h := memoryState.here
    let e := h.execLanes always
    (memoryState.live ∧ h.clean e ([1] ++ Spec.elementRegs .i32 3) (pairRegs 1) ∧ h.clean e ([1] ++ Spec.elementRegs .i32 3) [8] ∧
      h.t.pen = false ∧ (memoryState.core 0).posted = [] ∧ (memoryState.core 0).pen = []) ∧
    (∀ l ∈ e, Spec.Placed memoryState (globalAddr l) 4 false true 0 (globalAddr l)) ∧
    (∀ l ∈ e, Spec.Placed memoryState (scratchAddr l) 4 false true 4 (scratchPa l)) ∧
    (∀ l ∈ e, ∀ m ∈ e, m ≠ l → overlap (globalAddr l) 4 (globalAddr m) 4 = false) ∧ Spec.roomFor memoryState e.length :=
  ⟨by decide +kernel, placed_lanes (tgt := fun _ => 0) (by decide +kernel),
    placed_lanes (tgt := fun _ => 4) (by decide +kernel), by decide +kernel, by unfold Spec.roomFor; decide +kernel⟩

theorem witness_accessFrame :
    (∃ t, exec (.ld ldArgs) memoryState = .next t) ∧ (∃ t, exec (.lds ldsArgs) memoryState = .next t) ∧
    (∃ t, exec (.st ldArgs) memoryState = .next t) ∧ ∃ t, exec (.sts ldsArgs) memoryState = .next t :=
  ⟨exists_of_went (by decide +kernel), exists_of_went (by decide +kernel), exists_of_went (by decide +kernel),
    exists_of_went (by decide +kernel)⟩

/-- A scalar base that is no multiple of 4 misaligns lane 0 first; at issue, and in a lookahead window. -/
def crooked : State := { memoryState with teams := [(0, { memoryState.here.t with sregs := [(2, 0x4002), (8, 0x102)] })] }

theorem witness_misalignedAccess :
    let h := crooked.here
    let e := h.execLanes always
    crooked.live ∧ h.clean e ([1] ++ Spec.elementRegs .i32 3) (pairRegs 1) ∧ h.clean e ([1] ++ Spec.elementRegs .i32 3) [8] ∧
    h.p.pendTrap = none ∧ h.t.pen = false ∧ h.p.wait = .none ∧ 0 ∈ e ∧ Spec.pairAddr h ldArgs 0 0 % 4 ≠ 0 ∧
    (∀ m ∈ e, Spec.pairAddr h ldArgs 0 0 ≤ Spec.pairAddr h ldArgs 0 m) ∧ Spec.scalarAddr h ldsArgs 0 0 % 4 ≠ 0 ∧
    (∀ m ∈ e, Spec.scalarAddr h ldsArgs 0 0 ≤ Spec.scalarAddr h ldsArgs 0 m) ∧ ldArgs.ext = 0 ∧ ({ ldArgs with ext := 15 } : Args).ext ≠ 0 := by
  decide +kernel

/-- The peer's page: `ratom` acts there, `atom` on the other page, `atoms` in scratchpad. -/
theorem witness_atomicsComplete :
    let h := memoryState.here
    let e := h.execLanes always
    let c := memoryState.core 0
    (memoryState.live ∧ h.clean e ([1] ++ atomRegs .cas (args 3 0xC1 1 2 .i32)) (pairRegs 1) ∧
      h.clean e ([1] ++ atomRegs .cas (args 3 0x88 1 2 .i32)) [8] ∧ h.t.pen = false ∧ h.p.wait = .none ∧ c.posted = [] ∧ c.l1.dirty = [] ∧
      Ty.i32 ∈ [Ty.b32, .i32, .n32, .i64, .n64, .f32] ∧ (∀ l ∈ e, windowOf (0x40000000 + 4 * l) = none) ∧
      memoryState.memPoison = []) ∧
    (∀ l ∈ e, Spec.pairAddr h (args 3 0xC2 1 2 .i32) 0 l = 0x40000000 + 4 * l) ∧
    (∀ l ∈ e, Spec.Placed memoryState (globalAddr l) 4 true true 0 (globalAddr l)) ∧
    (∀ l ∈ e, Spec.Placed memoryState (0x40000000 + 4 * l) 4 true true 3 (2 ^ 40 + 4 * l)) ∧
    ∀ l ∈ e, Spec.Placed memoryState (scratchAddr l) 4 true true 4 (scratchPa l) :=
  ⟨by decide +kernel, by decide +kernel, placed_lanes (tgt := fun _ => 0) (by decide +kernel),
    placed_lanes (va := fun l => 0x40000000 + 4 * l) (pa := fun l => 2 ^ 40 + 4 * l) (tgt := fun _ => 3) (by decide +kernel),
    placed_lanes (tgt := fun _ => 4) (by decide +kernel)⟩

/-- Lanes that name one address see the value that the lower-numbered lane left (08 R178). -/
theorem test_atom_lane_order :
    after (exec (.atom .add .rlx { withC (args 3 1 0 0 .i32) 1 with md := 3 }) memoryState) (fun t =>
      (t.here.p.pend.map fun d => d.vals, t.mnat 0x4000 4)) = some ([[(0, 0), (1, 1), (2, 2), (3, 3)]], 4) := by decide +kernel

/-- A line with a dirty byte, and a path with a store outstanding. -/
def dirtyCore : State := withCore (fun c => { c with l1 := ⟨[0x4000], [(0x4000, 7)], [0x4000], [], []⟩ }) memoryState
/-- A dirty byte in a pool window of interface 0 that is down (21 R361). -/
def lostLine : State :=
  withCore (fun c => { c with l1 := ⟨[2 * 2 ^ 52], [(2 * 2 ^ 52, 7)], [2 * 2 ^ 52], [], []⟩ })
    { demo with vis := [(0, { Vi.empty with pool := [(0, 0x1000)], poolDown := [0] })] }

def postedCore : State := withCore (fun c => { c with posted := [⟨0, [0], 0x5000, [1, 2], false, 0⟩] }) memoryState

theorem witness_prefetchAndFence :
    dirtyCore.live ∧ dirtyCore.here.t.pen = false ∧ dirtyCore.here.p.wait = .none ∧ Spec.Released dirtyCore 5 ∧
    (lostLine.live ∧ lostLine.here.t.pen = false ∧ lostLine.here.p.wait = .none ∧ (lostLine.core 0).unperformed 0 0 5 = false ∧
      lostLine.poolLost (2 * 2 ^ 52) = true ∧ 2 * 2 ^ 52 ∈ (lostLine.core 0).l1.dirty) ∧
    (0x4000 ∈ (dirtyCore.core 0).l1.dirty ∧ (dirtyCore.core 0).l1.lines.contains (lineOf 0x4000) = true) ∧
    (postedCore.core 0).unperformed 0 0 3 = true ∧ lineOf 0x4000 / 2 ^ 52 ≠ 1 ∧ lineOf 0x4000 / 2 ^ 52 ≠ 2 ∧
    Spec.Settled dirtyCore 0x5000 ∧ Spec.roomFor dirtyCore (dirtyCore.here.execLanes always).length := by
  unfold Spec.Settled Spec.roomFor Spec.Released
  decide +kernel

/-- A release at `.dev` writes the dirty byte to memory (08 R179). -/
theorem test_fence :
    after (exec (.fence .rel { args 0 0 0 0 .b32 with md := 3 }) dirtyCore) (fun t => (t.mget 0x4000, (t.core 0).l1.dirty)) =
      some (7, []) := by decide +kernel

/-! ## Synchronisation -/

theorem objectPlaced_page : Spec.ObjectPlaced memoryState 0x4000 true 2 0 0x4000 :=
  ⟨by decide, by decide, ⟨true, 0, 2 ^ 30, by decide +kernel⟩, by decide⟩

theorem objectPlaced_scratch : Spec.ObjectPlaced memoryState (scratchAddr 0) true 1 4 0x100 :=
  ⟨by decide, by decide, ⟨(0, 0x100), by decide +kernel⟩⟩

/-- The object at 0x4000 binds the line that holds the dirty byte. -/
def boundCore : State :=
  withCore (fun c => { c with l1 := ⟨[0x4040], [(0x4044, 7)], [0x4044], [], []⟩, binds := [⟨0, 0x4000, 0x4040, 64, [0]⟩] }) memoryState

theorem boundByte_line : Spec.BoundByte boundCore 0x4000 0x4044 :=
  ⟨⟨0, 0x4000, 0x4040, 64, [0]⟩, 0x4040, 4, 0, 0x4040, true, 0, 2 ^ 30, by decide +kernel, .inl rfl, by decide, by decide, by decide,
    by decide +kernel, by decide, by decide⟩

def fullTable : List Bind := (List.range 64).map fun n => ⟨0, 0x8000 + 8 * n, 0x10000, 64, [0]⟩

theorem witness_entryConsistency :
    let h := memoryState.here
    memoryState.live ∧ h.clean [] [] (pairRegs 1 ++ pairRegs 2 ++ readRegs (args 0 1 2 8 .b32) [(.c, 8)]) ∧
    (h.t.dget 1).toNat % 8 = 0 ∧ (memoryState.regionSpaces h (h.t.dget 2).toNat (h.ssrc (args 0 1 2 8 .b32) .c 8).toNat).length ≤ 1 ∧
    (memoryState.core 0).binds.length < 64 ∧ h.t.pen = false ∧ (memoryState.core 0).posted = [] ∧ (memoryState.core 0).pen = [] ∧
    Spec.Released memoryState 5 ∧ memoryState.poolLost (pKey 0 0x4000) = false ∧
    (Spec.Released boundCore 5 ∧ 0x4044 ∈ (boundCore.core 0).l1.dirty ∧ (boundCore.core 0).l1.lines.contains (lineOf 0x4044) = true ∧
      (boundCore.core 0).posted = [] ∧ (boundCore.core 0).pen = []) ∧
    (let s := withCore (fun c => { c with binds := fullTable }) memoryState
     (s.core 0).bindOf 0 0x4000 = none ∧ 64 ≤ (s.core 0).binds.length) ∧
    (let s := withCore (fun c => { c with binds := [⟨0, 0x4000, 0x10000, 64, [3]⟩] }) memoryState
     ((s.core 0).bindOf 0 0x4000).isSome = true) := by
  unfold Spec.Released
  decide +kernel

/-- A workgroup that declares one level, alone in its group. -/
def levelGroup (f : Team → Team) : State := { withTeam f with wgs := [(0, { group0 with levels := [⟨1, 1, 1⟩], timeout := 100 })] }

/-- A path that has waited for its stores at a `tbar` for as long as it may. -/
def retryingTbar : State :=
  let s := State.reset.withFetchWord 64 ((encode (.tbar (args 4 0 0 0 .b32))).headD 0)
  { s with teams := s.teams.map fun q => (q.1, { q.2 with paths := q.2.paths.map fun p => (p.1, { p.2 with wait := .retry 2, waited := 300 }) })
           wgs := s.wgs.map fun q => (q.1, { q.2 with timeout := 100 }) }

theorem witness_treeBarriers :
    (let s := levelGroup id
     let h := s.here
     s.live ∧ h.g.level 4 = none ∧ h.g.level 3 = some ⟨1, 1, 1⟩ ∧ h.t.shadow = false ∧ h.p.wait = .none ∧ h.t.pen = false ∧
     Spec.Released s 1 ∧ s.saves = []) ∧
    (levelGroup fun t => { t with shadow := true }).here.t.shadow = true ∧
    (let s := levelGroup fun t => { t with paths := [(0, { path0 with wait := .tree 3 7 })] }
     s.here.p.wait = .tree 3 7 ∧ (s.here.g.treeBar 3).phase ≠ 7) ∧
    (let s := { levelGroup id with wgs := [(0, { group0 with levels := [⟨1, 1, 1⟩], tree := [(3, ⟨0, [0, 1, 2, 3]⟩)] })] }
     ((s.wg 0 0).level 3).isSome = true ∧ (∀ g ∈ s.wgs, g.2.sameGroup (s.wg 0 0) 3 = true → s.treeArrived (g.1 / 16) (g.1 % 16) 3 = true) ∧ (∃ g ∈ s.wgs, g.2.sameGroup (s.wg 0 0) 3 = true ∧ (g.2.treeBar 3).lanes ≠ [])) ∧
    (let s := levelGroup fun t => { t with paths := [(0, { path0 with wait := .tree 3 0, waited := 300 })] }
     s.here.p.mask ≠ [] ∧ s.here.p.wait.timed = true ∧ s.here.p.eclipse = none ∧ s.here.g.timeout ≠ 0 ∧
     3 * s.here.g.timeout ≤ s.here.p.waited) ∧
    (let s := retryingTbar
     let q := s.hereAt ⟨0, 0, 0⟩
     q.p.mask ≠ [] ∧ q.p.wait = .retry 2 ∧ waitsWord (s.wordAt ⟨0, 0, 0⟩ 8) = true ∧ q.p.eclipse = none ∧ q.g.timeout ≠ 0 ∧
     3 * q.g.timeout ≤ q.p.waited ∧ q.execLanes (guardOf (s.wordAt ⟨0, 0, 0⟩ 8 / 2 ^ 16 % 16)) ≠ []) ∧
    (let s := retryingTbar.modPath ⟨0, 0, 0⟩ fun p => { p with wait := .heldDone true }
     (s.hereAt ⟨0, 0, 0⟩).p.wait = .heldDone true ∧ waitsWord (s.wordAt ⟨0, 0, 0⟩ 8) = true) := by
  unfold Spec.Released
  decide +kernel

theorem witness_barriersAndTimelines :
    let h := demo.here
    (demo.live ∧ h.clean [] [] (readRegs (args 1 0 2 0 .b32) [(.b, 2)]) ∧ h.t.pen = false ∧ (demo.core 0).unperformed 0 0 1 = false ∧
      h.p.wait = .none ∧ (h.g.timeline 0).issued < 2 ^ 64 ∧ h.clean [] [] (pairRegs 2)) ∧
    (let s := withWg fun g => { g with nb := [(0, ⟨1, 0, none⟩)], tl := [(0, ⟨2, [(1, ⟨true, 0, 0⟩)], []⟩)] }
     Spec.passed (s.here.g.bar 0).phase 0 ∧ ¬Spec.passed (s.here.g.bar 0).phase 1 ∧
     (s.here.g.timeline 0).issued = 2 ∧ (sget OpStatus.empty (s.here.g.timeline 0).ops 1).done = true ∧
     (sget OpStatus.empty (s.here.g.timeline 0).ops 2).done = false) ∧
    (withPath fun p => { p with wait := .barrier 0 0 }).here.p.wait = .barrier 0 0 ∧
    (withPath fun p => { p with wait := .timeline 0 1 }).here.p.wait = .timeline 0 1 ∧
    Spec.passed (Spec.arrive ⟨0, 0, none⟩ 4 4 4).phase 0 ∧ ¬Spec.passed (Spec.arrive ⟨0, 0, none⟩ 4 64 4).phase 0 := by
  unfold Spec.passed
  decide +kernel

/-- `nbsync` with the count 0 stands for the members, which have all arrived: it goes on at once (08 R183, R184). -/
theorem test_nbsync :
    after (exec (.nbsync (withB (args 0 3 0 0 .b32) 0)) demo) (fun t => (t.here.g.bar 3, t.here.p.pc)) =
      some (⟨1, 0, none⟩, 0x10010) ∧
    after (exec (.nbsync (withB (args 0 3 0 0 .b32) 64)) demo) (fun t => (t.here.g.bar 3, t.here.p.pc)) =
      some (⟨0, 4, some 64⟩, 0x10000) := by decide +kernel

/-- A ring of two slots of 16 bytes at the start of the slices of cores 0 and 1. -/
def ring0 : Ring := ⟨2, 16, [0, 1], 0, 0, 0x100, 0, 0, [], 0, [], false⟩

def ringState (f : Ring → Ring) : State := { demo with clusters := [(0, { Cluster.empty with ring := [(0, f ring0)] })] }

theorem witness_rings :
    (let s := ringState id
     let h := s.here
     let e := h.execLanes always
     let r := sget Ring.empty (s.cluster 0).ring 0
     s.live ∧ r.vi = h.g.vi ∧ r.replay = h.g.replay ∧ h.t.pen = false ∧ h.p.wait = .none ∧ h.clean e [2] [] ∧ r.slots ≠ 0 ∧
     (∀ l ∈ e, 4 * l < r.z) ∧ s.ringLive 0 r = true ∧ (s.core 0).unperformed 0 0 2 = false ∧ (r.slotAt r.wp).full = false ∧
     r.z % 4 = 0 ∧ r.wp < r.slots ∧ r.area + r.slots * r.z ≤ 2 ^ 22) ∧
    (let r := sget Ring.empty ((ringState fun r => { r with slot := [(0, ⟨true, false, [0, 1]⟩)] }).cluster 0).ring 0
     (r.slotAt r.wp).full = true) ∧
    (let s := ringState fun r => { r with slot := [(0, ⟨true, true, [0, 1]⟩)] }
     let r := sget Ring.empty (s.cluster 0).ring 0
     r.cmask.contains 0 = true ∧ (r.slotAt 0).published = true ∧ (r.slotAt 0).mask.contains 0 = true ∧
     (∀ l ∈ lanes4, s.watchHit 0 0 (windowBase + 0 * 2 ^ 22 + r.area + 0 * r.z + 4 * l) 4 true false = none ∧
       s.tagsOf 0 (spKey 0 (r.area + 0 * r.z + 4 * l)) 4 = [] ∧ s.mbad (spKey 0 (r.area + 0 * r.z + 4 * l)) 4 = false)) := by
  decide +kernel

/-- A shadow team in slot 0 whose partner is in slot 1, and the other way round. -/
def shadowPair (shadow : Bool) (w : List (Sparse Word)) : State :=
  { demo with teams := [(0, { team0 with shadow := shadow, partner := some 1, window := if shadow then [] else w }),
                        (1, { team0 with shadow := !shadow, partner := some 0, window := if shadow then w else [] })] }

theorem witness_shadowQueue :
    (let s := shadowPair true []
     s.live ∧ s.here.t.partner = some 1 ∧ s.here.t.shadow = true ∧ s.here.clean lanes4 [2] [] ∧ s.here.t.pen = false ∧
     (s.core 0).unperformed 0 0 1 = false ∧ (s.team 0 1).window.length < 8) ∧
    8 ≤ ((shadowPair true [[], [], [], [], [], [], [], []]).team 0 1).window.length ∧
    (let s := shadowPair false [[(0, 5)], []]
     s.here.t.partner = some 1 ∧ s.here.t.shadow = false ∧ s.here.t.window = [(0, 5)] :: [[]]) ∧
    (demo.here.t.partner = none ∧ demo.here.t.shadow = false) := by decide +kernel

/-- A fibre of two elements in lane 0: 16-bit coordinates at 0x100, `.f16` values at 0x200. -/
def fibreTeam : State :=
  withTeam fun t => { t with sregs := [(4, 0x100), (5, 0x200), (6, 0x1A)], fb := [(1, ⟨0x100, 0x200, 0x1A, [], [(0, 2)]⟩)] }

theorem witness_fibres :
    let h := fibreTeam.here
    let e := h.execLanes always
    let f := h.t.fibre 1
    fibreTeam.live ∧ h.clean e [2, 3] (groupRegs 4 3) ∧ (h.t.sgetr 6).toNat / 64 = 0 ∧ (h.t.sgetr 6).toNat / 16 % 4 = 1 ∧
    Ty.ofCode ((h.t.sgetr 6).toNat % 16) = .f16 ∧ (h.t.sgetr 4).toNat % 2 = 0 ∧ (h.t.sgetr 5).toNat % 2 = 0 ∧
    (fibreTeam.core 0).posted = [] ∧ (fibreTeam.core 0).pen = [] ∧ f.vt = .f16 ∧ e.filter (fun l => f.c l < f.e l) = [0] ∧
    (∀ a ∈ [0x100, 0x200], fibreTeam.spLegal h.g 0 a 2 = true ∧ fibreTeam.watchHit 0 0 (windowBase + a) 2 true false = none ∧
      fibreTeam.spPlace 0 0 a = some (0, a) ∧ fibreTeam.tagsOf 0 (spKey 0 a) 2 = [] ∧ fibreTeam.mbad (spKey 0 a) 2 = false) := by
  decide +kernel

/-! ## Tiles and the matrix engine -/

/-- A 2 × 2 tile of `.f16`; its layout at scratchpad 0x100 with element stride 2 and row stride 4 stands in s8 to s10. -/
def tileF16 : Tile := { Tile.empty with width := 0x0A, rows := 2, cols := 2 }

def tileTeam (t : Team) : Team := { t with sregs := [(8, 0x100), (9, 0x00400002)] }

/-- Tile 0 holds 1, 2, 3, 4 in `.f16`, row by row; tiles 1 and 2 have its shape. -/
def tileGroup (g : Wg) : Wg :=
  { g with tiles := [(0, { tileF16 with data := [(1, 0x3C), (3, 0x40), (257, 0x42), (259, 0x44)] }), (1, tileF16), (2, tileF16)] }

def tileState : State := { withTeam tileTeam with wgs := [(0, tileGroup group0)] }

theorem plain_tiles : Spec.Plain tileState := ⟨rfl, rfl, by decide +kernel, fun _ => rfl, rfl⟩

theorem ready_tiles (must : Bool) :
    Spec.TileReady tileState (tileState.here.g.tile 0) (tileState.here.layout 8) none must :=
  ⟨by decide +kernel, by decide +kernel, by decide +kernel, by decide +kernel, fun _ => by decide +kernel⟩

def busyTile : State := { tileState with wgs := [(0, { tileGroup group0 with tiles := [(0, { tileF16 with loading := true })] })] }

theorem witness_tiles :
    let h := tileState.here
    (tileState.live ∧ h.clean [] [] (groupRegs 8 3 ++ (optScalar 0).toList) ∧ h.tileHeld tileState 0 = false ∧
      (h.g.tile 0).loading = false ∧ (h.g.tile 0).poisonedData = false ∧ (h.g.tile 0).poisonedScale = false ∧ (h.g.tile 0).bits ≠ 4 ∧ optScalar 0 = none) ∧
    Spec.TileReady tileState (h.g.tile 0) (h.layout 8) none true ∧ Spec.Plain tileState ∧
    busyTile.here.tileHeld busyTile 0 = true ∧ (busyTile.here.g.tile 0).loading = true ∧
    (∀ q ∈ [(0, 0), (0, 1), (1, 0), (1, 1)], Spec.elementKey tileState (h.layout 8) 16 q.1 q.2 + 8 ≤ 5 * 2 ^ 52) ∧
    (∀ q ∈ [(0, 0), (0, 1), (1, 0), (1, 1)], ∀ p ∈ [(0, 0), (0, 1), (1, 0), (1, 1)], p ≠ q →
      overlap (Spec.elementKey tileState (h.layout 8) 16 q.1 q.2) 2 (Spec.elementKey tileState (h.layout 8) 16 p.1 p.2) 2 = false) :=
  ⟨by decide +kernel, ready_tiles true, plain_tiles, by decide +kernel, by decide +kernel, by decide +kernel, by decide +kernel⟩

/-- A row of 64 MX elements of 4 bits: two in a byte, two scale codes at 0x300. -/
def nibbleTile : Tile := { Tile.empty with width := 0x0E, rows := 1, cols := 64, scale := 1, codes := [(1, 0x7F)], data := [(0, 0x21)] }

/-- A row of 128 Q4N elements: two codes, and a super-scale behind them. -/
def superTile : Tile := { nibbleTile with width := 0x0F, cols := 128, scale := 2 }

def nibbleState : State :=
  { withTeam fun t => { t with sregs := [(8, 0x200), (12, 0x300)] } with
    wgs := [(0, { group0 with tiles := [(0, nibbleTile)] })] }

theorem witness_tiles_scaled :
    let s := nibbleState
    let b := s.here.g.tile 0
    let l := s.here.layout 8
    (b.bits = 4 ∧ b.blocks = 2 ∧ b.nrows = 1 ∧ b.ncols = 64 ∧ (superTile.blocks, superTile.superOff, superTile.superCount) = (2, 4, 1)) ∧
    Spec.TileReady s b l (some 12) true ∧
    (Spec.scaleByte b 1 = some 0x7F ∧ (Spec.scaleByte superTile 4).isSome = true ∧ Spec.scaleByte superTile 2 = none) ∧
    (l.nib 0 0, l.nib 0 1) = (0, 1) ∧ Spec.elementKey s l 4 0 0 = Spec.elementKey s l 4 0 1 :=
  ⟨by decide +kernel, ⟨by decide +kernel, by decide +kernel, by decide +kernel, by decide +kernel, by decide +kernel⟩,
    by decide +kernel, by decide +kernel, by decide +kernel⟩

theorem storeFits_nibble : Spec.storeFits nibbleState nibbleTile (nibbleState.here.layout 8) (some 12) := by
  have h : ∀ i < 1, ∀ j < 64, Spec.elementKey nibbleState (nibbleState.here.layout 8) 4 i j + 8 ≤ 5 * 2 ^ 52 := by decide +kernel
  refine ⟨fun i j hi hj => h i hi j hj, fun r hr => ?_⟩
  obtain rfl : 12 = r := by simpa using hr
  decide +kernel

theorem noScale_nibble :
    Spec.noScale nibbleState nibbleTile (some 12) (Spec.elementKey nibbleState (nibbleState.here.layout 8) 4 0 0) 1 := by
  intro r i v hr hv
  obtain rfl : 12 = r := by simpa using hr
  rcases Nat.lt_or_ge i 2 with hi | hi
  · have hi : i = 0 ∨ i = 1 := by omega
    rcases hi with rfl | rfl <;> decide +kernel
  · have hb : nibbleTile.blocks = 2 := by decide +kernel
    have ho : nibbleTile.superOff = 4 := by decide +kernel
    have hc : nibbleTile.superCount = 0 := by decide +kernel
    unfold Spec.scaleByte at hv
    rw [if_neg (by omega), if_neg (by omega)] at hv
    cases hv

/-- `tst` puts element (1, 0) at BASE + S1 (04 R105): 3 is 4200 in `.f16`. -/
theorem test_tst :
    after (exec (.tst (args 0 8 0 0 .b32)) tileState) (fun t => t.mnat (spKey 0 0x104) 2) = some 0x4200 := by decide +kernel

theorem test_tzero :
    after (exec (.tzero (args 0 0 0 0 .b32)) tileState) (fun t => ((t.here.g.tile 0).zf, (t.here.g.tile 0).elem 1 1)) =
      some (true, 0) := by decide +kernel

/-- Four products of ones make 2 in each cell of a 2 × 2 step; the step ends an `mma` of path 0. -/
def stepEnd (rerun : Bool) (path : Option Nat) : State :=
  withCore (fun c => { c with gated := false, running := some ⟨5, 0, 0, 1, 0, 1, path, 0, false, 1, rerun, 0, 0⟩ })
    { tileState with
      teams := [(0, { tileTeam team0 with paths := [(0, { path0 with wait := .matrix 5 })] })],
      wgs := [(0, { tileGroup group0 with
        tiles := [(0, { tileF16 with data := [(1, 0x3C), (3, 0x40), (257, 0x42), (259, 0x44)] }),
                  (1, { tileF16 with data := [(1, 0x3C), (3, 0x3C), (257, 0x3C), (259, 0x3C)] })] })] }

/-- [1 2; 3 4] × [1 1; 1 1] = [3 3; 7 7] in FP32 cells of accumulator 1 (09 R201, R207), and the `mma` goes on. -/
theorem test_matrix_step :
    after (exec (.matrixStepEnd 0 0) (stepEnd false (some 0))) (fun t =>
      ([0, 1, 128, 129].map fun c => sget 0 (t.wg 0 0).accs (8192 + c), t.here.p.pc)) =
      some ([0x40400000, 0x40400000, 0x40E00000, 0x40E00000], 0x10008) := by decide +kernel

theorem stepReady_tiles : Spec.StepReady tileState (args 0 0 1 0 .f32) :=
  ⟨by decide +kernel, by decide +kernel, by decide +kernel, by decide +kernel, by decide +kernel, by decide +kernel,
    by decide +kernel, by decide +kernel⟩

theorem not_matrix {w : Wait} (h : w = .none) (k : Nat) : w ≠ .matrix k := by
  rw [h]
  exact Wait.noConfusion

theorem witness_matrixSteps :
    (tileState.live ∧ Spec.StepReady tileState (args 0 0 1 0 .f32)) ∧
    ((∀ k, tileState.here.p.wait ≠ .matrix k) ∧ tileState.accBusy 0 0 0 = false ∧ tileState.mmaBusy 0 0 0 0 = false) ∧
    (let c := (withCore (fun c => { c with gated := false, mqueue := [tileStep] }) tileState).core 0
     c.running = none ∧ c.mqueue = [tileStep] ∧ c.gated = false ∧ c.waking = false ∧ c.engineOut = false) ∧
    (let s := stepEnd false (some 0)
     let g := s.wg 0 0
     (s.core 0).running = some ⟨5, 0, 0, 1, 0, 1, some 0, 0, false, 1, false, 0, 0⟩ ∧ (s.core 0).runLeft = 0 ∧
     (g.tile 1).ncols ≤ 128 ∧ (g.tile 0).nrows ≤ 64 ∧ (g.tile 1).nrows = (g.tile 0).ncols) ∧
    (let s := stepEnd true (some 0)
     (s.core 0).running = some ⟨5, 0, 0, 1, 0, 1, some 0, 0, false, 1, true, 0, 0⟩ ∧ (s.core 0).runLeft = 0 ∧
     (s.path ⟨0, 0, 0⟩).pendTrap = none ∧ (s.path ⟨0, 0, 0⟩).inh = false ∧ (s.wg 0 0).trapEntry ≠ 0xFFFFFFFF ∧
     0 = (s.team 0 0).w) :=
  ⟨⟨by decide +kernel, stepReady_tiles⟩,
    ⟨fun k => not_matrix (by decide +kernel) k, by decide +kernel, by decide +kernel⟩,
    by decide +kernel, by decide +kernel, by decide +kernel⟩

def batchTeam : State :=
  { tileState with teams := [(0, { tileTeam team0 with
      batches := [⟨1, true, some (3, 1), false, [0], []⟩, ⟨2, false, none, false, [1], []⟩], nextBatch := 3 })] }

theorem witness_matrixBatches :
    batchTeam.live ∧ (batchTeam.here.t.batches.filter fun b => !b.closed).length ≤ 1 ∧
    (batchTeam.core 0).unperformed 0 0 1 = false ∧ (postedCore.live ∧
      ((withCore (fun c => { c with posted := [⟨0, [0], spKey 1 0, [1], false, 0⟩] }) demo).core 0).unperformed 0 0 1 = true) ∧
    (batchTeam.here.t.batches.filter fun b => b.tl.isSome && b.accs != []).length ≤ 1 ∧
    0 < (batchTeam.here.t.batches.filter fun b => b.tl.isSome && b.accs != []).length := by decide +kernel

theorem witness_accumulators :
    let h := tileState.here
    let x := withB (args 2 0 0 0 .f32) 0x1FE0
    (tileState.live ∧ h.p.mask = h.t.member ∧ h.clean [] [] (readRegs x [(.b, x.b)]) ∧ h.clean h.p.mask [x.a] (readRegs x [(.b, x.b)]) ∧
      (h.ssrc x .b x.b).toNat % 32 = 0 ∧ (h.ssrc x .b x.b).toNat + h.t.width ≤ 8192 ∧ tileState.accBusy 0 h.t.w 0 = false ∧
      (∀ l ∈ h.t.member, h.g.accPoison.contains (0 * 8192 + (h.ssrc x .b x.b).toNat + l) = false)) ∧
    (let b := batchTeam
     b.accBusy 0 0 0 = true ∧ b.live ∧ b.here.p.mask = b.here.t.member ∧ b.here.clean [] [] (readRegs x [(.b, x.b)]) ∧
     b.here.clean b.here.p.mask [x.a] (readRegs x [(.b, x.b)]) ∧ (b.here.ssrc x .b x.b).toNat % 32 = 0 ∧
     (b.here.ssrc x .b x.b).toNat + b.here.t.width ≤ 8192 ∧ b.here.tileHeld b 2 = false ∧ (b.here.g.tile 2).valid = true ∧
     (b.here.g.tile 2).ncols ≤ 128 ∧ (b.here.g.tile 2).mode = 0) ∧
    (let wide : Tile := { tileF16 with width := 0x0C, cols := 129 }
     wide.valid = true ∧ 128 < wide.ncols ∧ superTile.valid = true ∧ superTile.mode ≠ 0) ∧
    (let d := h.g.tile 2
     h.tileHeld tileState 2 = false ∧ d.valid = true ∧ d.ncols ≤ 128 ∧ d.mode = 0 ∧ h.g.accPoisoned 0 d.nrows d.ncols = false) := by
  decide +kernel

/-- The last member lane of a team of width 32 at base 8,160 reads the last cell (09 R207). -/
theorem test_awrite :
    after (exec (.awrite (withB (args 2 1 0 0 .b32) 0x1FE0)) { withTeam fun t => { t with vregs := lane 1 [5, 6, 7, 8] } with
      wgs := [(0, tileGroup group0)] }) (fun t => sget 0 t.here.g.accs (2 * 8192 + 0x1FE3)) = some 8 := by decide +kernel

/-! ## Engines -/

/-- Layout of 32-bit elements at 0x400 in s8 to s10 and entry 0 in s11; d10 is 0x4000; s24 the extent 8 × 1 × 1; s32 on a gather's
descriptor; s40 the count of a collective. -/
def engineTeam (t : Team) : Team :=
  { t with sregs := [(8, 0x400), (9, 0x01000004), (20, 0x4000), (24, 8), (32, 0x200), (33, 2), (34, 4), (35, 16), (36, 10), (37, 0x300),
                     (38, 2), (40, 8)] }

def engineReplay : Replay :=
  { id := 0, gslot := 0, kseq := 0, ptab := 0, started := true, ended := false, nodes := [], mc := [(0, ⟨0, 1, 0, false, none⟩)] }

/-- Communicator 0 has this core alone (09 R215, 21 R364). -/
def engineState : State :=
  { paged engineTeam with vis := [(0, { Vi.empty with ptroot := 0x1000, replays := [engineReplay], comm := [(0, [(0, 0)])] })] }

def engineArgs (c : Nat) : Args := args 3 8 10 c .f32

theorem witness_engineRequests_copies :
    let s := engineState
    let q1 := Spec.copyRequest s (engineArgs 24) .cpyIn
    let q2 := Spec.castRequest s (engineArgs 24)
    let q3 := Spec.copyRequest s (engineArgs 25) .cpyOut
    (s.live ∧ s.here.clean [] [] q1.regs ∧ s.here.clean [] [] q2.regs ∧ s.here.t.pen = false ∧
      (s.core 0).room (Spec.opOf s q1) = true ∧ (Spec.opOf s q1).nothing = false ∧ (Spec.opOf s q3).nothing = true ∧
      Spec.Released s 1 ∧
      ((withCore (fun c => { c with posted := [⟨0, [0], spKey 1 0, [1], false, 0⟩] }) s).core 0).unperformed 0 0 1 = true) ∧
    Spec.request s (.cpyToScratchpad (engineArgs 24)) = some q1 ∧ q1.ok ∧ Spec.request s (.cpym (engineArgs 24)) = some q2 ∧ q2.ok ∧
    Spec.request s (.cpyToMemory (engineArgs 25)) = some q3 ∧ q3.ok := by
  refine ⟨by unfold Spec.Released; decide +kernel, rfl, ?_, rfl, ?_, rfl, ?_⟩ <;>
    simp only [Spec.copyRequest, Spec.castRequest, Spec.inReach, Spec.copyMemory] <;> decide +kernel

theorem witness_engineRequests_rows :
    let s := engineState
    let d := Spec.descWord s (engineArgs 32)
    let q1 := Spec.rowRequest s (engineArgs 32) (.gath (d 0) (d 1) (d 2) (d 3) (d 4))
    let q2 := Spec.poolRequest s .mean (engineArgs 32)
    (s.here.clean [] [] q1.regs ∧ s.here.clean [] [] q2.regs ∧ (s.core 0).room (Spec.opOf s q1) = true ∧
      (s.core 0).room (Spec.opOf s q2) = true) ∧
    Spec.request s (.gath (engineArgs 32)) = some q1 ∧ q1.ok ∧ Spec.request s (.gpool .mean (engineArgs 32)) = some q2 ∧ q2.ok := by
  refine ⟨by decide +kernel, rfl, ?_, rfl, ?_⟩ <;>
    simp only [Spec.rowRequest, Spec.poolRequest, Spec.gatherOk, Spec.inReach] <;> decide +kernel

theorem witness_engineRequests_collectives :
    let s := engineState
    let q := Spec.collRequest s (engineArgs 40) (.alltoall (Spec.descWord s (engineArgs 40) 1)) true
    (s.here.clean [] [] q.regs ∧ (s.core 0).room (Spec.opOf s q) = true ∧ (Spec.opOf s q).isColl = true ∧
      Spec.Released s 5 ∧
      ((withCore (fun c => { c with posted := [⟨0, [0], pKey 3 0, [1], true, 0⟩] }) s).core 0).unperformed 0 0 5 = true) ∧
    Spec.request s (.collAlltoall (engineArgs 40)) = some q ∧ q.ok := by
  refine ⟨by unfold Spec.Released; decide +kernel, rfl, ?_⟩
  simp only [Spec.collRequest, Spec.inReach]
  decide +kernel

/-- An engine without room: eight copies. -/
def someCopy (k : Nat) : EngOp := { Spec.opOf engineState (Spec.copyRequest engineState (engineArgs 24) .cpyIn) with id := k, num := 1 }

theorem witness_engineRequests_full :
    let s := withCore (fun c => { c with ops := (List.range 8).map someCopy }) engineState
    (s.core 0).room (Spec.opOf s (Spec.copyRequest s (engineArgs 24) .cpyIn)) = false := by decide +kernel

/-- A copy under way on core 0, with its translation in the TLB. -/
def copying (o : EngOp) : State :=
  withCore (fun c => { c with ops := [o], tlb := [⟨0, 0, 2 ^ 30, 0, 0, true⟩] })
    { engineState with wgs := [(0, { group0 with tl := [(3, ⟨1, [], []⟩)] })], mem := pageTables ++ [(0x4000, 9)] }

theorem quiet_copy : Spec.Quiet (copying (someCopy 4)) 0 (someCopy 4) :=
  ⟨by decide +kernel, by decide +kernel, by decide +kernel, by decide +kernel, by decide +kernel, by decide +kernel,
    by decide +kernel, by decide +kernel, by decide +kernel⟩

/-- Three copies that cannot complete: into an unmapped page, into a page that the host owns, and a collective of a core that its
communicator does not list. -/
def farCopy : EngOp := { someCopy 4 with da := 0x80000000 }
def lonely : EngOp := { someCopy 4 with kind := .alltoall 5 }

theorem witness_engineEnds :
    (engineState.live ∧ engineState.here.clean [] [] (pairRegs 10)) ∧
    ((copying (someCopy 4)).findOp 0 4 = some (someCopy 4) ∧ (someCopy 4).isCopy = true ∧ 0 ∈ (someCopy 4).left ∧
      (someCopy 4).ty.bits ≠ 4) ∧
    Spec.Quiet (copying (someCopy 4)) 0 (someCopy 4) ∧
    ((copying farCopy).findOp 0 4 = some farCopy ∧ farCopy.parked = none ∧ (copying farCopy).faultRoom 0 1 = true ∧
      (ringFull (copying farCopy)).faultRoom 0 1 = false ∧
      (copying farCopy).opFault 0 farCopy = some (0x80000000, .bad true 0x01 0x80000000 3)) ∧
    (let s := { copying farCopy with mem := pageTables ++ [(0x3010, 0x0D)] }
     s.opFault 0 farCopy = some (0x80000000, .bad false 0x02 0x80000000 2)) ∧
    ((copying lonely).findOp 0 4 = some lonely ∧ lonely.isColl = true ∧ (copying lonely).commBroken 0 lonely = true ∧ lonely.errs = []) :=
  ⟨by decide +kernel, by decide +kernel, quiet_copy, by decide +kernel, by decide +kernel, by decide +kernel⟩

/-- The copy moves its first word into scratchpad, and its number reads as done (09 R210, R216). -/
theorem test_copy :
    after (exec (.copyComplete 0 4) (copying (someCopy 4))) (fun t =>
      (t.mnat (spKey 0 0x400) 4, sget OpStatus.empty ((t.wg 0 0).timeline 3).ops 1)) = some (9, ⟨true, 0, 0⟩) := by decide +kernel

/-! ## The limit accumulator -/

/-- la0 of three entries and K = 1, its area at scratchpad 0x200; s8 to s11 hold the same configuration. -/
def laReg : La := ⟨true, 0, 3, 1, 0, 0, 0x200⟩

def laTeam (t : Team) : Team :=
  { t with la := [(0, laReg)], sregs := [(8, 0x200), (9, 0x00010030)], vregs := lane 2 [0x3F800000, 0x40000000] }

def laState : State := withTeam laTeam

theorem plain_la : Spec.Plain laState := ⟨rfl, rfl, by decide +kernel, fun _ => rfl, rfl⟩

theorem areaOk_la : Spec.AreaOk laState laReg (laState.here.execLanes always) :=
  ⟨by decide +kernel, by decide +kernel, by decide +kernel, by decide +kernel, by decide +kernel, by decide +kernel⟩

theorem witness_limitAccumulator :
    (let h := laState.here
     let e := h.execLanes always
     let r := fun i => h.t.sgetr (8 + i)
     let v := (r 1).toNat
     laState.live ∧ h.clean [] [] (groupRegs 8 4) ∧ v % 4 ≠ 3 ∧ 3 ≤ v / 16 % 16 ∧ v / 16 % 16 ≤ 8 ∧ v / 2 ^ 16 ≠ 0 ∧ v / 4 % 4 = 0 ∧
     v / 256 % 256 = 0 ∧ negOrNan (r 2).toNat = false ∧ negOrNan (r 3).toNat = false ∧ (r 0).toNat % 16 = 0 ∧
     h.t.laOf 0 = laReg ∧ h.clean e (readRegs (args 0 2 0 0 .f32) [(.a, 2)]) [] ∧
     (∀ l ∈ e, laReg.statusOk (Spec.laWord laState laState laReg l 3) = true) ∧
     (∀ l ∈ e, (Spec.laWord laState laState laReg l 1 + 1) % 2 ^ 32 = laReg.k)) ∧
    Spec.Plain laState ∧ Spec.AreaOk laState ⟨true, 0, 3, 1, 0, 0, 0x200⟩ [] ∧
    Spec.AreaOk laState laReg (laState.here.execLanes always) :=
  ⟨by decide +kernel, plain_la, ⟨by decide +kernel, by decide +kernel, by decide +kernel, by decide +kernel, by decide, by decide⟩, areaOk_la⟩

/-- Aitken's estimate of 1, 1.5, 1.75 is 2, with VALID; two entries give SUM (10 R224, R225). -/
theorem test_limit_examples : Spec.limitExamples := by
  unfold Spec.limitExamples
  decide +kernel

/-- One term with K = 1 is pushed: SUM 1, CNT 0, one entry, head 1 (10 R222). -/
theorem test_laadd :
    after (exec (.laadd (args 0 2 0 0 .f32)) laState) (fun t =>
      [0, 1, 2, 3].map fun i => t.areaGet t.here (laReg.wordAt 32 0 i)) = some [0x3F800000, 0, 0, 0x110] := by decide +kernel

/-! ## Forecasts -/

/-- fs0 of workgroup 0: a 1 × 2 tile of `.f32` at 0x5000, its object at 0x4000, its area at scratchpad 0x800. -/
def slot0 : Fs := { Fs.empty with bound := true, obj := 0x4000, rows := 1, cols := 2, fmt := 9, area := 0x800 }

def slotBind : Bind := ⟨0, 0x4000, 0x5000, 8, [0]⟩

def forecastTeam (t : Team) : Team :=
  { t with sregs := [(2, 0x4000), (8, 0x900), (9, 0x00800004), (20, 0x00200109), (24, 0x800)] }

/-- The slot holds one version of 1 and 2 in its area (NVER at 0x810, copy V at 0x840). -/
def forecastState (f : Fs → Fs) (g : Team → Team) (more : List Host.Cell) : State :=
  withCore (fun c => { c with fs := [(0, f slot0)], binds := [slotBind] })
    { paged (fun t => g (forecastTeam t)) with mem := pageTables ++ more }

def oneVersion : List Host.Cell := [(spKey 0 0x810, 1), (spKey 0 0x842, 0x80), (spKey 0 0x843, 0x3F), (spKey 0 0x847, 0x40)]

theorem tags_of_one {s : State} {c0 : CoreSt} (h : s.cores = [(0, c0)]) (h0 : c0.tags = []) : ∀ c, (s.core c).tags = [] := by
  intro c
  unfold State.core
  rw [h]
  simp only [sget]
  split
  · exact h0
  · rfl

theorem plain_forecast : Spec.Plain (forecastState id id oneVersion) :=
  ⟨by decide +kernel, by decide +kernel, by decide +kernel, tags_of_one rfl rfl, rfl⟩

theorem slotArea_forecast : Spec.slotArea (forecastState id id oneVersion) slot0 :=
  ⟨by decide +kernel, by decide +kernel, by decide⟩

theorem witness_fcbind :
    (let s := forecastState id id oneVersion
     let h := s.here
     let r := fun i => h.t.sgetr (20 + i)
     let v := (r 0).toNat
     s.live ∧ h.clean [] [] (pairRegs 1 ++ groupRegs 20 5) ∧ (h.t.dget 1).toNat % 8 = 0 ∧
     (s.core 0).bindOf 0 (h.t.dget 1).toNat = some slotBind ∧ h.t.w ∈ slotBind.holders ∧ v / 2 ^ 8 % 2 ^ 12 ≠ 0 ∧ v / 2 ^ 20 ≠ 0 ∧
     Ty.ofCode (v % 16) = .f32 ∧ v / 16 % 16 = 0 ∧ negOrNan (r 1).toNat = false ∧ negOrNan (r 2).toNat = false ∧
     ((s.core 0).fsOf 0).owner = h.t.w ∧ ((s.core 0).fsOf 0).isOpen = false ∧ (s.tileRegion h 0x4000 slot0.bytes).isSome = true ∧
     (r 4).toNat % 64 = 0) ∧
    Spec.Plain (forecastState id id oneVersion) ∧ Spec.slotArea (forecastState id id oneVersion) slot0 :=
  ⟨by decide +kernel, plain_forecast, slotArea_forecast⟩

theorem placed_byte {s : State} {h : Here} {va : Nat} (hp : (match s.place h va false with | .ok .. => true | .bad .. => false) = true) :
    ∃ tgt pa w b z, s.place h va false = .ok tgt pa w b z := by
  revert hp
  cases s.place h va false with
  | ok t p w b z => exact fun _ => ⟨t, p, w, b, z, rfl⟩
  | bad a b c d => intro hp; cases hp

theorem readable_region (s : State) (h : Here) (base n : Nat) (hw : windowOf base = none)
    (hp : (List.range n).all (fun i => match s.place h (base + i) false with | .ok .. => true | .bad .. => false) = true) :
    Spec.readable s h base n :=
  ⟨fun i hi => placed_byte (List.all_eq_true.mp hp i (List.mem_range.mpr hi)), fun sa hsa => by rw [hw] at hsa; cases hsa⟩

theorem witness_fcrec :
    (let s := forecastState id id oneVersion
     s.here.boundFs ((s.core 0).fsOf 0) = true ∧ ((s.core 0).fsOf 0).isOpen = false ∧
     s.tileRegion s.here 0x4000 ((s.core 0).fsOf 0).bytes = some 0x5000) ∧
    Spec.readable (forecastState id id oneVersion) (forecastState id id oneVersion).here 0x5000 8 ∧
    Spec.readable (forecastState id id oneVersion) (forecastState id id oneVersion).here 0x4000 8 ∧
    Spec.roomFor (forecastState id id oneVersion) (slot0.bytes / 64 + 4) :=
  ⟨by decide +kernel, readable_region _ _ _ _ (by decide) (by decide +kernel), readable_region _ _ _ _ (by decide) (by decide +kernel),
    by unfold Spec.roomFor; decide +kernel⟩

theorem witness_fctake :
    (let s := forecastState id id oneVersion
     let h := s.here
     let f := (s.core 0).fsOf 0
     let l := h.layout 8
     s.live ∧ h.clean [] [] (groupRegs 8 3) ∧ h.boundFs f = true ∧ f.isOpen = false ∧ h.t.ids.length < 4 ∧ f.ty = .f32 ∧
     ofBytes (s.areaBytes h f.nverAt 4) ≠ 0 ∧ l.misaligned 32 = false ∧ s.spanFail h.g 0 l.base (l.span 32 1 1 2) = none ∧
     (s.core 0).freeId = some 1 ∧ s.cur.core < 384 ∧ (∀ j ∈ [0, 1], ∀ k ∈ [0, 1, 2, 3],
       h.ownKey (Spec.elementKey s l 32 0 j + k) = true ∧ Spec.elementKey s l 32 0 j + k < 5 * 2 ^ 52)) := by
  decide +kernel

/-- With one version the forecast is that version, under every mode (10 R231): 1 and 2 at the layout's place. -/
theorem test_fctake :
    after (exec (.fctake .linear (args 6 0 8 0 .b32)) (forecastState id id oneVersion)) (fun t =>
      (t.mnat (spKey 0 0x900) 4, t.mnat (spKey 0 0x904) 4, t.here.t.sgetr 6, t.here.t.ownIds)) =
      some (0x3F800000, 0x40000000, 1, [1]) := by decide +kernel

/-- An open speculation of the issuing team on fs0. -/
def openSlot (f : Fs) : Fs := { f with isOpen := true, id := 1 }

def openTeam (w : Wait) (t : Team) : Team := { t with ownIds := [1], paths := [(0, { path0 with wait := w })] }

def openState (w : Wait) : State :=
  withCore (fun c => { c with fs := [(0, openSlot slot0)], binds := [slotBind], ids := [(1, .unresolved)],
                              tlb := [⟨0, 0, 2 ^ 30, 0, 0, true⟩] })
    { paged (fun t => openTeam w (forecastTeam t)) with mem := pageTables ++ oneVersion }

theorem not_failed {w : Wait} (h : w = .none) (n va : Nat) : w ≠ .compareFail n va := by
  rw [h]
  exact Wait.noConfusion

theorem not_commit {w : Wait} (h : w = .none) (a : DWord) (j : Bool) : w ≠ .commit a j := by
  rw [h]
  exact Wait.noConfusion

theorem not_compare {w : Wait} (h : w = .none) (n : Nat) : w ≠ .compare n := by
  rw [h]
  exact Wait.noConfusion

theorem objectPlaced_open : Spec.ObjectPlaced (openState .none) 0x4000 false 1 0 0x4000 :=
  ⟨by decide, by decide, ⟨true, 0, 2 ^ 30, by decide +kernel⟩, by decide⟩

theorem witness_spres :
    (let s := openState .none
     let h := s.here
     let f := (s.core 0).fsOf 0
     s.live ∧ h.ownsFs f = true ∧ f.gone = false ∧ h.t.flushing = false ∧ h.clean [] [] (pairRegs 4) ∧ (s.core 0).l1.dirty = [] ∧
     ((s.core 0).tlbHit 0 f.obj).isSome = true ∧ (s.tileRegion h f.obj f.bytes).isSome = true ∧ h.p.wait.tries = true) ∧
    (Wait.spres 0).tries = false ∧
    (∀ a j, (openState .none).here.p.wait ≠ .commit a j) ∧ (∀ n va, (openState .none).here.p.wait ≠ .compareFail n va) ∧
     (∀ n, (openState .none).here.p.wait ≠ .compare n) ∧
    Spec.ObjectPlaced (openState .none) 0x4000 false 1 0 0x4000 ∧
    (let s := withCore (fun c => { c with fs := [(0, { openSlot slot0 with gone := true })] }) (openState .none)
     s.here.ownsFs ((s.core 0).fsOf 0) = true ∧ ((s.core 0).fsOf 0).gone = true) :=
  ⟨by decide +kernel, rfl, fun a j => not_commit (by decide +kernel) a j, fun n va => not_failed (by decide +kernel) n va, fun n => not_compare (by decide +kernel) n, objectPlaced_open,
    by decide +kernel⟩

/-- The compare of fs0: no bad element is allowed, and a copy P that differs in one; MAXBAD 1 would allow it. -/
theorem witness_compare :
    (let s := openState (.compare 0)
     let f := (s.core 0).fsOf 0
     let bad := badCount f (s.coreView s.here 0x5000 f.bytes) (s.areaBytes s.here (f.copyAt 2) f.bytes)
     s.comparing 0 0 = some ⟨0, 0, 0⟩ ∧ (s.hereAt ⟨0, 0, 0⟩).p.wait = .compare 0 ∧ s.here.t.life ≠ .free ∧
     s.tileRegion s.here f.obj f.bytes = some 0x5000 ∧ f.gone = false ∧
     bad ≤ f.maxbad.toNat) ∧
    (let s := { openState (.compare 0) with mem := pageTables ++ [(0x5003, 0x40)] ++ oneVersion }
     let f := (s.core 0).fsOf 0
     f.maxbad.toNat < badCount f (s.coreView s.here 0x5000 f.bytes) (s.areaBytes s.here (f.copyAt 2) f.bytes)) ∧
    Spec.readable (openState (.compare 0)) (openState (.compare 0)).here 0x5000 8 ∧ ∀ c, ((openState (.compare 0)).core c).tags = [] :=
  ⟨by decide +kernel, by decide +kernel, readable_region _ _ _ _ (by decide) (by decide +kernel), tags_of_one rfl rfl⟩

def deferredStore : DefEntry := ⟨5, 0, 0, [], 1, .store [(0x6000, 5)] false⟩

/-- A team whose deferred operations are being performed; this is the only one. -/
def flushState (op : DefOp) (s : State) : State :=
  withCore (fun c => { c with pen := [{ deferredStore with op := op }] })
    { s with teams := [(0, { s.team 0 0 with flushing := true, paths := [(0, path0)] })] }

theorem witness_deferred :
    (let s := flushState deferredStore.op demo
     (s.team 0 0).flushing = true ∧ (s.core 0).penDue 0 = deferredStore :: [] ∧ s.defReady 0 deferredStore = true ∧
     (s.core 0).posted = [] ∧ (s.core 0).penOf 0 = [deferredStore] ∧ (s.core 0).l1.lines.length + 1 ≤ 2048 ∧
     s.awaited 0 deferredStore.id = false) ∧
    ({ engineState with cores := [(0, { CoreSt.empty with ops := [{ someCopy 0 with awaits := [5] }] })] }.awaited 0 5 = true) ∧
    (let op := .erel 0 0x4000 0x4000 5 3
     (flushState op memoryState).defReady 0 { deferredStore with op := op } = true ∧ 0x4000 % 8 = 0) ∧
    (let op := .nbarr 3 4 64
     (flushState op demo).defReady 0 { deferredStore with op := op } = true) ∧
    (let op := .rput 0 [(0, 5)]
     let s := flushState op (ringState id)
     s.defReady 0 { deferredStore with op := op } = true ∧ s.ringLive 0 (s.ringOf (s.hereAt ⟨0, 0, 0⟩) 0) = true) ∧
    (let op := .qput [(0, 5)]
     let q := shadowPair true []
     let s := withCore (fun c => { c with pen := [{ deferredStore with op := op }] })
       { q with teams := [(0, { q.team 0 0 with flushing := true }), (1, q.team 0 1)] }
     s.defReady 0 { deferredStore with op := op } = true ∧ (s.team 0 0).partner = some 1 ∧ (s.team 0 1).partner = some 0) ∧
    (let op := .engine (someCopy 0)
     (flushState op engineState).defReady 0 { deferredStore with op := op } = true ∧ (someCopy 0).nothing = false) ∧
    (let s := withTeam fun t => { t with flushing := true }
     (s.team 0 0).flushing = true ∧ (s.core 0).penDue 0 = []) ∧
    (let s := withCore (fun c => { c with ids := [(1, .committed)] }) (withPath fun p => { p with wait := .held [1] })
     (s.path ⟨0, 0, 0⟩).wait = .held [1] ∧ (s.core 0).heldVerdict [1] = some true) := by decide +kernel

theorem witness_spjoin :
    (demo.live ∧ demo.here.t.inhIds = [] ∧ demo.here.t.squashed = false ∧ demo.here.t.flushing = false ∧ (demo.core 0).penDue 0 = []) ∧
    (∀ a j, demo.here.p.wait ≠ .commit a j) ∧
    (let s := withCore (fun c => { c with ids := [(2, .unresolved)] }) (withTeam fun t => { t with inhIds := [2] })
     (s.core 0).unresolved s.here.t.inhIds ≠ []) ∧
    (let s := withCore (fun c => { c with ids := [(2, .squashed)] }) (withTeam fun t => { t with inhIds := [2], squashed := true })
     (s.core 0).unresolved s.here.t.inhIds = [] ∧ s.here.t.squashed = true) ∧
    (openState .none).here.ownsFs (((openState .none).core 0).fsOf 0) = true ∧ demo.here.ownsFs ((demo.core 0).fsOf 0) = false :=
  ⟨by decide +kernel, fun a j => not_commit (by decide +kernel) a j, by decide +kernel, by decide +kernel, by decide +kernel,
    by decide +kernel⟩

/-- 10 R237: OPEN is bit 2, the id 1 stands in bits 15:8, the own id counts in bits 5:3, penumbra state is bit 6. -/
theorem test_spstat :
    after (exec (.spstat (args 16 0 0 0 .b32)) (openState .none)) (fun t => t.here.t.sgetr 16) = some 0x14D := by decide +kernel

/-! ## System instructions and what becomes of paths -/

def never : Guard := ⟨false, 0⟩

def withDie (f : Die → Die) (s : State) : State := { s with dies := [(0, f Die.empty)] }

/-- The firmware of die 0 runs. -/
def running (s : State) : State := withDie (fun d => { d with booted := true }) s

def handler (a : Word) : State := withPath fun p => { p with inh := true, tresume := a }

theorem witness_systemInstructions :
    (demo.live ∧ demo.here.execLanes always ≠ [] ∧ demo.here.clean [] [] (readRegs (args 0 0 0 0 .b32) [(.a, 0)]) ∧
      demo.here.p.pendTrap = none ∧ demo.here.p.inh = false ∧ demo.here.execLanes never = []) ∧
    ((handler 0x3F8).live ∧ (handler 0x3F8).here.clean [] [] (optScalar 0).toList ∧ optScalar 0 = none ∧
      (handler 0x3F8).here.p.tresume.toNat % 8 = 0 ∧ (handler 0x3F8).here.p.tresume.toNat < (handler 0x3F8).here.g.codeSize) ∧
    ((handler 0x3FC).here.p.tresume.toNat % 8 ≠ 0) ∧
    ((handler 0x400).here.p.tresume.toNat % 8 = 0 ∧ (handler 0x400).here.g.codeSize ≤ (handler 0x400).here.p.tresume.toNat) ∧
    (let d := (withDie (fun d => { d with trctl := true, trtail := 65535, trhead := 1 }) demo).die 0
     d.trctl = true ∧ (d.trtail + 1) % 65536 ≠ d.trhead) ∧
    (let d := (withDie (fun d => { d with trctl := true, trtail := 65535 }) demo).die 0
     d.trctl = true ∧ (d.trtail + 1) % 65536 = d.trhead) ∧ (demo.die 0).trctl = false ∧
    ((demo.core 0).gated = true) ∧
    ((withCore (fun c => { c with gated := false, waking := true }) demo).core 0).waking = true ∧
    ((withCore (fun c => { c with gated := false }) demo).core 0).gated = false := by decide +kernel

/-- 11 R243: `trap` traps with cause 0x10, the code in INFO, in the lowest lane; the path goes on at the entry 0x80. -/
theorem test_trap :
    after (exec (.trap (args 0 5 0 0 .b32)) (withTeam fun t => { t with sregs := [(5, 0x77)] })) (fun t =>
      (t.here.p.tcause, t.here.p.tinfo, t.here.p.tpc, t.here.p.tresume, t.here.p.pc)) =
      some (0x10, 0x77, 0, 8, 0x10080) := by decide +kernel

/-- 11 R245: `tret` in a handler goes to TRESUME and leaves the handler. -/
theorem test_tret :
    after (exec (.tret (args 0 0 0 0 .b32)) (handler 0x20)) (fun t => (t.here.p.pc, t.here.p.inh)) = some (0x10020, false) := by
  decide +kernel

theorem test_wake :
    after (exec (.wake (args 0 0 0 0 .b32)) demo) (fun t => ((t.core 0).gated, (t.core 0).waking, (t.core 0).wakeLeft)) =
      some (false, true, 180) := by decide +kernel

def trapWaiting : TrapInfo := ⟨0x05, 0, 1, 0x10010, 0x10018, 3⟩

def returning : Pend := ⟨4, [(0, 7), (3, 0x1_0000_0002)], true, 4, [], [(0, 20)], []⟩

/-- Data of window 0 of interface 0, a pool that lost its links at a time before the loads were 100 µs old. -/
def farData : Pend := { returning with vals := [(0, 7)], due := [], far := [(0, pKey 2 0x1000, 5)] }

def poolLostAt (now : Nat) : State :=
  { withPath fun p => { p with pend := [farData] } with
    vis := [(0, { Vi.empty with pool := [(0, 0x1000)], poolDown := [0] })], time3 := now }

def stoppedBy (next : Bool) : State := withPath fun p => { p with eclipse := some ⟨9, next, 0x10010⟩ }

/-- Core 0 at a cycle. -/
def atCycle (n : Nat) (s : State) : State := withCore (fun c => { c with cycle := n }) s

def storeOf (path : Nat) : Posted := ⟨0, [path], 0x7000, [1, 2, 3, 4], false, 0⟩

def stopRec : StopRec := ⟨0, 0, 0, [1, 2, 3, 4]⟩

theorem witness_pathsAndRecords :
    (let h := (withPath fun p => { p with pendTrap := some trapWaiting }).hereAt ⟨0, 0, 0⟩
     h.p.mask ≠ [] ∧ h.p.eclipse = none ∧ h.p.parked = none ∧ h.p.wait.fresh = true ∧ h.p.pendTrap = some trapWaiting ∧
     h.p.inh = false ∧ h.g.trapEntry ≠ 0xFFFFFFFF ∧ trapWaiting.cause ≠ tcBreak ∧ trapWaiting.cause ≠ tcWatch) ∧
    (((withPath fun p => { p with pend := [returning] }).hereAt ⟨0, 0, 0⟩).p.pend[0]? = some returning ∧ returning.vals ≠ [] ∧
     (∀ q ∈ returning.due, q.2 ≤ ((atCycle 20 demo).core 0).cycle) ∧ (∀ q ∈ returning.far, demo.poolLost q.2.1 = false) ∧
     (returning.vals.map (·.1)).Nodup ∧ ∀ q ∈ returning.vals, q.1 < 1024) ∧
    (let t := ((withPath fun p => { p with onChip := false }).hereAt ⟨0, 0, 0⟩).t
     let live := t.paths.filter fun q => q.2.mask != []
     oldestPath (live.filter fun q => !q.2.onChip) = some 0 ∧ (live.filter fun q => q.2.onChip).length < 16) ∧
    3840 ≤ ((withPath fun p => { p with lostFor := 3840 }).hereAt ⟨0, 0, 0⟩).p.lostFor ∧
    (∀ b ∈ [true, false], (running (stoppedBy b)).fwRuns (dieOf 0) = true ∧
      (running (stoppedBy b)).eclipsedBy 0 ((9 : DWord).toNat % 2 ^ 16) = some (⟨0, 0, 0⟩, ⟨9, b, 0x10010⟩)) ∧
    (let c := (withCore (fun c => { c with posted := [storeOf 1, storeOf 0] }) demo).core 0
     c.posted[1]? = some (storeOf 0) ∧ demo.linkDown (storeOf 0) = false ∧
     ∀ p ∈ c.posted.take 1, p.sameAgent (storeOf 0) = true → overlap p.key p.bytes.length 0x7000 4 = false) ∧
    (let c := (withCore (fun c => { c with posted := [storeOf 0, storeOf 0] }) demo).core 0
     c.posted[1]? = some (storeOf 0) ∧ storeOf 0 ∈ c.posted.take 1 ∧ (storeOf 0).sameAgent (storeOf 0) = true ∧
     overlap (storeOf 0).key (storeOf 0).bytes.length 0x7000 4 = true) ∧
    (let d := (withDie (fun d => { d with faultQ := [⟨[1, 2, 3, 4]⟩], fqtail := 4095, fqhead := 1 }) demo).die 0
     d.faultQ = ⟨[1, 2, 3, 4]⟩ :: [] ∧ (d.fqtail + 1) % 4096 ≠ d.fqhead) ∧
    (let d := (withDie (fun d => { d with faultQ := [⟨[1, 2, 3, 4]⟩], fqtail := 4095 }) demo).die 0
     d.faultQ = ⟨[1, 2, 3, 4]⟩ :: [] ∧ (d.fqtail + 1) % 4096 = d.fqhead) ∧
    (let d := (withDie (fun d => { d with stopQ := [stopRec], sttail := 255, sthead := 1, stopTok := 65535 }) demo).die 0
     d.stopQ = stopRec :: [] ∧ (d.sttail + 1) % 256 ≠ d.sthead) ∧
    (let d := (withDie (fun d => { d with stopQ := [stopRec], sttail := 255 }) demo).die 0
     d.stopQ = stopRec :: [] ∧ (d.sttail + 1) % 256 = d.sthead) := by decide +kernel

/-- Data of a lost pool, before and after 100 µs; and sixteen paths on chip beside a spilled one. -/
theorem witness_pathsAndRecords_far :
    (∀ now ∈ [300004, 300005], ((poolLostAt now).hereAt ⟨0, 0, 0⟩).p.pend[0]? = some farData ∧
      (poolLostAt now).poolLost (pKey 2 0x1000) = true ∧ 5 ≤ (poolLostAt now).time3) ∧
    (poolLostAt 300004).time3 < 5 + 300000 ∧ 5 + 300000 ≤ (poolLostAt 300005).time3 := by decide +kernel

/-- Sixteen paths hold entries, one of them waits at a barrier, and path 16 is spilled; no page of the private region is mapped. -/
def crowded : State :=
  withTeam fun t => { t with privBase := 2 ^ 40, paths := (List.range 17).map fun i =>
    (i, { path0 with mask := [i], onChip := i != 16, entered := i, wait := if i = 3 then .barrier 0 0 else .none }) }

theorem witness_pathsAndRecords_crowded :
    let h := crowded.hereAt ⟨0, 0, 0⟩
    let live := h.t.paths.filter fun q => q.2.mask != []
    let on := live.filter fun q => q.2.onChip
    (oldestPath (live.filter fun q => !q.2.onChip) = some 16 ∧ 16 ≤ on.length ∧
      oldestPath (on.filter fun q => q.2.namedWait) = some 3) ∧
    ∃ q ∈ crowded.spillLines (crowded.hereAt ⟨0, 0, 3⟩) ((h.t.moveEntry 3 false).moveEntry 16 true).spillSize true,
      ∃ fatal cause base psz, q.2 = .bad fatal cause base psz := by
  refine ⟨by decide +kernel, _, first_spill_line (by decide +kernel) ?_, refused_place (by decide +kernel)⟩
  have h : 0 < (((crowded.hereAt ⟨0, 0, 0⟩).t.moveEntry 3 false).moveEntry 16 true).spilled.1 := by decide +kernel
  unfold Team.spillSize
  dsimp only
  omega

/-- Data that a later cycle returns, and an interface that is being debugged. -/
theorem witness_pathsAndRecords_waiting :
    (let s := atCycle 19 (withPath fun p => { p with pend := [{ returning with vals := [(0, 7)] }] })
     (s.path ⟨0, 0, 0⟩).pend[0]? = some { returning with vals := [(0, 7)] } ∧
     returning.due.find? (fun q => q.1 == 0) = some (0, 20) ∧ (s.core 0).cycle < 20) ∧
    (let s := withCore (fun c => { c with dbgen := 1 }) demo
     s.live ∧ s.here.execLanes always ≠ [] ∧ s.here.clean [] [] (readRegs (args 0 0 0 0 .b32) [(.a, 0)]) ∧ s.here.p.pendTrap = none ∧
     (s.core 0).dbgen.getLsbD s.here.g.vi = true) := by decide +kernel

theorem test_load_data :
    after (exec (.loadDataReturn 0 0 ⟨0, 0⟩) (atCycle 20 (withPath fun p => { p with pend := [returning] }))) (fun t =>
      (t.here.t.vget 4 0, t.here.t.vget 4 3, t.here.t.vget 5 3, t.here.p.pend)) = some (7, 2, 1, []) := by decide +kernel

theorem test_eclres :
    after (exec (.eclres 0 9) (running (stoppedBy true))) (fun t => (t.here.p.eclipse, t.here.p.pc)) =
      (some (none, 0x10010) : Option (Option Eclipse × DWord)) := by decide +kernel

/-! ## Units that count cycles -/

def gateable : State := withCore (fun c => { c with gated := false, idle := 0x400 }) demo

theorem witness_cycles :
    (∀ n ∈ [0, 9], let s := { demo with time3 := n, clusters := [(0, { Cluster.empty with refillAt := 5 })] }
      if n = 0 then max (s.core 0).t3 (s.time3 - s.period 0) < (s.cluster 0).refillAt
      else (s.cluster 0).refillAt ≤ max (s.core 0).t3 (s.time3 - s.period 0)) ∧
    demo.cyc = none ∧ (atCycle 0 { demo with cyc := some 3 }).cyc ≠ none ∧
    (let s := withCore (fun c => { c with gated := false, mqueue := [tileStep] }) demo
     (s.core 0).running = none ∧ (s.core 0).mqueue = [tileStep] ∧ (s.core 0).gated = false ∧ (s.core 0).waking = false ∧
     (s.core 0).engineOut = false) ∧
    (let s := withCore (fun c => { c with running := some tileStep, runLeft := 3 }) demo
     (s.core 0).running = some tileStep ∧ (s.core 0).runLeft ≠ 0 ∧
     ∀ n ∈ s.slotsOf 0, ∀ p ∈ (s.team 0 n).paths, ∀ d ∈ p.2.pend, ∀ q ∈ d.due, (s.core 0).cycle + 1 < q.2) ∧
    (let c := gateable.core 0
     c.gated = false ∧ c.waking = false ∧ c.running = none ∧ c.mqueue = [] ∧ c.mxidle ≠ 0 ∧ c.mxidle ≤ c.idle) ∧
    ((demo.core 0).idle < (demo.core 0).mxidle) ∧ ((withCore (fun c => { c with mxidle := 0 }) demo).core 0).mxidle = 0 ∧
    (let c := (withCore (fun c => { c with waking := true }) demo).core 0
     c.waking = true ∧ c.wakeLeft = 0) ∧
    (let s := withCore (fun c => { c with smpctl := 0x8000_0010, smpSlot := 63 }) demo
     (s.core 0).smpctl.getLsbD 31 = true ∧ (s.core 0).smpLeft = 0 ∧ s.slotsOf 0 ≠ []) ∧
    (let s := withCore (fun c => { c with smpctl := 0x8000_0010, smpSlot := 0 })
        { demo with teams := [(0, team0), (63, team0)] }
     (63 ∈ s.slotsOf 0) ∧ (∀ m ∈ s.slotsOf 0, (s.core 0).smpSlot < m → 63 ≤ m) ∧ (s.core 0).smpSlot < 63 ∧
     (s.slotsOf 0).Pairwise (· < ·)) ∧
    (let s := withCore (fun c => { c with smpctl := 0x8000_0010 }) State.reset
     (s.core 0).smpctl.getLsbD 31 = true ∧ (s.core 0).smpLeft = 0 ∧ s.slotsOf 0 = []) := by decide +kernel

/-- A sample of interface 0 at 0x40 with outcome 2, as the sampler queues it. -/
def sampleRec : List DWord := [0, 0x8000_0000, 0x40, 0]

def histState (bins : Sparse Bin) : State := withDie (fun d => { d with hq := [(7, sampleRec)], bins := bins }) demo

theorem witness_histogram :
    (let s := histState [(2, ⟨0, 0x40, 2, 5⟩)]
     (s.die 0).hq = (7, sampleRec) :: [] ∧ (s.die 0).foldAt ≤ s.time3 ∧ (s.die 0).snap = false ∧ swf Bin.empty (s.die 0).bins = true ∧
     sget Bin.empty (s.die 0).bins 2 ≠ Bin.empty ∧
     (sget Bin.empty (s.die 0).bins 2).pc = (sampleRec.getD 2 0).toNat % 2 ^ 32 ∧
     (sget Bin.empty (s.die 0).bins 2).out = (sampleRec.getD 1 0).toNat / 2 ^ 30 % 2 ^ 5 ∧
     (∀ q ∈ (s.die 0).bins, q.1 < 4096)) ∧
    (let s := histState [(0, ⟨0, 0x48, 2, 5⟩)]
     (sget Bin.empty (s.die 0).bins 1).count = 0 ∧ ∀ j ∈ [0], (sget Bin.empty (s.die 0).bins j).count ≠ 0) ∧
    (let s := withDie (fun d => { d with snap := true }) { demo with time3 := 4096 }
     (s.die 0).snap = true ∧ (s.die 0).snapAt + 4096 ≤ s.time3) ∧
    (let s := withDie (fun d => { d with snap := true }) { demo with time3 := 4095 }
     (s.die 0).snap = true ∧ s.time3 < (s.die 0).snapAt + 4096) ∧
    demo.fwRuns 0 = false ∧
    (let s := running demo
     s.fwRuns 0 = true ∧ (s.die 0).snap = false ∧ swf Bin.empty (s.die 0).bins = true ∧ (s.die 0).hdst + 65536 ≤ hbmBytes) ∧
    (let s := withDie (fun d => { d with booted := true, hdst := hbmBytes }) demo
     hbmBytes < (s.die 0).hdst + 65536) ∧
    (let s := withDie (fun d => { d with foldAt := 1 }) demo
     s.time3 < (s.die 0).foldAt) := by decide +kernel

/-- 20 R349: a sample with the bin's tags counts one more. -/
theorem test_fold :
    after (exec (.histFold 0) (histState [(2, ⟨0, 0x40, 2, 5⟩)])) (fun t => (t.die 0).bins) = some [(2, ⟨0, 0x40, 2, 6⟩)] := by decide +kernel

/-! ## Register writes -/

theorem witness_registerWrites :
    (∀ r ∈ [FwReg.parate 95, .pwrlim, .bp 0 7, .wpctl 0 3, .ptroot 63, .logicalCluster 0 0], fwRegThere r = true) ∧
    (∀ r ∈ [FwReg.parate 96, .bp 0 8, .ptroot 64, .drpthr 16, .logicalCluster 0 96], fwRegThere r = false) ∧
    (∀ r ∈ [FwReg.parate 0, .pwrlim, .bp 0 7, .wpctl 0 3, .ptroot 63, .logicalCluster 0 0], (running demo).fwCan r = true) ∧
    (∀ r ∈ [FwReg.parate 24, .hdst 1, .drpthr 4], (running demo).fwCan r = false) ∧
    (running demo).fwRuns (counterDie (.eccue 0 5)) = true ∧ (running demo).fwRuns (counterDie (.eccue 1 5)) = false ∧
    counterThere (.eccue 3 5) = true ∧ counterThere (.eccue 3 6) = false ∧
    (let s := { running demo with vis := [(1, { Vi.empty with victl := 0x10001 })] }
     s.othersHold 0 0 = true ∧ s.othersHold 0 1 = false) ∧
    (withCore (fun c => { c with engineOut := true }) demo).clusterOut 0 = true ∧
    Spec.regAfter State.reset 0x1234 (.parate 95) = some 0x1234 ∧ Spec.regAfter State.reset 0xFFFF (.pwrlim) = some 2700 ∧
    Spec.regAfter State.reset 0x8 (.bp 0 7) = some 8 ∧ Spec.regAfter State.reset 0x3F (.wpctl 0 3) = some 0x3F ∧
    Spec.regAfter State.reset 0x5FFF (.ptroot 63) = some 0x5000 ∧ Spec.regAfter State.reset 95 (.logicalCluster 0 0) = some 96 ∧
    State.reset.roomToMove 0 0 95 = true ∧
    ({ State.reset with clusters := [(0, { Cluster.empty with ring := [(2, { Ring.empty with slots := 1, z := 4 })] }),
      (95, { Cluster.empty with ring := [(2, { Ring.empty with slots := 1, z := 4, vi := 1 })] })] } : State).roomToMove 0 0 95 = false ∧
    Spec.lockedBy { State.reset with vis := [(63, { Vi.empty with victl := 0x10001 })] } (.ptroot 63) = true ∧
    (State.reset.cluster 95).parsv1 ≤ (State.reset.cluster 95).parsv2 ∧ (State.reset.cluster 95).parsv2 ≤ (State.reset.cluster 95).parsv3 := by
  decide +kernel

/-! ## The life of teams -/

/-- A launch: code at 0x10000, extent 64 in one team of 32 lanes per workgroup, 16 scalar registers, one granule. -/
def launch0 : LRec :=
  { LRec.empty with addr := 0x4000, code := 0x10000, extent := 64, sregs := 16, vgran := 1, logw := 5, trap := 0xFFFFFFFF }

def graph0 : Graph :=
  { Graph.empty with valid := true, ok := true, gbase := 0x4000, nodes := [⟨0, 0, [1]⟩, ⟨0, 1, []⟩], lrecs := [launch0] }

/-- Replay 1 of graph 0 runs its first node. -/
def replay0 : Replay := ⟨1, 0, 1, 0, true, false, [⟨0, true, 2, 0, false⟩, ⟨1, false, 0, 0, false⟩], []⟩

def vi0 : Vi := { Vi.empty with victl := 0x0001_0001, ptroot := 0x1000, graphs := [(0, graph0)], replays := [replay0], kseq := 1 }

def withRec (r : BindRec) (now : Nat) : State :=
  withDie (fun d => { d with slotTab := [(5, r)] }) { State.reset with vis := [(0, vi0)], time3 := now }

def readyRec : BindRec := { BindRec.empty with state := recReady, lreca := 0x4000, wg := 1, replay := 1 }

theorem witness_dispatch :
    (let s := withRec readyRec 16
     let r := (s.die 0).brec 5
     let l := s.recLaunch r
     (s.die 0).dispatchAt ≤ s.time3 ∧ (s.die 0).order = [5] ∧ (s.die 0).blocked s.time3 [5] 5 = false ∧ r.malformed = false ∧ r.group = 0 ∧
     r.resume = false ∧ r.hold = false ∧ (l.charge r.wg).fits (s.inUse r.core) = true ∧
     s.treeRoom r.core r.vi r.replay r.node l.levels r.grp = true ∧ s.freeWg r.core = some 0 ∧ s.granRun r.core l.scr = some 0 ∧
     l.teamsOf r.wg = 1 ∧ s.clusterOut (clusterOf (0 * 96 + r.core)) = false) ∧
    ({ withRec readyRec 16 with cores := [(0, { CoreSt.empty with engineOut := true })] }.clusterOut 0 = true) ∧
    (let s := withRec { readyRec with groupn := 1 } 16
     (s.die 0).dispatchAt ≤ s.time3 ∧ (s.die 0).order = [5] ∧ (s.die 0).blocked s.time3 [5] 5 = false ∧ ((s.die 0).brec 5).malformed = true) ∧
    (let s := withDie (fun d => { d with dispatchAt := 1 }) State.reset
     s.time3 < (s.die 0).dispatchAt) ∧
    (let s := withRec readyRec (2 ^ 20)
     ((s.die 0).brec 5).state = recReady ∧ ((s.die 0).brec 5).since + 2 ^ 20 ≤ s.time3) := by decide +kernel

/-- 18 R318: the team of workgroup 1 starts with the lanes 0 to 31 at the entry of the code. -/
theorem test_dispatch :
    after (exec (.dispatchAction 0) (withRec readyRec 16)) (fun t =>
      ((t.team 0 0).life, (t.team 0 0).member.length, (t.team 0 0).path 0 |>.pc, (t.wg 0 0).used, ((t.die 0).brec 5).state)) =
      some (.starting, 32, 0x10000, true, recLive) := by decide +kernel

def drainedTeam (t : Team) : Team := { t with life := .draining, paths := [], member := [] }

theorem witness_teamLife :
    (let s := withTeam fun t => { t with life := .starting }
     (s.team 0 0).life = .starting ∧ (s.wg 0 (s.team 0 0).w).held = false ∧ (s.wg 0 (s.team 0 0).w).start ≤ s.ticks.toNat ∧
     ∀ k ∈ s.slotsOf 0, (s.team 0 k).w = 0 → (s.team 0 k).life = .starting) ∧
    (let s := { demo with teams := [(0, { team0 with life := .starting }), (1, team0)] }
     (s.team 0 0).life = .starting ∧ (s.team 0 1).life = .running ∧ (s.team 0 1).w = (s.team 0 0).w) ∧
    (let s := withWg fun g => { g with start := 1 }
     s.ticks.toNat < (s.wg 0 (s.team 0 0).w).start) ∧
    (let s := withTeam drainedTeam
     s.drained 0 0 = true ∧ ((s.die 0).brtail + 1) % 4096 ≠ (s.die 0).brhead ∧ swf Team.empty s.teams = true ∧
     ∀ k ∈ s.slotsOf 0, k = 0) ∧
    (let s := withDie (fun d => { d with brtail := 4095 }) (withTeam drainedTeam)
     s.drained 0 0 = true ∧ ((s.die 0).brtail + 1) % 4096 = (s.die 0).brhead) := by decide +kernel

/-! ## Interfaces and graphs -/

/-- A graph object of one node and one launch record at 0x8000 (18 R312, R313, R316): header, node, launch record of extent 64. -/
def graphBytes : List Host.Cell :=
  [(0x8000, 0x30), (0x8001, 0x42), (0x8002, 0x48), (0x8003, 0x54), (0x8004, 1), (0x8008, 208), (0x800C, 1), (0x8010, 64),
   (0x8018, 80), (0x801C, 1), (0x8020, 80), (0x8052, 0x01), (0x8060, 64), (0x8064, 0x50), (0x8066, 1), (0x8067, 16),
   (0x8070, 0xFF), (0x8071, 0xFF), (0x8072, 0xFF), (0x8073, 0xFF)]

/-- The firmware of die 0 runs. -/
def withVi (f : Vi → Vi) : State := running { demo with vis := [(0, f vi0)], mem := pageTables ++ graphBytes }

theorem witness_register :
    (let v : DWord := 0x8001
     v.toNat < 2 ^ 57 ∧ v.toNat / 4 % 16 = 0 ∧ v.toNat % 2 = 1 ∧ v.toNat / 64 * 64 = 0x8000) ∧
    ((withVi id).fwRuns 0 = true ∧ demo.fwRuns 0 = false) ∧
    (let s := withVi id
     let s1 (base : Nat) := s.modVi 0 fun x => { x with graphs := sput Graph.empty x.graphs 7 { Graph.empty with valid := true, gbase := base } }
     ((s.vi 0).graph 7).valid = false ∧ ((s1 0x8000).readGraph 0 0x8000).toOption.isSome = true ∧
     ((s1 0x9000).readGraph 0 0x9000).toOption = none ∧
     ((s.vi 0).graph 0).valid = true ∧ swf Graph.empty (s.vi 0).graphs = true ∧
     (let w : DWord := 0x8004; ¬w.toNat / 4 % 16 = 0) ∧ (let w : DWord := 0x8000; w.toNat % 2 = 0 ∧ w.toNat / 4 % 16 = 0) ∧
     (match (s1 0x9000).readGraph 0 0x9000 with | .error (.bad c i) => (c, i) | _ => (0, 0)) = (0x06, 0)) ∧
    (let s := { withVi id with mem := [(0x1000, 1), (0x1001, 0x20), (0x2000, 1), (0x2001, 0x30), (0x3000, 0x0D)] ++ graphBytes }
     let s1 := s.modVi 0 fun x => { x with graphs := sput Graph.empty x.graphs 7 { Graph.empty with valid := true, gbase := 0x8000 } }
     (match s1.readGraph 0 0x8000 with | .error .wait => true | _ => false) = true) := by decide +kernel

/-- 18 R314: what registration reads. -/
theorem test_graph_register :
    after (exec (.graphRegister 0 7 0x8001) (withVi id)) (fun t => (((t.vi 0).graph 7).nodes, ((t.vi 0).graph 7).lrecs.map fun l => (l.code, l.extent, l.sregs, l.logw))) =
      some ([⟨0, 0, []⟩], [(0x10000, 64, 16, 5)]) := by decide +kernel

def manyReplays : List Replay := (List.range 16).map fun i => { replay0 with id := i + 1 }

theorem witness_kick :
    (let v : DWord := 0x0
     v.toNat < 2 ^ 57 ∧ v.toNat % 8 = 0) ∧ (4 : DWord).toNat % 8 ≠ 0 ∧
    (let x := (withVi id).vi 0
     (x.graph 0).valid = true ∧ (x.graph 0).ok = true ∧ (x.graph 0).leaving = false ∧ x.replays.length < 16 ∧
     (x.graph 1).valid = false) ∧
    (let x := (withVi fun x => { x with replays := manyReplays }).vi 0
     (x.graph 0).valid = true ∧ 16 ≤ x.replays.length) := by decide +kernel

def ranNode : NodeRun := ⟨0, true, 2, 2, false⟩

theorem witness_nodeComplete :
    (let x := (withVi fun x => { x with replays := [{ replay0 with nodes := [ranNode, ⟨1, false, 0, 0, false⟩] }] }).vi 0
     let r := (x.replay 1).getD replay0
     (x.replay 1).isSome = true ∧ r.started = true ∧ r.ended = false ∧ 0 < r.nodes.length ∧ (r.node 0).ready = true ∧
     (r.node 0).complete = false ∧ (r.node 0).retired = ((x.graph r.gslot).lrecOf 0).nwg ∧ (r.node 1).complete = false ∧
     (withVi id).linkBusy = false ∧ (∀ a ∈ ((withVi id).core 0).l1.dirty, (withVi id).poolLost a = false) ∧
     ((x.graph r.gslot).nodes.getD 0 ⟨0, 0, []⟩).succ.count 1 = 1) ∧
    (let x := (withVi fun x => { x with replays := [{ replay0 with nodes := [⟨0, true, 2, 2, true⟩, ranNode] }] }).vi 0
     let r := (x.replay 1).getD replay0
     (r.node 1).ready = true ∧ (r.node 1).complete = false ∧ (r.node 1).retired = ((x.graph r.gslot).lrecOf 1).nwg ∧
     ∀ m ∈ List.range r.nodes.length, m ≠ 1 → (r.node m).complete = true) := by decide +kernel

def changing : Replay := { replay0 with mc := [(3, { McEntry.empty with changing := true, next := some (1, 2, 1) })] }

/-- 18 R307: VALID = 0 to an empty slot leaves GBASE as written; 21 R358: FLIPREQ reads 0. -/
theorem test_graph_base :
    after (exec (.graphRegister 0 7 0x8000) (withVi id)) (fun t => (t.viPageRead 0 0x38, t.hostPageRead 0 0x30, t.hostPageRead 0 8)) =
      some (0x8000, 0, 0x1000) := by decide +kernel

/-- Entry 3 of node 0 becomes 2 cores from core 1 on: below the highest logical core of the launch, which is 3, or of the interface's
four, where nothing of the launch is known to run. -/
theorem witness_multicast :
    (let w := 2 ^ 48 + 2 * 2 ^ 32 + 2 ^ 22 + 3 * 2 ^ 17
     let x := (withVi id).vi 0
     w < 2 ^ 64 ∧ x.replays = replay0 :: [] ∧ w / 2 ^ 12 % 2 ^ 5 = 0 ∧ w % 2 ^ 12 = 0 ∧ (replay0.node 0).ready = true ∧
     (replay0.node 0).complete = false ∧ replay0.ended = false ∧ 0 < (replay0.node 0).bound ∧ (replay0.node 1).bound = 0 ∧
     mcOk (w / 2 ^ 48) (w / 2 ^ 32 % 2 ^ 16) (w / 2 ^ 22 % 2 ^ 10) (x.mcTop (x.graph 0) 0) = true ∧
     vi0.mcTop { graph0 with lcores := [((0, 0), 0), ((0, 1), 3)] } 0 = 3) ∧
    ((withVi fun x => { x with replays := [{ replay0 with ended := true }] }).vi 0).replays = { replay0 with ended := true } :: [] ∧
    ((withVi fun x => { x with replays := [] }).vi 0).replays = [] ∧
    (let s := withVi fun x => { x with replays := [changing] }
     ((s.vi 0).replays.map (·.id)).Nodup ∧ (s.vi 0).replay 1 = some changing ∧
     (sget McEntry.empty changing.mc 3).next = some (1, 2, 1) ∧ s.cpymOn 0 1 3 = false) := by decide +kernel

theorem witness_victl :
    (let v : DWord := 0x0060_0001
     v.toNat % 2 = 1 ∧ Spec.victlOk v ∧ v.toNat / 2 ^ 16 % 2 ^ 8 = 96 ∧ ((withVi id).vi 0).ptroot ≠ 0) ∧
    (let v : DWord := 0x0061_0001
     v.toNat % 2 = 1 ∧ 96 < v.toNat / 2 ^ 16 % 2 ^ 8) ∧
    (let v : DWord := 0x0001_0000
     v.toNat % 2 = 0 ∧ Spec.victlOk v ∧ ((withVi id).vi 0).victl.toNat % 2 = 1) := by
  unfold Spec.victlOk
  decide +kernel

/-! ## Firmware's service -/

def waitEntry : WaitE := ⟨true, 0, 0x20000, 8, [0], false, [], []⟩

def parkedPath (p : Path) : Path :=
  { p with wait := .parked, parked := some ⟨[8], [⟨0, 0x20000, 0, 0⟩], .store .b32, 0x10000, 0x10008⟩ }

def parkedState (f : Path → Path) : State :=
  withCore (fun c => { c with waitTab := [(1, waitEntry)] }) (withPath fun p => f (parkedPath p))

theorem witness_faultService :
    ((running demo).die 0).shoot = none ∧ (running demo).fwRuns 0 = true ∧ demo.fwRuns 0 = false ∧ (running demo).fwRuns (dieOf 0) = true ∧
    ((withDie (fun d => { d with shoot := some (some 0x20000, 0) }) demo).die 0).shoot = some (some 0x20000, 0) ∧
    ((withDie (fun d => { d with shoot := some (none, 63) }) demo).die 0).shoot = some (none, 63) ∧
    (let s := parkedState id
     swf Team.empty s.teams = true ∧ swf Path.empty (s.team 0 0).paths = true ∧ (s.team 0 0).life ≠ .free ∧
     (s.path ⟨0, 0, 0⟩).parked.isSome = true ∧ (s.path ⟨0, 0, 0⟩).inh = false ∧ (s.wg 0 (s.team 0 0).w).trapEntry ≠ 0xFFFFFFFF ∧
     Spec.chosenEntry (fun e => e.vi == 0 && e.page == 2 * 2 ^ 16) (1, waitEntry) = true ∧
     Spec.chosenEntry (fun e => e.token == 8) (1, waitEntry) = true ∧
     Spec.chosenEntry (fun _ => false) (63, waitEntry) = true ∧
     (s.path ⟨0, 0, 0⟩).pendTrap = none) ∧
    (let s := parkedState fun p => { p with parked := some ⟨[8], [⟨0, 0x20000, 0, 0⟩], .compare 0, 0x10000, 0x10008⟩ }
     (s.path ⟨0, 0, 0⟩).parked = some ⟨[8], [⟨0, 0x20000, 0, 0⟩], .compare 0, 0x10000, 0x10008⟩ ∧ (s.team 0 0).life ≠ .free) := by decide +kernel

/-- 19 R333: a replay by page with FATAL: the parked path traps with MEM_FATAL at the entry 0x80. -/
theorem test_replay_fatal :
    after (exec (.replayByPageFatal 0 2) (running (parkedState id))) (fun t => (t.here.p.tcause, t.here.p.pc, (t.core 0).waitTab)) =
      some (0x0A, 0x10080, []) := by decide +kernel

def flip0 (toHost : Bool) : Flip := ⟨0, toHost, 4, 0x4000_0000, 0x8000_0000, 0⟩

theorem witness_flips :
    (let s := withVi fun x => { x with flips := [flip0 false], replays := [], flipbase := 0x10_0000 }
     s.leafOf 0 0 = some (0x3000, 2, 0x0F) ∧ leafSize 2 = 2 ^ 30 ∧
     (s.vi 0).flips.find? (fun f => f.qrec == 4 && !f.toHost) = some (flip0 false) ∧ (flip0 false).page = 0 ∧ (s.vi 0).replays = [] ∧
     0x3000 + 8 ≤ 2 ^ 52 ∧ (flip0 false).frame + 2 ^ 30 ≤ 2 ^ 52 ∧ (flip0 false).frame % 2 ^ 12 = 0 ∧
     overlap (hostKey ((s.vi 0).flipbase.toNat + 16 * 4)) 16 (hostKey (flip0 false).src) (2 ^ 30) = false ∧
     s.time3 < (flip0 false).since + 3 * 10 ^ 9 ∧ (flip0 false).since + 3 * 10 ^ 9 ≤ { s with time3 := 3 * 10 ^ 9 }.time3) ∧
    (let s := withVi id
     s.flipping 0 0 (2 ^ 30) = false ∧ 0x4000_0000 % 2 ^ 30 = 0 ∧ 0x4000_0000 + 2 ^ 30 ≤ hbmBytes ∧
     inDump 0x4000_0000 (2 ^ 30) = false ∧ inDump (63 * 2 ^ 30) (2 ^ 30) = true ∧ (0 : DWord).toNat / 2 ^ 16 % 2 ^ 41 * 2 ^ 16 = 0) ∧
    (let s := withVi fun x => { x with flips := [flip0 true] }
     (s.vi 0).flips.find? (fun f => f.page == 0) = some (flip0 true) ∧ (flip0 true).toHost = true ∧
     ∀ q ∈ s.cores, (∀ p ∈ q.2.posted, overlap p.key p.bytes.length 0 (2 ^ 30) = false) ∧
     ∀ d ∈ q.2.pen, d.op.within 0 (2 ^ 30) = false) := by decide +kernel

/-- 19 R334: a flip to the device clears OWN of the leaf. -/
theorem test_flip :
    after (exec (.flipToDevice 0 0 0x4000_0000 0x8000_0000) (withVi id)) (fun t => (t.mnat 0x3000 8, t.irqs, (t.vi 0).nextFlip)) =
      some (0x0D, [(0, 2)], 1) := by decide +kernel

/-! ## Pre-emption and the end of launches -/

/-- Context 0 of core 0 is being saved; the firmware of die 0 runs. -/
def preempted (halt : List Nat) : State :=
  running <| withCore (fun c => { c with preempt := [0], halted := halt })
    { demo with teams := [(0, { team0 with life := .saving })], wgs := [(0, { group0 with preempted := true, replay := 1 })],
                vis := [(0, vi0)], ends := [⟨0, 1, 0, [0, 0, 0, 0, 0, 0, 0, 0]⟩] }

theorem witness_preemption :
    ((running demo).fwRuns (dieOf 0) = true ∧ (preempted [0]).fwRuns (dieOf 0) = true ∧ (0x0001 : DWord).toNat.testBit 0 = true ∧
     (demo.wg 0 0).used = true ∧ 0 ∉ (demo.core 0).preempt ∧ swf Team.empty demo.teams = true) ∧
    (let s := preempted []
     0 ∈ (s.core 0).preempt ∧ (s.wg 0 0).preempted = true ∧ 0 ∉ (s.core 0).halted) ∧
    (let s := preempted [0]
     0 ∈ (s.core 0).preempt ∧ 0 ∈ (s.core 0).halted ∧ s.saveReady 0 0 = true ∧ swf Team.empty s.teams = true ∧
     s.drainsSaved 0 0 = false ∧ (s.core 0).posted = [] ∧ (s.core 0).l1.dirty = [] ∧
     ∀ k ∈ [0], (s.team 0 k).w = 0 ∧ (s.team 0 k).life ≠ .free) ∧
    (let s := withCore (fun c => { c with preempt := [0], halted := [0], posted := [storeOf 0] }) (preempted [0])
     s.drainsSaved 0 0 = false ∧ s.saveReady 0 0 = true ∧ (s.core 0).posted = [storeOf 0] ∧ (storeOf 0).slot = 0) ∧
    (let s := { demo with teams := [(0, { team0 with life := .drainSaved })] }
     swf Team.empty s.teams = true ∧ (s.team 0 0).w = 0 ∧ ∀ k ∈ s.slotsOf 0, (s.team 0 k).life = .drainSaved) ∧
    (let s := preempted []
     (s.vi 0).replay 1 = some replay0 ∧ s.endReason 0 1 0 = some [0, 0, 0, 0, 0, 0, 0, 0] ∧ s.endReason 0 1 1 = none ∧
     ((s.vi 0).errtail + 1) % 64 ≠ (s.vi 0).errhead ∧ swf Wg.empty s.wgs = true ∧ (s.wg 0 0).used = true ∧ (s.wg 0 0).vi = 0 ∧
     (s.wg 0 0).replay = 1 ∧ (s.wg 0 0).node = 0) := by decide +kernel

/-- An image fits at the start of HBM4 whatever its open offsets are, since each is below 2^29; no image fits in a memory that
does not exist. -/
theorem image_fits (s : State) (save : Nat) (hg : (s.wg 0 0).spGran ≤ 256) (h : save + 2 ^ 31 ≤ hbmBytes) :
    s.imageFits 0 0 save = true := by
  unfold State.imageFits State.imageOffsets
  simp only [Bool.and_eq_true, decide_eq_true_eq]
  unfold hbmBytes at *
  have hd : save / 2 ^ 52 = 0 := by omega
  have hm : save % 2 ^ 52 = save := by omega
  rw [hd, hm]
  have h1 := Nat.mod_lt (Config.freeWord s.fresh).toNat (show 0 < 2 ^ 23 by decide)
  have h2 := Nat.mod_lt (Config.freeWord (s.fresh + 1)).toNat (show 0 < 2 ^ 23 by decide)
  simp only [if_true]
  omega

theorem witness_contextSaved :
    (preempted [0]).imageFits 0 0 0x100000 = true ∧ (preempted [0]).imageFits 0 0 (4 * 2 ^ 52) = false :=
  ⟨image_fits _ _ (by decide +kernel) (by decide), by decide +kernel⟩

theorem test_context_saved :
    after (exec (.contextSaved 0 0 0x100000) { preempted [0] with teams := [(0, { team0 with life := .drainSaved })] }) (fun t =>
      ((t.wg 0 0).used, (t.core 0).saved, (t.core 0).preempt)) = some (false, [0], []) := by
  decide +kernel

/-- Interface 0 has a slice of 1 µs that is over; interface 1, which shares too, has a READY record on the same core. -/
def sliced (now : Nat) : State :=
  { withDie (fun d => { d with booted := true, slotTab := [(5, { readyRec with vi := 1 })] }) demo with
    time3 := now, vis := [(0, { vi0 with victl := 0x1_0001_0001 }), (1, { vi0 with victl := 0x1_0001_0001 })] }

theorem witness_timeSlice :
    (let s := sliced 3000
     let x := s.vi 0
     x.victl.toNat / 2 ^ 32 = 1 ∧ x.sliceAt + 1 * 3000 ≤ s.time3 ∧ swf Wg.empty s.wgs = true ∧ (s.wg 0 0).used = true ∧
     (s.wg 0 0).vi = 0 ∧ s.contested 0 = true ∧ s.fwRuns 0 = true) ∧
    demo.fwRuns 0 = false ∧
    (let s := sliced 2999
     s.time3 < (s.vi 0).sliceAt + 1 * 3000) ∧ (State.reset.vi 0).victl.toNat / 2 ^ 32 = 0 := by decide +kernel

/-! ## Power, errors, resets, links -/

def quadState (f : Quad → Quad) (now : Nat) : State := { demo with quads := [(0, f Quad.empty)], time3 := now }

theorem witness_power :
    (let q := demo.quad 0
     q.drpthr ≠ 0 ∧ q.stretched 0 = false ∧ q.stretched 1 = false ∧ q.stretch ≤ 0 ∧ q.halving ≤ 0) ∧
    ((quadState (fun q => { q with stretch := 13 }) 0).quad 0).stretched 1 = true ∧
    ((quadState (fun q => { q with drpthr := 0 }) 0).quad 0).drpthr = 0 ∧
    (∀ n ∈ [0, 1, 2], (demo.quad 0).mayChange n 0 = true) ∧
    (let q := (quadState (fun q => { q with changed2 := some 0, pending := [2] }) 749999).quad 0
     q.mayChange 2 749999 = false ∧ q.mayChange 2 750000 = true ∧ 2 ∈ q.pending) ∧ demo.dumpHeld = false ∧
    (((running demo).die (23 / 24)).booted = true ∧ ((running demo).die (24 / 24)).booted = false) := by decide +kernel

/-- 22 R374: a trip in a halved cycle leaves that cycle halved, and stretches the next twelve thirds of a nanosecond. -/
theorem test_trip :
    after (exec (.droopTrip 0) (quadState (fun q => { q with halving := 70 }) 20)) (fun t =>
      ((t.quad 0).halved 20, (t.quad 0).halved 21, (t.quad 0).stretched 32, (t.quad 0).stretched 33, (t.quad 0).halved 33)) =
      some (true, false, true, false, true) := by decide +kernel

/-- 22 R375: 95 degrees enters threshold 0 and no other. -/
theorem test_thermal :
    after (exec (.thermalReading 0 760) demo) (fun t => ((t.quad 0).thstat, (t.quad 0).thcur)) = some (1, 760) := by decide +kernel

/-- A penumbra entry of team 0 under the unresolved id 1. -/
def penState : State :=
  withCore (fun c => { c with pen := [{ deferredStore with ids := [1] }], ids := [(1, .unresolved)] }) (withTeam fun t => { t with ownIds := [1] })

theorem witness_hardwareErrors :
    (hbmBytes - 1 < hbmBytes ∧ hbmBytes ≤ 2 ^ 52 ∧ 2 ^ 52 < pKey 4 0) ∧
    (∀ e ∈ [SoftErr.vreg 0 64 0 0, .sreg 384 0 0, .tile 0 0 24 0, .acc 0 16 0 0, .corrected 0 6, .icache 96 0], softErrPlace e = false) ∧
    (let s := withCore (fun c => { c with l1 := ⟨[0x4000], [(0x4000, 7)], [], [], []⟩ }) demo
     (s.core 0).l1.lines.contains 0x4000 = true ∧ ∀ k ∈ (s.core 0).l1.dirty, lineOf k ≠ 0x4000) ∧
    (demo.core 0).l1.lines.contains 0x4000 = false ∧ (dirtyCore.core 0).l1.lines.contains 0x4000 = true ∧
    (let s := { demo with clusters := [(3, { Cluster.empty with icache := [7] })] }
     (s.cluster 3).icache.contains 7 = true ∧ (s.cluster 3).icache.contains 8 = false) ∧
    (0x4000 ∈ (dirtyCore.core 0).l1.dirty ∧ lineOf 0x4000 = 0x4000) ∧
    (penState.core 0).pen[0]? = some { deferredStore with ids := [1] } ∧ (penState.core 0).unresolved [1] ≠ [] ∧
    (penState.core 0).pen.length ≤ 1 := by decide +kernel

/-- 10 R235, 19 R338: the speculation that owns a failed entry is squashed, and the check is logged with cause 0x25 from SRC 0. -/
theorem test_penumbra_error :
    after (exec (.softError (.penumbra 0 0)) penState) (fun t =>
      ((t.core 0).pen.length, (t.core 0).unresolved [1], (t.die 0).faultQ.map fun q => (q.words.getD 1 0).toNat % 2 ^ 16)) =
      some (0, [], [0x0025]) := by decide +kernel

/-- Path 0 of team 0 of core 0. -/
def place0 : MPlace := ⟨0, 0, 0, 0, 0, 0⟩

def checkWords : List DWord := faultWords demo 0x4000 0 0 0 0 0 0 0 0 0x22 3

theorem witness_errorEvents :
    (place0.core < 384 ∧ place0.slot < 64 ∧ place0.ectx < 8 ∧ 0x20 ≤ 0x22 ∧ 0x22 ≤ 0x25 ∧ (demo.team 0 0).life ≠ .free ∧
      (demo.wg 0 (demo.team 0 0).w).vi = 0) ∧
    (let s := withDie (fun d => { d with faultQ := [⟨checkWords⟩] }) demo
     ⟨checkWords⟩ ∈ (s.die 0).faultQ ∧ (s.team 0 0).life ≠ .free) ∧
    (sameCheck 0x22 checkWords checkWords = true ∧ sameCheck 0x22 [0, 0] checkWords = false) ∧
    ((demo.die 0).faultQ = [] ∧ (demo.die 0).faultRing = []) ∧
    (let c := (withCore (fun c => { c with posted := [storeOf 0] }) demo).core 0
     c.posted[0]? = some (storeOf 0) ∧ c.posted.length ≤ 1 ∧ (storeOf 0).since + 300000 ≤ { demo with time3 := 300000 }.time3 ∧
     { demo with time3 := 299999 }.time3 < (storeOf 0).since + 300000) ∧
    (demo.dumpHeld = false ∧ (running demo).fwRuns 0 = true ∧
      ∀ k ∈ [0, 1], (∀ q ∈ (demo.die k).faultRing, q.1 < 4096 ∧ q.2.length ≤ 4) ∧ ∀ q ∈ (demo.die k).slotTab, q.1 < 2048) ∧
    { demo with dumpHeld := true }.dumpHeld = true ∧ demo.fwRuns 0 = false := by decide +kernel

/-- 19 R338, R339: a check made fatal asks for the end of the launch of its team. -/
theorem test_machine_check :
    after (exec (.machineCheck place0 0x22 0x4000 false true) (running demo)) (fun t =>
      ((t.die 0).faultQ.map (·.words) == [checkWords], t.irqs, t.ends.map fun e => (e.vi, e.replay, e.node))) =
      some (true, [(0, 3)], [(0, 0, 0)]) := by decide +kernel

/-- 22 R379: a fatal error holds the device, and raises vector 3. -/
theorem test_fatal :
    after (exec (.fatalErrorDump 0 2 0) (running demo)) (fun t => (t.dumpHeld, t.irqs)) = some (true, [(0, 3)]) := by decide +kernel

/-- Whichever way an image verifies, one of the two clauses of boot holds of a die, and one of the two of an update; digests and
signatures are open. -/
theorem witness_boot :
    (∀ image sig, Config.mldsaVerify (Config.shake256 image) sig = true ∨ Config.mldsaVerify (Config.shake256 image) sig = false) ∧
    (running demo).fwRuns 0 = true ∧ demo.fwRuns 0 = false ∧
    (demo.die 0).booted = false ∧ (0 = demo.measNext ∧ 0 < 4) ∧ (demo.die 1).digest = [] ∧
    ((withDie (fun d => { d with booted := true }) demo).die 0).booted = true := by
  refine ⟨fun image sig => ?_, by decide +kernel, by decide +kernel, by decide +kernel, by decide, by decide +kernel, by decide +kernel⟩
  cases Config.mldsaVerify (Config.shake256 image) sig <;> simp

theorem test_device_reset :
    after (exec .deviceReset { demo with mem := [(5, 1)], pwrlim := 3 }) (fun t => (t.teams.length, t.mem, t.pwrlim)) =
      some (0, [(5, 1)], 2700) := by decide +kernel

theorem witness_links :
    (let s := { demo with portDown := [(17, 1)], time3 := 3000000, route := [(5, 2 ^ 17)] }
     sget 0 s.portDown 17 ≠ 0 ∧ sget 0 s.portDown 17 + 3000000 ≤ s.time3 + 1 ∧ s.isLost 5 = false ∧
     (running s).fwRuns 0 = true ∧ s.fwRuns 0 = false) ∧
    ¬sget 0 demo.portDown 17 ≠ 0 ∧
    (2 ^ 53 - 2) + [(1 : Byte), 2].length ≤ 2 ^ 53 ∧ (hbmBytes - 2) + [(1 : Byte), 2].length ≤ hbmBytes ∧
    hbmBytes < (hbmBytes - 1) + [(1 : Byte), 2].length ∧ hbmBytes - 1 < 2 ^ 52 ∧
    Ty.i32 ∈ [Ty.b32, .i32, .n32, .i64, .n64] ∧ (0xFFFFFFFF : DWord).toNat < 2 ^ (8 * Ty.i32.bytes) ∧
    (let s := { demo with clusters := [(3, { Cluster.empty with icmiss := [7] })] }
     7 ∈ (s.cluster 3).icmiss ∧ (s.cluster 3).icache.length < 4096) ∧
    4096 ≤ { Cluster.empty with icmiss := [7], icache := List.replicate 4096 0 }.icache.length := by decide +kernel

/-- 12 R279: a peer's atomic adds to this device's memory. -/
theorem test_peer_atomic :
    after (exec (.peerAccessArrival (.ratom .add .i32 0x100 5 0)) { demo with mem := [(0x100, 2)] }) (fun t => t.mnat 0x100 4) =
      some 7 := by decide +kernel

/-- 01 R34, 18 R317: of a group of two workgroups in a cluster, a record without a co-dispatch tag is not written, and one with a tag
becomes READY; a die in reset (22 R381) has no record. -/
theorem test_group_record :
    let launch : LRec := { LRec.empty with extent := 64, logw := 5, levels := [⟨1, 2, 2⟩] }
    let vi : Vi := { Vi.empty with victl := 0x0001_0001, graphs := [(0, { Graph.empty with nodes := [⟨0, 0, []⟩], lrecs := [launch] })],
                                   replays := [⟨1, 0, 1, 0, true, false, [⟨0, true, 0, 0, false⟩], []⟩] }
    let s (b : Bool) := withDie (fun d => { d with booted := b }) { State.reset with vis := [(0, vi)] }
    let r (tag n : Nat) : BindRec := { BindRec.empty with replay := 1, group := tag, groupn := n }
    let state (t : State) := ((t.die 0).brec 5).state
    (state ((s true).fwBind 0 5 (r 0 0)), state ((s true).fwBind 0 5 (r 3 2)), state ((s false).fwBind 0 5 (r 3 2))) =
      (0, 1, 0) := by decide +kernel

end Sys2Proof.Tests
end

section
/-!
SUPPORT. Facts about sets of lanes, bytes, patterns of integers and memory that the events of the links need.
-/

namespace Sys2Proof

/-! ## Sets -/

@[simp] theorem mem_minsert (x y : Nat) (l : Mask) : y ∈ minsert x l ↔ y = x ∨ y ∈ l := by
  induction l with
  | nil => simp [minsert]
  | cons a l ih =>
    unfold minsert
    split
    · simp
    · split
      · simp_all
      · simp [ih, or_left_comm]

/-- A fold that inserts a key of every element adds those keys. -/
theorem mem_foldl_minsert {α : Type} (f : α → Nat) (l : List α) (m : Mask) (x : Nat) :
    x ∈ l.foldl (fun m q => minsert (f q) m) m ↔ x ∈ m ∨ ∃ q ∈ l, f q = x := by
  induction l generalizing m with
  | nil => simp
  | cons q l ih => simp [ih, or_assoc, or_left_comm, eq_comm]

/-! ## Bits and bytes -/

theorem tbit_eq_testBit (x i : Nat) : tbit x i = x.testBit i :=
  Nat.testBit_eq_decide_div_mod_eq.symm

@[simp] theorem length_bytesOf (n x : Nat) : (bytesOf n x).length = n := by simp [bytesOf]

theorem two_pow_byte_succ (n : Nat) : 2 ^ (8 * (n + 1)) = 256 * 2 ^ (8 * n) := by
  rw [Nat.mul_add, Nat.pow_add, Nat.mul_comm]

theorem bytesOf_succ (n x : Nat) : bytesOf (n + 1) x = BitVec.ofNat 8 x :: bytesOf n (x / 256) := by
  simp only [bytesOf, List.range_succ_eq_map, List.map_cons, List.map_map]
  congr 1
  · simp
  · exact List.map_congr_left fun i _ => by simp [two_pow_byte_succ, Nat.div_div_eq_div_mul]

/-- The bytes of x hold its low bits. -/
theorem ofBytes_bytesOf (n x : Nat) : ofBytes (bytesOf n x) = x % 2 ^ (8 * n) := by
  induction n generalizing x with
  | zero => simp [bytesOf, ofBytes, Nat.mod_one]
  | succ n ih => rw [bytesOf_succ, ofBytes, ih, two_pow_byte_succ, Nat.mod_mul, BitVec.toNat_ofNat]

theorem ofBytes_lt (l : List Byte) : ofBytes l < 2 ^ (8 * l.length) := by
  induction l with
  | nil => simp [ofBytes]
  | cons b l ih =>
    have := b.isLt
    rw [ofBytes, List.length_cons, two_pow_byte_succ]
    omega

/-! ## Integers of a pattern (03 R59) -/

theorem sext_eq_toInt (x : Nat) {w : Nat} (hw : 0 < w) : sext x w = (BitVec.ofNat w x).toInt := by
  have h2 : 2 ^ w = 2 * 2 ^ (w - 1) := by rw [Nat.mul_comm, Nat.two_pow_pred_mul_two hw]
  simp only [sext, BitVec.toInt_eq_toNat_cond, BitVec.toNat_ofNat]
  split <;> split <;> omega

theorem intOf_signed {t : Ty} (ht : t.isSigned = true) (hw : 0 < t.bits) (x : Nat) :
    intOf t x = (BitVec.ofNat t.bits x).toInt := by
  rw [intOf, if_pos ht, sext_eq_toInt x hw]

theorem intOf_unsigned {t : Ty} (ht : t.isSigned = false) {x : Nat} (hx : x < 2 ^ t.bits) : intOf t x = x := by
  rw [intOf, if_neg (by simp [ht]), Nat.mod_eq_of_lt hx]

end Sys2Proof

namespace Sys2Proof.Machine

open Sys2Proof

/-! ## Reading back what was written -/

@[simp] theorem State.length_mgets (s : State) (k n : Nat) : (s.mgets k n).length = n := by simp [State.mgets]

theorem State.mnat_lt (s : State) (k n : Nat) : s.mnat k n < 2 ^ (8 * n) := by
  simpa [State.mnat] using ofBytes_lt (s.mgets k n)

theorem State.mgets_mput (s : State) (k : Nat) (bs : List Byte) : (s.mput k bs).mgets k bs.length = bs := by
  refine List.ext_getElem (by simp) fun i _ hi => ?_
  simp [State.mgets, State.mget_mput, hi]

/-- A number reads back from the bytes it was written to. -/
theorem State.mnat_mput_bytesOf (s : State) (k n : Nat) {v : Nat} (hv : v < 2 ^ (8 * n)) :
    (s.mput k (bytesOf n v)).mnat k n = v := by
  have h := s.mgets_mput k (bytesOf n v)
  rw [length_bytesOf] at h
  rw [State.mnat, h, ofBytes_bytesOf, Nat.mod_eq_of_lt hv]

/-! ## The value of an atomic (08 R178) -/

/-- The types of an atomic whose values are integers or bit patterns. -/
abbrev atomIntTypes : List Ty := [.b32, .i32, .n32, .i64, .n64]

theorem atomIntTypes_bits : ∀ ty ∈ atomIntTypes, ty.bits = 8 * ty.bytes := by decide

theorem atomIntTypes_two_pow_bits : ∀ ty ∈ atomIntTypes, 2 ^ ty.bits = if ty.bytes = 8 then 2 ^ 64 else 2 ^ 32 := by decide

theorem atomIntTypes_isSigned : ∀ ty ∈ atomIntTypes, ty.isSigned = decide (ty = .i32 ∨ ty = .i64) := by decide

theorem atomIntTypes_ne_f32 {ty : Ty} (hty : ty ∈ atomIntTypes) : ty ≠ .f32 := by rintro rfl; simp at hty

/-- The integers of two patterns compare as 08 R178 says: signed for i32 and i64, unsigned for the others. -/
theorem intOf_lt_iff {ty : Ty} (hty : ty ∈ atomIntTypes) {x y : Nat} (hx : x < 2 ^ (8 * ty.bytes)) (hy : y < 2 ^ (8 * ty.bytes)) :
    intOf ty x < intOf ty y ↔
      if ty = .i32 ∨ ty = .i64 then
        (if ty.bytes = 8 then (BitVec.ofNat 64 x).toInt else (BitVec.ofNat 32 x).toInt) <
          if ty.bytes = 8 then (BitVec.ofNat 64 y).toInt else (BitVec.ofNat 32 y).toInt
      else x < y := by
  by_cases hs : ty = .i32 ∨ ty = .i64
  · rw [if_pos hs]
    obtain rfl | rfl := hs <;> rw [intOf_signed rfl (by decide), intOf_signed rfl (by decide)] <;> rfl
  · have hu : ty.isSigned = false := by rw [atomIntTypes_isSigned ty hty, decide_eq_false hs]
    rw [← atomIntTypes_bits ty hty] at hx hy
    rw [if_neg hs, intOf_unsigned hu hx, intOf_unsigned hu hy, Int.ofNat_lt]

/-- On integers and bit patterns the atomic unit computes the value that 08 R178 states. -/
theorem atomNew_eq_atomValue (op : AtomOp) {ty : Ty} (hty : ty ∈ atomIntTypes) {old data : Nat} (exp : Nat)
    (hold : old < 2 ^ (8 * ty.bytes)) (hdata : data < 2 ^ (8 * ty.bytes)) :
    atomNew op ty old data exp = Spec.atomValue op ty old data exp := by
  have notF32 := atomIntTypes_ne_f32 hty
  cases op with
  | add => simp [atomNew, Spec.atomValue, notF32, atomIntTypes_two_pow_bits ty hty]
  | min =>
    have lt := intOf_lt_iff hty hdata hold
    simp only [atomNew, Spec.atomValue, notF32, if_false, ← Int.not_lt, ite_not, lt]
  | max =>
    have lt := intOf_lt_iff hty hold hdata
    simp only [atomNew, Spec.atomValue, notF32, if_false, ← Int.not_lt, ite_not, lt]
  | and | or | xor | exch | cas => rfl

/-- The new value fits in the bytes of its type. -/
theorem atomNew_lt (op : AtomOp) {ty : Ty} (hty : ty ∈ atomIntTypes) {old data : Nat} (exp : Nat)
    (hold : old < 2 ^ (8 * ty.bytes)) (hdata : data < 2 ^ (8 * ty.bytes)) :
    atomNew op ty old data exp < 2 ^ (8 * ty.bytes) := by
  have notF32 := atomIntTypes_ne_f32 hty
  cases op with
  | add =>
    simp only [atomNew, notF32, if_false, atomIntTypes_bits ty hty]
    exact Nat.mod_lt _ (Nat.two_pow_pos _)
  | min | max =>
    simp only [atomNew, notF32, if_false]
    split <;> assumption
  | and => exact Nat.and_lt_two_pow _ hdata
  | or => exact Nat.or_lt_two_pow hold hdata
  | xor => exact Nat.xor_lt_two_pow hold hdata
  | exch => exact hdata
  | cas =>
    simp only [atomNew]
    split <;> assumption

end Sys2Proof.Machine
end

section
/-!
SUPPORT. What each event of the links does, and the statement about them (O60).
-/

namespace Sys2Proof.Machine

open Sys2Proof

/-! ## Writes of the host and of peers (12 R279, R280) -/

/-- The host writes the memories it may write to: HBM4 as far as it exists, and its own. -/
theorem exec_hostMemWrite_inside {a : Nat} {bytes : List Byte} (s : State)
    (h : a + bytes.length ≤ hbmBytes ∨ 2 ^ 52 ≤ a ∧ a + bytes.length ≤ 2 ^ 53) :
    exec (.hostMemWrite a bytes) s = .next (s.mput a bytes) := by
  change execHostMemWrite a bytes s = _
  simp only [execHostMemWrite]
  rw [if_pos]
  simpa using .inl h

/-- A host write that leaves HBM4 at its end changes nothing (log 35). -/
theorem exec_hostMemWrite_past {a : Nat} {bytes : List Byte} (s : State) (ha : a < 2 ^ 52) (h : hbmBytes < a + bytes.length) :
    exec (.hostMemWrite a bytes) s = .next s := by
  change execHostMemWrite a bytes s = _
  simp only [execHostMemWrite]
  rw [if_neg]
  simp only [Nat.zero_le, decide_true, Bool.true_and, Bool.or_eq_true, Bool.and_eq_true, decide_eq_true_eq]
  omega

theorem exec_peerStore (a : Nat) (bytes : List Byte) (s : State) :
    exec (.peerAccessArrival (.store a bytes)) s =
      .next (if a + bytes.length ≤ hbmBytes then s.mput (pKey 0 a) bytes else s) := by
  change execPeerAccessArrival (.store a bytes) s = _
  simp only [execPeerAccessArrival, decide_eq_true_eq]
  split <;> rfl

theorem exec_peerLoad (a len : Nat) (s : State) : exec (.peerAccessArrival (.load a len)) s = .next s := rfl

theorem exec_peerAtomic_inside (op : AtomOp) {ty : Ty} {a : Nat} (data exp : DWord) (s : State) (h : a + ty.bytes ≤ hbmBytes) :
    exec (.peerAccessArrival (.ratom op ty a data exp)) s =
      .next (s.mput (pKey 0 a) (bytesOf ty.bytes (atomNew op ty (s.mnat (pKey 0 a) ty.bytes) data.toNat exp.toNat))) := by
  change execPeerAccessArrival (.ratom op ty a data exp) s = _
  simp only [execPeerAccessArrival]
  rw [if_pos (decide_eq_true h)]

/-- A peer's atomic leaves the value of 08 R178 at its address, and every other byte as it was (12 R280). -/
theorem peerAtomic_runs (op : AtomOp) {ty : Ty} {a : Nat} {data : DWord} (exp : DWord) (s : State) (hty : ty ∈ atomIntTypes)
    (hdata : data.toNat < 2 ^ (8 * ty.bytes)) (h : a + ty.bytes ≤ hbmBytes) :
    Runs (.peerAccessArrival (.ratom op ty a data exp)) s fun t =>
      t.mnat (pKey 0 a) ty.bytes = Spec.atomValue op ty (s.mnat (pKey 0 a) ty.bytes) data.toNat exp.toNat ∧
      ∀ i, (i < pKey 0 a ∨ pKey 0 a + ty.bytes ≤ i) → t.mget i = s.mget i := by
  have hold := s.mnat_lt (pKey 0 a) ty.bytes
  refine ⟨_, exec_peerAtomic_inside op data exp s h, ?_, fun i hi => ?_⟩
  · rw [State.mnat_mput_bytesOf _ _ _ (atomNew_lt op hty _ hold hdata), atomNew_eq_atomValue op hty _ hold hdata]
  · exact s.mget_mput_outside _ (by rwa [length_bytesOf])

/-! ## Ports (21 R363) -/

theorem portStaysDown_iff (s : State) (port : Nat) :
    s.portStaysDown port = true ↔ sget 0 s.portDown port ≠ 0 ∧ sget 0 s.portDown port + 3000000 ≤ s.time3 + 1 := by
  simp [State.portStaysDown]

/-- The ports of a route entry without one of them. -/
def withoutPort (port m : Nat) : Nat := if tbit m port then m - 2 ^ port else m

@[simp] theorem testBit_withoutPort (port m : Nat) : (withoutPort port m).testBit port = false := by
  rw [withoutPort, tbit_eq_testBit]
  split
  · next h =>
    have hdiv : (m - 2 ^ port) / 2 ^ port = m / 2 ^ port - 1 := by simpa using Nat.sub_mul_div m (2 ^ port) 1
    rw [Nat.testBit_eq_decide_div_mod_eq, decide_eq_true_eq] at h
    rw [Nat.testBit_eq_decide_div_mod_eq, hdiv, decide_eq_false_iff_not]
    omega
  · next h => simpa using h

theorem withoutPort_only (port : Nat) : withoutPort port (2 ^ port) = 0 := by
  simp [withoutPort, tbit_eq_testBit]

theorem exec_portDownRemoval_stays {s : State} {port : Nat} (h : 18 ≤ port ∨ s.portStaysDown port = false ∨ s.fwRuns 0 = false) :
    exec (.portDownRemoval port) s = .next s := by
  change execPortDownRemoval port s = _
  simp only [execPortDownRemoval]
  rw [if_pos]
  simpa [or_assoc] using h

theorem exec_portDownRemoval_removes {s : State} {port : Nat} (hp : port < 18) (hd : s.portStaysDown port = true)
    (hf : s.fwRuns 0 = true) :
    exec (.portDownRemoval port) s = .next { s with
      route := (s.route.map fun q => (q.1, withoutPort port q.2)).filter fun q => q.2 != 0,
      lost := (s.route.filter fun q => tbit q.2 port && withoutPort port q.2 == 0).foldl (fun l q => minsert q.1 l) s.lost,
      ports := minsert port s.ports } := by
  change execPortDownRemoval port s = _
  simp only [execPortDownRemoval]
  rw [if_neg (by simp [hd, hf, hp])]
  rfl

/-- A removed port is in no route, and a destination that had no other port is lost. -/
theorem portDownRemoval_runs {s : State} {port : Nat} (hp : port < 18) (hd : s.portStaysDown port = true) (hf : s.fwRuns 0 = true) :
    Runs (.portDownRemoval port) s fun t => port ∈ t.ports ∧ (∀ q ∈ t.route, q.2.testBit port = false) ∧
      ∀ q ∈ s.route, q.2 = 2 ^ port → q.1 ∈ t.lost := by
  refine ⟨_, exec_portDownRemoval_removes hp hd hf, by simp, fun q hq => ?_, fun q hq honly => ?_⟩
  · obtain ⟨r, -, rfl⟩ := List.mem_map.mp (List.mem_filter.mp hq).1
    exact testBit_withoutPort port r.2
  · refine (mem_foldl_minsert Prod.fst _ _ _).mpr (.inr ⟨q, ?_, rfl⟩)
    simp [hq, honly, withoutPort_only, tbit_eq_testBit]

/-! ## Lines of the instruction cache (11 R256) -/

/-- The cluster after an awaited line has come: the lines that were kept, and it. -/
def Cluster.lineIn (c : Cluster) (line : Nat) (kept : List Nat) : Cluster :=
  { c with icmiss := c.icmiss.filter (· != line), icache := minsert line kept }

theorem mem_lineIn_icache {c : Cluster} {line a : Nat} {kept : List Nat} :
    a ∈ (c.lineIn line kept).icache ↔ a = line ∨ a ∈ kept := mem_minsert line a kept

theorem not_mem_lineIn_icmiss {c : Cluster} {line : Nat} {kept : List Nat} : line ∉ (c.lineIn line kept).icmiss := by
  simp [Cluster.lineIn]

theorem exec_lineArrival_room {s : State} {n line : Nat} (hm : line ∈ (s.cluster n).icmiss)
    (hl : (s.cluster n).icache.length < icacheLines) :
    exec (.instructionCacheLineArrival n line) s =
      .next (s.setCluster n ((s.cluster n).lineIn line (s.cluster n).icache)) := by
  change execInstructionCacheLineArrival n line s = _
  simp [execInstructionCacheLineArrival, hm, Nat.not_le.mpr hl, Cluster.lineIn]

theorem exec_lineArrival_full {s : State} {n line : Nat} (hm : line ∈ (s.cluster n).icmiss)
    (hl : icacheLines ≤ (s.cluster n).icache.length) :
    exec (.instructionCacheLineArrival n line) s =
      .next (s.takeFree.2.setCluster n ((s.cluster n).lineIn line
        ((s.cluster n).icache.eraseIdx (s.takeFree.1.toNat % (s.cluster n).icache.length)))) := by
  change execInstructionCacheLineArrival n line s = _
  simp [execInstructionCacheLineArrival, hm, hl, Cluster.lineIn]

/-- An element of a list other than the one at a place is still there when the place is erased. -/
theorem mem_eraseIdx_of_ne {α : Type} {l : List α} {i : Nat} (hi : i < l.length) {x : α} (hx : x ∈ l) (hne : x ≠ l[i]) :
    x ∈ l.eraseIdx i := by
  obtain ⟨j, hj, rfl⟩ := List.getElem_of_mem hx
  exact List.mem_eraseIdx_iff_getElem.mpr ⟨j, hj, fun h => hne (by simp [h]), rfl⟩

/-- An awaited line comes into the cache; a full cache loses one line for it (log 42). -/
theorem lineArrival_runs {s : State} {n line : Nat} (hm : line ∈ (s.cluster n).icmiss) :
    Runs (.instructionCacheLineArrival n line) s fun t =>
      let l := (s.cluster n).icache
      line ∈ (t.cluster n).icache ∧ line ∉ (t.cluster n).icmiss ∧
      (l.length < 4096 → t = { s with clusters := t.clusters } ∧ ∀ a ∈ l, a ∈ (t.cluster n).icache) ∧
      (4096 ≤ l.length → t = { s with clusters := t.clusters, fresh := t.fresh } ∧
        ∃ victim, ∀ a ∈ l, a ≠ victim → a ∈ (t.cluster n).icache) := by
  rcases Nat.lt_or_ge (s.cluster n).icache.length icacheLines with hl | hl
  case inl =>
    refine ⟨_, exec_lineArrival_room hm hl, ?_⟩
    simp only [State.cluster_setCluster]
    exact ⟨mem_lineIn_icache.mpr (.inl rfl), not_mem_lineIn_icmiss,
      fun _ => ⟨rfl, fun _ ha => mem_lineIn_icache.mpr (.inr ha)⟩, fun h => absurd hl (Nat.not_lt.mpr h)⟩
  case inr =>
    have hi : s.takeFree.1.toNat % (s.cluster n).icache.length < (s.cluster n).icache.length :=
      Nat.mod_lt _ (Nat.lt_of_lt_of_le (by decide) hl)
    refine ⟨_, exec_lineArrival_full hm hl, ?_⟩
    simp only [State.cluster_setCluster]
    exact ⟨mem_lineIn_icache.mpr (.inl rfl), not_mem_lineIn_icmiss, fun h => absurd h (Nat.not_lt.mpr hl),
      fun _ => ⟨rfl, _, fun _ ha hne => mem_lineIn_icache.mpr (.inr (mem_eraseIdx_of_ne hi ha hne))⟩⟩

/-! ## Links, the clock and pool windows (21 R356, R361, R362, R367) -/

theorem exec_flitCrcReplay (port : Nat) (s : State) : exec (.flitCrcReplay port) s = .next s := rfl

theorem exec_linkTraining (link : Nat) (b : Bool) (s : State) :
    exec (.linkTraining link b) s = .next (if 2 ≤ link then s
      else { s with links := if b then s.links.filter (· != link) else minsert link s.links }) := rfl

/-- Training decides whether this link is up, and leaves every other link as it was. -/
theorem linkTraining_runs {link : Nat} (h : link < 2) (b : Bool) (s : State) :
    Runs (.linkTraining link b) s fun t => (link ∈ t.links ↔ b = false) ∧ ∀ m, m ≠ link → (m ∈ t.links ↔ m ∈ s.links) := by
  refine ⟨_, exec_linkTraining link b s, ?_⟩
  rw [if_neg (Nat.not_le.mpr h)]
  cases b with
  | true => simp +contextual
  | false => simp +contextual

theorem exec_ptpLock (b : Bool) (s : State) :
    exec (.ptpLock b) s = .next (if s.fwRuns 0 then { s with ptp := b } else s) := rfl

theorem poolWindowDown_runs (vi n : Nat) (s : State) :
    Runs (.poolWindowDown vi n) s fun t => n ∈ (t.vi vi).poolDown ∧ t = { s with vis := t.vis } :=
  ⟨s.modVi vi fun v => { v with poolDown := minsert n v.poolDown }, rfl, by simp [State.modVi], rfl⟩

/-- Settles O60, event by event: each clause is the equation of its event, with what that equation writes read back. -/
theorem linksAndPeers : Obligations.LinksAndPeers := by
  intro s a n k bytes b
  refine ⟨fun h => ?hostWrite, fun ha h => ⟨exec_hostMemWrite_past s ha h, ?storePast⟩, fun h => ?store,
    fun len => exec_peerLoad a len s, fun op ty data exp hty hdata _ h => peerAtomic_runs op exp s hty hdata h,
    ⟨fun h => ?portUp, fun h => exec_portDownRemoval_stays (.inr (.inr h)),
      fun hn h hf => portDownRemoval_runs hn ((portStaysDown_iff s n).mpr h) hf⟩,
    fun h => exec_portDownRemoval_stays (.inl h), lineArrival_runs, ⟨s, exec_flitCrcReplay n s, rfl⟩,
    fun h => linkTraining_runs h b s, fun h => ?noLink, ⟨_, exec_ptpLock b s, rfl⟩, poolWindowDown_runs n k s⟩
  case hostWrite => exact ⟨_, exec_hostMemWrite_inside s h, fun i => s.mget_mput a i bytes, s.mput_cores a bytes⟩
  case storePast => rw [exec_peerStore, if_neg (Nat.not_le.mpr h)]
  case store =>
    refine ⟨_, exec_peerStore a bytes s, ?_⟩
    rw [if_pos h]
    exact ⟨fun i => s.mget_mput (pKey 0 a) i bytes, s.mput_cores (pKey 0 a) bytes⟩
  case portUp =>
    rw [← portStaysDown_iff, Bool.not_eq_true] at h
    exact exec_portDownRemoval_stays (.inr (.inl h))
  case noLink => rw [exec_linkTraining, if_pos h]

end Sys2Proof.Machine
end

section
/-!
SUPPORT. Sets of lanes (01 R10): what keeps a list of lanes one, and that the teams' masks stay sets of lanes whatever the control
group does.
-/

namespace Sys2Proof

/-! ## Entries of data by key -/

theorem sget_eq_or_mem {α : Type} (dflt : α) (d : Sparse α) (k : Nat) : sget dflt d k = dflt ∨ (k, sget dflt d k) ∈ d := by
  induction d with
  | nil => exact .inl rfl
  | cons q l ih =>
    obtain ⟨k', v⟩ := q
    by_cases h : k' = k
    · simp [sget, h]
    · simpa [sget, h] using ih.imp_right .inr

theorem mem_of_mem_sins {α : Type} {d : Sparse α} {k : Nat} {v : α} {q : Nat × α} (h : q ∈ sins d k v) :
    q = (k, v) ∨ q ∈ d := by
  induction d with
  | nil => simpa [sins] using h
  | cons a l ih =>
    simp only [sins] at h
    split at h
    · rcases List.mem_cons.mp h with h | h
      · exact .inr (h ▸ List.mem_cons_self)
      · exact (ih h).imp_right (List.mem_cons_of_mem _)
    · split at h
      · exact (List.mem_cons.mp h).imp_right (List.mem_cons_of_mem _)
      · exact List.mem_cons.mp h

/-- A write brings no entry but its own. -/
theorem mem_of_mem_sput {α : Type} [DecidableEq α] {dflt v : α} {d : Sparse α} {k : Nat} {q : Nat × α}
    (h : q ∈ sput dflt d k v) : q = (k, v) ∨ q ∈ d := by
  unfold sput at h
  split at h
  · exact .inr (List.mem_filter.mp h).1
  · exact mem_of_mem_sins h

/-! ## Sets of lanes -/

namespace Spec

theorem laneSet_nil : laneSet [] := ⟨.nil, nofun⟩

theorem laneSet.sublist {l m : Mask} (hm : laneSet m) (h : l.Sublist m) : laneSet l :=
  ⟨hm.1.sublist h, fun x hx => hm.2 x (h.subset hx)⟩

theorem laneSet.mdiff {a : Mask} (h : laneSet a) (b : Mask) : laneSet (mdiff a b) := h.sublist List.filter_sublist

theorem pairwise_minsert (x : Nat) {m : Mask} (h : m.Pairwise (· < ·)) : (minsert x m).Pairwise (· < ·) := by
  induction m with
  | nil => exact List.pairwise_singleton _ x
  | cons a l ih =>
    have ⟨ha, hl⟩ := List.pairwise_cons.mp h
    unfold minsert
    split
    case isTrue hx => exact List.pairwise_cons.mpr ⟨List.forall_mem_cons.mpr ⟨hx, fun b hb => Nat.lt_trans hx (ha b hb)⟩, h⟩
    case isFalse hx =>
      split
      · exact h
      case isFalse hne =>
        refine List.pairwise_cons.mpr ⟨fun b hb => ?_, ih hl⟩
        rcases (mem_minsert x b l).mp hb with rfl | hb
        · omega
        · exact ha b hb

theorem laneSet.minsert {x : Nat} {m : Mask} (hm : laneSet m) (hx : x < 1024) : laneSet (minsert x m) := by
  refine ⟨pairwise_minsert x hm.1, fun y hy => ?_⟩
  rcases (mem_minsert x y m).mp hy with rfl | hy
  · exact hx
  · exact hm.2 y hy

theorem laneSet.munion {a b : Mask} (ha : ∀ x ∈ a, x < 1024) (hb : laneSet b) : laneSet (munion a b) := by
  induction a with
  | nil => exact hb
  | cons x a ih =>
    have ⟨hx, ha⟩ := List.forall_mem_cons.mp ha
    exact (ih ha).minsert hx

/-- Each group of a split takes its lanes, in their order, from those that the split has. -/
theorem sublist_of_mem_splitGroups {order : List DWord} {succ : List (Nat × Option DWord)} {g : DWord × Mask}
    (h : g ∈ Machine.splitGroups order succ) : g.2.Sublist (succ.map (·.1)) := by
  obtain ⟨a, -, rfl⟩ := List.mem_map.mp (List.mem_filter.mp h).1
  exact List.filter_sublist.map _

end Spec

end Sys2Proof

namespace Sys2Proof.Machine

open Sys2Proof Spec

theorem biggest_mem {l : List (DWord × Mask)} {g : DWord × Mask} (h : biggest l = some g) : g ∈ l := by
  induction l with
  | nil => cases h
  | cons a l ih =>
    simp only [biggest] at h
    split at h
    · cases h; exact List.mem_cons_self
    · next b hb =>
      split at h
      · cases h; exact List.mem_cons_of_mem _ (ih hb)
      · cases h; exact List.mem_cons_self

/-! ## The masks of a team -/

section team
variable {t : Team}

/-- Nothing but its masks decides whether they are sets of lanes. -/
theorem lanesOk_congr {u : Team} (hm : u.member = t.member) (hp : u.paths = t.paths) (h : lanesOk t) : lanesOk u := by
  rwa [lanesOk, hm, hp]

theorem laneSet_path (h : lanesOk t) (p : Nat) : laneSet (t.path p).mask := by
  rcases sget_eq_or_mem Path.empty t.paths p with he | hm
  · rw [Team.path, he]; exact laneSet_nil
  · exact h.2 _ hm

theorem laneSet_sput {d : Sparse Path} (h : ∀ q ∈ d, laneSet q.2.mask) (p : Nat) {x : Path} (hx : laneSet x.mask) :
    ∀ q ∈ sput Path.empty d p x, laneSet q.2.mask := by
  intro q hq
  rcases mem_of_mem_sput hq with rfl | hq
  · exact hx
  · exact h q hq

theorem lanesOk_setPath (h : lanesOk t) (p : Nat) {x : Path} (hx : laneSet x.mask) : lanesOk (t.setPath p x) :=
  ⟨h.1, laneSet_sput h.2 p hx⟩

theorem lanesOk_modPath (h : lanesOk t) (p : Nat) {f : Path → Path} (hf : ∀ x, (f x).mask = x.mask) : lanesOk (t.modPath p f) :=
  lanesOk_setPath h p (by rw [hf]; exact laneSet_path h p)

theorem lanesOk_addPath (h : lanesOk t) {x : Path} (hx : laneSet x.mask) : lanesOk (t.addPath x) :=
  ⟨h.1, laneSet_sput h.2 _ hx⟩

theorem lanesOk_leave (h : lanesOk t) (gone : Mask) (n : Nat) : lanesOk { t with member := mdiff t.member gone, inst := n } :=
  ⟨h.1.mdiff gone, h.2⟩

/-- A team that drains has no lanes left. -/
theorem lanesOk_drain (t : Team) (c : CoreSt) (slot : Nat) : lanesOk (t.drain.dropEnded c slot) :=
  ⟨laneSet_nil, fun _ h => absurd h List.not_mem_nil⟩

/-- The fragments of a split are sets of lanes when its groups are. -/
theorem lanesOk_fragments {groups : List (DWord × Mask)} (hg : ∀ g ∈ groups, laneSet g.2) (p : Path) (push : List (Nat × Nat))
    (h : lanesOk t) : lanesOk (groups.foldl (fun t q => t.addPath (p.into q push)) t) := by
  induction groups generalizing t with
  | nil => exact h
  | cons g groups ih =>
    have ⟨hg, hl⟩ := List.forall_mem_cons.mp hg
    exact ih hl (lanesOk_addPath h hg)

/-- The union that a merge takes over its paths. -/
theorem laneSet_union_masks {l : List (Nat × Path)} (hl : ∀ q ∈ l, laneSet q.2.mask) {m : Mask} (hm : laneSet m) :
    laneSet (l.foldl (fun m q => munion q.2.mask m) m) := by
  induction l generalizing m with
  | nil => exact hm
  | cons q l ih =>
    have ⟨hq, hl⟩ := List.forall_mem_cons.mp hl
    exact ih hl (hm.munion hq.2)

/-- A merged path has the union of the masks, and the other paths that arrived have none (01 R22). -/
theorem lanesOk_merge (h : lanesOk t) (tok inst : Nat) : lanesOk (t.merge tok inst) := by
  have arrived : ∀ q ∈ t.arrived tok inst, laneSet q.2.mask := fun q hq => h.2 q (List.mem_filter.mp hq).1
  unfold Team.merge
  split
  · exact h
  · next i p rest ha =>
    rw [ha] at arrived
    refine lanesOk_setPath ?_ i (laneSet_union_masks arrived laneSet_nil)
    exact foldl_holds _ lanesOk (fun _ q h => lanesOk_setPath h q.1 laneSet_nil) rest t h

theorem lanesOk_vputs (h : lanesOk t) (r : Nat) (l : List (Nat × Word)) : lanesOk (t.vputs r l) :=
  foldl_holds (fun (t : Team) (q : Nat × Word) => t.vput r q.1 q.2) lanesOk (fun _ _ h => h) l t h

theorem lanesOk_sputr (h : lanesOk t) (r : Nat) (v : Word) : lanesOk (t.sputr r v) := h

theorem lanesOk_setPred (h : lanesOk t) (n l : Nat) (b : Bool) : lanesOk (t.setPred n l b) := by
  unfold Team.setPred
  split <;> exact h

theorem lanesOk_ffOr (h : lanesOk t) (l : Nat) (f : Flags) : lanesOk (t.ffOr l f) := by
  unfold Team.ffOr
  split <;> exact h

/-- The arcs of a prism write registers only (01 R30). -/
theorem lanesOk_arcWrites (h : lanesOk t) (hr : Here) (x : Prism) (l : Nat) (arcs : List PArc) :
    lanesOk (t.arcWrites hr x l arcs) := by
  unfold Team.arcWrites
  refine foldl_holds _ lanesOk (fun t r h => lanesOk_ffOr ?_ l _) arcs t h
  split
  · exact lanesOk_setPred h _ _ _
  · exact lanesOk_setPred h _ _ _
  · exact h

end team

/-! ## What changes no team -/

section teams
variable (s : State)

@[simp] theorem State.nbRecheck_teams (core w : Nat) : (s.nbRecheck core w).teams = s.teams := rfl
@[simp] theorem State.sharePosted_teams (core slot path : Nat) (l : List Nat) :
    (s.sharePosted core slot path l).teams = s.teams := rfl

@[simp] theorem State.tracePost_teams (core slot path vi kind value pc : Nat) :
    (s.tracePost core slot path vi kind value pc).teams = s.teams := by
  unfold State.tracePost
  dsimp only
  split <;> rfl

@[simp] theorem State.performPosted_teams (core : Nat) (mine : Posted → Bool) (k n : Nat) :
    (s.performPosted core mine k n).teams = s.teams := by
  unfold State.performPosted
  dsimp only
  split
  · rfl
  · exact foldl_keeps (fun (s : State) (q : Posted) => s.mput q.key q.bytes) State.teams (fun t _ => t.mput_teams _ _) _ _

@[simp] theorem State.sendKeys_teams (core : Nat) (ks : List Nat) : (s.sendKeys core ks).teams = s.teams :=
  foldl_keeps (fun (t : State) (q : Nat × Nat) => t.post core linkSlot [] q.1 _) State.teams (fun _ _ => rfl) _ s

@[simp] theorem State.writeBack_teams (core : Nat) (ks : List Nat) : (s.writeBack core ks).teams = s.teams :=
  foldl_keeps (fun (t : State) (k : Nat) => (t.performPosted core _ k 1).mput k _) State.teams (fun _ _ => by simp) ks s

@[simp] theorem State.writeOut_teams (core : Nat) (ks : List Nat) : (s.writeOut core ks).teams = s.teams := by
  unfold State.writeOut
  split
  · exact s.sendKeys_teams core ks
  · exact s.writeBack_teams core ks

@[simp] theorem State.l1Drop_teams (core line : Nat) : (s.l1Drop core line).teams = s.teams := s.writeOut_teams core _

@[simp] theorem State.l1Room_teams (core : Nat) : (s.l1Room core).teams = s.teams := by
  unfold State.l1Room
  dsimp only
  split
  · rfl
  · exact State.l1Drop_teams _ core _

@[simp] theorem State.l1Fill_teams (core line : Nat) : (s.l1Fill core line).teams = s.teams := by
  unfold State.l1Fill
  split
  · rfl
  · exact s.l1Room_teams core

@[simp] theorem State.loadAt_teams (r : PathRef) (tgt pa n : Nat) : (s.loadAt r tgt pa n).2.teams = s.teams := by
  unfold State.loadAt
  dsimp only
  split
  · exact s.l1Fill_teams r.core _
  · rfl

@[simp] theorem State.storeAt_teams (r : PathRef) (tgt pa : Nat) (bs : List Byte) : (s.storeAt r tgt pa bs).teams = s.teams := by
  unfold State.storeAt State.storeAs
  dsimp only
  split
  · exact s.l1Fill_teams r.core _
  · split
    · exact s.mput_teams _ bs
    · rfl

@[simp] theorem State.postFaults_teams (h : Here) (src kind token : Nat) (l : List (Nat × Nat × Nat × Nat)) :
    (s.postFaults h src kind token l).teams = s.teams :=
  foldl_keeps (fun (s : State) (_ : Nat × Nat × Nat × Nat) => s.postFault h.r.core _) State.teams (fun _ _ => rfl) _ s

@[simp] theorem State.joinWait_teams (core vi page : Nat) (f : WaitE → WaitE) : (s.joinWait core vi page f).2.teams = s.teams := by
  unfold State.joinWait
  dsimp only
  split <;> rfl

/-- What a split spills goes to memory. -/
@[simp] theorem State.spillAfter_teams (h : Here) : (s.spillAfter h).teams = s.teams := by
  unfold State.spillAfter
  split
  · refine foldl_keeps _ State.teams (fun u i => ?_) _ s
    split
    · exact State.storeAt_teams _ h.r _ _ _
    · rfl
  · rfl

end teams

/-! ## States whose teams keep their sets of lanes -/

/-- Every team whose masks are sets of lanes in the first state has such masks in the second. -/
structure KeepsLanes (s t : State) : Prop where
  team : ∀ c k, lanesOk (s.team c k) → lanesOk (t.team c k)

section keeps
variable {s t u : State}

theorem KeepsLanes.refl (s : State) : KeepsLanes s s := ⟨fun _ _ h => h⟩

theorem KeepsLanes.congr (h : KeepsLanes s t) (hu : u.teams = t.teams) : KeepsLanes s u :=
  ⟨fun c k hs => by rw [State.team, hu]; exact h.team c k hs⟩

/-- A team that is written has its masks in order when it had them in order at the start. -/
theorem KeepsLanes.setTeam (h : KeepsLanes s t) {c k : Nat} {x : Team} (hx : lanesOk (s.team c k) → lanesOk x) :
    KeepsLanes s (t.setTeam c k x) := by
  refine ⟨fun c' k' hs => ?_⟩
  by_cases he : teamKey c k = teamKey c' k'
  · have same (t : State) : t.team c' k' = t.team c k := by rw [State.team, State.team, he]
    rw [same, State.team_setTeam]
    exact hx (same s ▸ hs)
  · rw [State.team_setTeam_other t x he]
    exact h.team c' k' hs

theorem KeepsLanes.modTeam (h : KeepsLanes s t) {c k : Nat} {f : Team → Team} (hf : ∀ x, lanesOk x → lanesOk (f x)) :
    KeepsLanes s (t.modTeam c k f) := h.setTeam fun hs => hf _ (h.team c k hs)

theorem KeepsLanes.modPath (h : KeepsLanes s t) (r : PathRef) {f : Path → Path} (hf : ∀ x, (f x).mask = x.mask) :
    KeepsLanes s (t.modPath r f) := h.modTeam fun _ hx => lanesOk_modPath hx r.path hf

theorem KeepsLanes.withEnds (h : KeepsLanes s t) (l : List EndReq) : KeepsLanes s { t with ends := l } := h.congr rfl

section ops
variable (h : KeepsLanes s t) (r : PathRef)
include h

theorem KeepsLanes.count (n : Nat) : KeepsLanes s (t.count r n) := h.modTeam fun _ hx => hx

theorem KeepsLanes.goto (pc : DWord) : KeepsLanes s (t.goto r pc) := h.modPath r fun _ => rfl

theorem KeepsLanes.finish (len n : Nat) : KeepsLanes s (t.finish r len n) := (h.count r n).goto r _

theorem KeepsLanes.waitFor (reason : Nat) : KeepsLanes s (t.waitFor r reason) := h.modPath r fun _ => rfl

theorem KeepsLanes.stallFor (reason : Nat) : KeepsLanes s (t.stallFor r reason) := h.modPath r fun _ => rfl

/-! ## Traps keep the lanes of the path (11 R240) -/

theorem KeepsLanes.eclipsePath (hr : Here) (kind num : Nat) (ti : TrapInfo) : KeepsLanes s (t.eclipsePath hr kind num ti) := by
  refine KeepsLanes.congr (KeepsLanes.congr ?_ (State.setDie_teams ..)) (State.tracePost_teams ..)
  exact h.modPath hr.r fun _ => rfl

theorem KeepsLanes.takeTrap (kind num : Nat) (ti : TrapInfo) : KeepsLanes s (t.takeTrap r kind num ti) := by
  unfold State.takeTrap
  dsimp only
  split
  · exact h.eclipsePath _ kind num ti
  · split
    · refine KeepsLanes.withEnds ?_ _
      exact h.modPath r fun _ => rfl
    · exact h.modPath r fun _ => rfl

theorem KeepsLanes.deliverPending : KeepsLanes s (t.deliverPending r) := by
  unfold State.deliverPending
  dsimp only
  split
  · exact h
  · refine KeepsLanes.takeTrap ?_ r _ _ _
    exact h.modPath r fun _ => rfl

theorem KeepsLanes.trapHere (len cause info lane : Nat) : KeepsLanes s (t.trapHere r len cause info lane) := by
  unfold State.trapHere
  dsimp only
  split
  · exact h.deliverPending r
  · exact h.takeTrap r _ _ _

theorem KeepsLanes.park (hr : Here) (src kind : Nat) (faults : List (Nat × Nat × Nat × Nat)) (lanes : List LaneAcc) (op : AccOp)
    (a resume : DWord) : KeepsLanes s (t.park hr src kind faults lanes op a resume) := by
  refine KeepsLanes.modPath (h.congr ?_) hr.r fun _ => rfl
  exact foldl_keeps _ (fun x : List Nat × State => x.2.teams) (fun x _ => State.joinWait_teams x.2 ..) _ ([], t)

/-! ## Lanes that leave (01 R36) -/

theorem KeepsLanes.flushDrained (core slot : Nat) : KeepsLanes s (t.flushDrained core slot) := by
  unfold State.flushDrained
  dsimp only
  split
  · exact h.setTeam fun hs => lanesOk_congr rfl rfl (h.team core slot hs)
  · exact h

theorem KeepsLanes.afterExit (core slot : Nat) : KeepsLanes s (t.afterExit core slot) := by
  have drained : KeepsLanes s
      ((t.setTeam core slot ((t.team core slot).drain.dropEnded (t.core core) slot)).flushDrained core slot) :=
    (h.setTeam fun _ => lanesOk_drain _ _ _).flushDrained core slot
  unfold State.afterExit
  dsimp only
  refine KeepsLanes.congr ?_ (State.nbRecheck_teams ..)
  split
  · split
    · split
      · exact (drained.modTeam fun t _ => lanesOk_drain t _ _).flushDrained core _
      · exact drained
    · exact drained
  · exact h

theorem KeepsLanes.leave (p : Prop) [Decidable p] (core slot : Nat) : KeepsLanes s (if p then t else t.afterExit core slot) := by
  split
  · exact h
  · exact h.afterExit core slot

/-! ## Splitting and merging (01 R19, R21, R22) -/

/-- A split hands on the lanes that it is given, in their order. -/
theorem KeepsLanes.split (hr : Here) (passes : Nat) (order : List DWord) {succ : List (Nat × Option DWord)}
    (hl : lanesOk (s.team hr.r.core hr.r.slot) → laneSet (succ.map (·.1))) (token : Nat) :
    KeepsLanes s (t.split hr passes order succ token) := by
  have counted := h.count hr.r passes
  unfold State.split
  generalize t.count hr.r passes = u at counted ⊢
  refine KeepsLanes.leave (KeepsLanes.congr (counted.setTeam fun hs => ?_) (State.sharePosted_teams ..)) _ _ _
  have groups : ∀ g ∈ splitGroups order succ, laneSet g.2 := fun g hg => (hl hs).sublist (sublist_of_mem_splitGroups hg)
  have team := counted.team _ _ hs
  dsimp only
  generalize u.team hr.r.core hr.r.slot = v at team ⊢
  split
  · exact lanesOk_setPath (lanesOk_leave team _ _) _ laneSet_nil
  · next g hg =>
    refine lanesOk_fragments (fun q hq => groups q (List.mem_filter.mp hq).1) _ _ ?_
    exact lanesOk_setPath (lanesOk_leave team _ _) _ (groups g (biggest_mem hg))

theorem KeepsLanes.tryMerge (core slot tok inst : Nat) : KeepsLanes s (t.tryMerge core slot tok inst) := by
  unfold State.tryMerge
  dsimp only
  split
  · split
    · exact h
    · refine KeepsLanes.congr (h.setTeam fun hs => lanesOk_merge (h.team core slot hs) tok inst) ?_
      exact foldl_keeps (fun (s : State) (q : Nat × Path) => s.sharePosted core slot q.1 _) State.teams (fun _ _ => rfl) _ _
  · exact h

end ops
end keeps

/-! ## Meanings whose next state keeps every team's sets of lanes -/

/-- What an instruction answers, if it is a next state, keeps the masks sets of lanes. -/
structure AnswerKeeps (s : State) (o : Res) : Prop where
  of_next : ∀ t, o = .next t → KeepsLanes s t

section answers
variable {s t : State}

theorem AnswerKeeps.next (h : KeepsLanes s t) : AnswerKeeps s (.next t) := ⟨fun _ ht => by cases ht; exact h⟩

theorem AnswerKeeps.ite {p : Prop} [Decidable p] {a b : Res} (ha : AnswerKeeps s a) (hb : AnswerKeeps s b) :
    AnswerKeeps s (if p then a else b) := by
  split
  · exact ha
  · exact hb

theorem AnswerKeeps.onPath {f : Here → Res} (h : AnswerKeeps s (f (s.hereAt s.cur))) : AnswerKeeps s (onPath s f) :=
  ⟨fun t ht => h.of_next t (onPath_next s ht).2⟩

variable (s) (h : Here)

theorem answerKeeps_trapIssue (len cause info lane : Nat) : AnswerKeeps s (trapIssue s h len cause info lane) :=
  .next ((KeepsLanes.refl s).trapHere h.r len cause info lane)

variable {k : Res} (hk : AnswerKeeps s k)
include hk

theorem AnswerKeeps.faulting (n : Nat) : AnswerKeeps s (faulting s h n k) :=
  .ite hk (.next ((KeepsLanes.refl s).waitFor h.r 12))

theorem AnswerKeeps.needClean (len : Nat) (e : Mask) (vs ss : List Nat) : AnswerKeeps s (needClean s h len e vs ss k) :=
  .ite (answerKeeps_trapIssue ..) (.ite (answerKeeps_trapIssue ..) hk)

theorem AnswerKeeps.releasing (scope : Nat) : AnswerKeeps s (releasing s h scope k) := by
  have waits := (KeepsLanes.refl s).congr (s.sendKeys_teams h.r.core ((s.core h.r.core).l1.dirty.filter s.poolLost))
  exact .ite (.next ((KeepsLanes.refl s).stallFor h.r 2)) (.ite (.next (waits.stallFor h.r 2)) hk)

theorem AnswerKeeps.spillAccess (len kind : Nat) (lines : List (LaneAcc × TRes)) :
    AnswerKeeps s (spillAccess s h len kind lines k) := by
  refine .ite ?fatal (.ite ?soft hk)
  case fatal => exact .faulting s h (.next (((KeepsLanes.refl s).congr (s.postFaults_teams ..)).trapHere h.r _ _ _ _)) _
  case soft => exact .faulting s h (.next ((KeepsLanes.refl s).park h ..)) _

omit hk in
theorem answerKeeps_spillFault (len : Nat) : AnswerKeeps s (spillFault s h len) :=
  .faulting s h (.next ((KeepsLanes.refl s).park h ..)) 1

theorem AnswerKeeps.spillGate (len : Nat) (t : Team) : AnswerKeeps s (spillGate s h len t k) :=
  .ite hk (.ite (answerKeeps_spillFault s h len) (hk.spillAccess s h len 1 _))

omit hk in
/-- A pop brings an entry in by loads, which change no team (01 R25). -/
theorem AnswerKeeps.popGate (len : Nat) {f : State → Res} (hf : ∀ t, KeepsLanes s t → AnswerKeeps s (f t)) :
    AnswerKeeps s (popGate s h len f) := by
  refine .ite (hf s (.refl s)) (.spillAccess s h (hf _ ((KeepsLanes.refl s).congr ?_)) len 0 _)
  refine foldl_keeps _ State.teams (fun u q => ?_) _ s
  split
  · exact u.loadAt_teams h.r _ _ 64
  · rfl

end answers

/-! ## The control group (06 R119 to R131) and the prism (06 R126) -/

section control
variable (s : State)

/-- The issuing path of a team whose masks are sets of lanes has one. -/
theorem laneSet_hereAt_mask {r : PathRef} (h : lanesOk (s.team r.core r.slot)) : laneSet (s.hereAt r).p.mask :=
  laneSet_path h r.path

/-- Successors given to the lanes of the issuing path are given to a set of lanes. -/
theorem laneSet_successors {r : PathRef} {f : Nat → Nat × Option DWord} (hf : ∀ l, (f l).1 = l)
    (h : lanesOk (s.team r.core r.slot)) : laneSet (((s.hereAt r).p.mask.map f).map (·.1)) := by
  rw [List.map_map, show (·.1) ∘ f = id from funext hf, List.map_id]
  exact laneSet_hereAt_mask s h

theorem answerKeeps_splitTo (r : PathRef) (order : List DWord) (succ : Nat → DWord) (token : Nat) :
    AnswerKeeps s (splitTo s (s.hereAt r) order succ token) :=
  .spillGate s _ (.next (KeepsLanes.congr ((KeepsLanes.refl s).split _ 0 order (laneSet_successors s fun _ => rfl) token)
    (State.spillAfter_teams ..))) 8 _

theorem answerKeeps_execBra (x : Ctl) : AnswerKeeps s (execBra x s) :=
  .onPath (.next (((KeepsLanes.refl s).count _ 0).goto _ _))

theorem answerKeeps_execBrc (x : Ctl) : AnswerKeeps s (execBrc x s) := .onPath (answerKeeps_splitTo s ..)

theorem answerKeeps_execBrv (x : Ctl) : AnswerKeeps s (execBrv x s) :=
  .onPath (.needClean s _ (answerKeeps_splitTo s ..) ..)

theorem answerKeeps_execBrx (x : Ctl) : AnswerKeeps s (execBrx x s) :=
  .onPath (.needClean s _ (answerKeeps_splitTo s ..) ..)

theorem answerKeeps_execCall (x : Ctl) : AnswerKeeps s (execCall x s) :=
  .onPath (.next ((((KeepsLanes.refl s).setTeam fun hs => lanesOk_vputs hs _ _).count _ 0).goto _ _))

theorem answerKeeps_execRet (x : Ctl) : AnswerKeeps s (execRet x s) := by
  refine .onPath (.needClean s _ (.ite ?diverge (.ite ?align (.ite ?beyond ?goes))) ..)
  case goes => exact .next (((KeepsLanes.refl s).count _ 0).goto _ _)
  all_goals exact answerKeeps_trapIssue ..

theorem answerKeeps_execLoop (x : Ctl) : AnswerKeeps s (execLoop x s) :=
  .onPath (.needClean s _ (.next ((((KeepsLanes.refl s).setTeam fun hs => lanesOk_sputr hs _ _).count _ 0).goto _ _)) ..)

theorem answerKeeps_execNop (x : Ctl) : AnswerKeeps s (execNop x s) := .onPath (.next ((KeepsLanes.refl s).finish _ 8 0))

theorem answerKeeps_execIpref (x : Ctl) : AnswerKeeps s (execIpref x s) :=
  .onPath (.next (((KeepsLanes.refl s).congr (State.setCluster_teams ..)).finish _ 8 0))

theorem answerKeeps_execYield (x : Ctl) : AnswerKeeps s (execYield x s) :=
  .onPath (.next (((KeepsLanes.refl s).finish _ 8 0).modPath _ fun _ => rfl))

theorem answerKeeps_execJoinMerge (core slot tok inst : Nat) : AnswerKeeps s (execJoinMerge core slot tok inst s) :=
  .next ((KeepsLanes.refl s).tryMerge core slot tok inst)

theorem answerKeeps_execJoin (x : Ctl) : AnswerKeeps s (execJoin x s) := by
  refine .onPath ?_
  split
  · refine .ite (.ite (.next ((KeepsLanes.refl s).tryMerge ..)) (.releasing s _ (.popGate s _ 8 fun t ht => .next ?_) 0))
      (answerKeeps_trapIssue ..)
    refine KeepsLanes.tryMerge ?_ ..
    exact (ht.count _ 0).modPath _ fun _ => rfl
  · exact answerKeeps_trapIssue ..

theorem answerKeeps_execExit (x : Ctl) : AnswerKeeps s (execExit x s) :=
  .onPath (.ite (answerKeeps_trapIssue ..)
    (.next ((KeepsLanes.refl s).split _ 0 _ (laneSet_successors s fun _ => rfl) 0)))

theorem answerKeeps_execPrism (x : Prism) : AnswerKeeps s (execPrism x s) := by
  refine .onPath (.ite (answerKeeps_trapIssue ..) (.spillGate s _ (.next (KeepsLanes.congr ?_ (State.spillAfter_teams ..))) 64 _))
  refine KeepsLanes.split ((KeepsLanes.refl s).setTeam fun hs => ?written) _ _ _ (fun hs => ?lanes) _
  case written => exact foldl_holds _ lanesOk (fun _ _ ht => lanesOk_ffOr (lanesOk_arcWrites ht ..) _ _) _ _ hs
  case lanes =>
    refine laneSet_successors s (fun l => ?_) hs
    split
    · next w hw =>
      have own := List.find?_some hw
      exact beq_iff_eq.mp own
    · rfl

end control

/-- Settles O13, instruction by instruction: a split hands on the lanes of the issuing path in their order, a merge inserts each
lane at its place, and leaving only takes lanes away; all else keeps every mask. -/
theorem masksStayLaneSets : Obligations.MasksStayLaneSets := by
  intro s t i hi ht
  suffices h : AnswerKeeps s (exec i s) from (h.of_next t ht).team
  cases i with
  | bra x => exact answerKeeps_execBra s x
  | brc x => exact answerKeeps_execBrc s x
  | brv x => exact answerKeeps_execBrv s x
  | brx x => exact answerKeeps_execBrx s x
  | call x => exact answerKeeps_execCall s x
  | ret x => exact answerKeeps_execRet s x
  | prism x => exact answerKeeps_execPrism s x
  | join x => exact answerKeeps_execJoin s x
  | joinMerge core slot tok inst => exact answerKeeps_execJoinMerge s core slot tok inst
  | exit x => exact answerKeeps_execExit s x
  | loop x => exact answerKeeps_execLoop s x
  | nop x => exact answerKeeps_execNop s x
  | ipref x => exact answerKeeps_execIpref s x
  | yield x => exact answerKeeps_execYield s x
  | _ => cases hi

end Sys2Proof.Machine
end

section
/-!
SUPPORT. Rounding a value that its format holds (03 R61, R68): a significand and an exponent, the binary logarithm of the value, and
the pattern they are packed into.
-/

namespace Sys2Proof

/-! ## A significand times a power of two -/

@[simp] theorem XR.scaled_neg (neg : Bool) (s : Nat) (q : Int) : (XR.scaled neg s q).neg = neg := by
  unfold XR.scaled; split <;> rfl

theorem XR.scaled_of_nonneg (neg : Bool) (s : Nat) {q : Int} (h : 0 ≤ q) :
    XR.scaled neg s q = ⟨neg, s * 2 ^ q.toNat, 1⟩ := if_pos h

theorem XR.scaled_of_neg (neg : Bool) (s : Nat) {q : Int} (h : q < 0) :
    XR.scaled neg s q = ⟨neg, s, 2 ^ (-q).toNat⟩ := if_neg (by omega)

theorem XR.scaled_num_eq_zero (neg : Bool) (s : Nat) (q : Int) : (XR.scaled neg s q).num = 0 ↔ s = 0 := by
  unfold XR.scaled
  split
  · simp only [Nat.mul_eq_zero, Nat.ne_of_gt (Nat.two_pow_pos _), or_false]
  · exact Iff.rfl

/-- Scaling back by the exponent leaves the significand, as a fraction. -/
theorem scale2_scaled (neg : Bool) (s : Nat) (q : Int) :
    ∃ d, 0 < d ∧ scale2 (XR.scaled neg s q).num (XR.scaled neg s q).den (-q) = (s * d, d) := by
  rcases Int.lt_trichotomy q 0 with h | rfl | h
  · exact ⟨2 ^ (-q).toNat, Nat.two_pow_pos _, by rw [XR.scaled_of_neg neg s h, scale2, if_pos (by omega)]⟩
  · exact ⟨1, Nat.one_pos, by
      simp only [XR.scaled, scale2, Int.neg_zero, Int.le_refl, if_true, Int.toNat_zero, Nat.pow_zero, Nat.mul_one]⟩
  · exact ⟨2 ^ q.toNat, Nat.two_pow_pos _, by
      rw [XR.scaled_of_nonneg neg s (Int.le_of_lt h), scale2, if_neg (by omega), Int.neg_neg, Nat.one_mul]⟩

theorem roundNat_mul_right (mode : RMode) (neg : Bool) (rnd s : Nat) {d : Nat} (h : 0 < d) :
    roundNat mode neg rnd (s * d) d = (s, false) := by
  simp only [roundNat, Nat.mul_mod_left, if_true, Nat.mul_div_cancel s h]

/-! ## The binary logarithm -/

theorem mul_two_pow_ne_zero {s : Nat} (h : s ≠ 0) (k : Nat) : s * 2 ^ k ≠ 0 :=
  Nat.mul_ne_zero h (Nat.ne_of_gt (Nat.two_pow_pos k))

theorem log2_mul_two_pow {s : Nat} (h : s ≠ 0) (k : Nat) : Nat.log2 (s * 2 ^ k) = Nat.log2 s + k := by
  have low := Nat.log2_self_le h
  have high := (Nat.log2_lt h).mp (Nat.lt_succ_self _)
  rw [Nat.log2_eq_iff (mul_two_pow_ne_zero h k), Nat.pow_add, Nat.add_right_comm, Nat.pow_add _ _ k]
  exact ⟨Nat.mul_le_mul_right _ low, Nat.mul_lt_mul_of_pos_right high (Nat.two_pow_pos k)⟩

/-- The logarithm of a number over a power of two: the number's own, less the exponent. -/
theorem flog2_two_pow {n : Nat} (h : n ≠ 0) (k : Nat) : flog2 n (2 ^ k) = Nat.log2 n - k := by
  have low := Nat.log2_self_le h
  simp only [flog2, Nat.log2_two_pow, scale2]
  rw [if_pos]
  split
  case isTrue hle =>
    calc 2 ^ k = 2 ^ Nat.log2 n * 2 ^ (-((Nat.log2 n : Int) - k)).toNat := by rw [← Nat.pow_add]; congr 1; omega
      _ ≤ n * 2 ^ (-((Nat.log2 n : Int) - k)).toNat := Nat.mul_le_mul_right _ low
  case isFalse hlt =>
    calc 2 ^ k * 2 ^ (- -((Nat.log2 n : Int) - k)).toNat = 2 ^ Nat.log2 n := by rw [← Nat.pow_add]; congr 1; omega
      _ ≤ n := low

theorem flog2_scaled (neg : Bool) {s : Nat} (h : s ≠ 0) (q : Int) :
    flog2 (XR.scaled neg s q).num (XR.scaled neg s q).den = Nat.log2 s + q := by
  rcases Int.lt_or_le q 0 with hq | hq
  · rw [XR.scaled_of_neg neg s hq, flog2_two_pow h]; omega
  · rw [XR.scaled_of_nonneg neg s hq]
    have := flog2_two_pow (n := s * 2 ^ q.toNat) (mul_two_pow_ne_zero h _) 0
    rw [Nat.pow_zero, log2_mul_two_pow h] at this
    simp only [this]; omega

/-! ## Values of a format -/

/-- The lowest exponent of a format's significands. -/
def Fmt.qmin (f : Fmt) : Int := 1 - (f.bias : Int) - f.m

/-- A significand and an exponent as a format holds them (03 R61): normal, or at the lowest exponent. -/
structure Fmt.Holds (f : Fmt) (s : Nat) (q : Int) : Prop where
  low : f.qmin ≤ q
  high : s < 2 ^ (f.m + 1)
  normal : 2 ^ f.m ≤ s ∨ q = f.qmin

/-- The exponent that rounding chooses for a value that the format holds is the value's own. -/
theorem Fmt.Holds.exponent {f : Fmt} {s : Nat} {q : Int} (h : f.Holds s q) (hs : s ≠ 0) :
    (if (Nat.log2 s : Int) + q - f.m < f.qmin then f.qmin else (Nat.log2 s : Int) + q - f.m) = q := by
  have high : Nat.log2 s < f.m + 1 := (Nat.log2_lt hs).mpr h.high
  rcases h.normal with hn | rfl
  · have low : f.m ≤ Nat.log2 s := (Nat.le_log2 hs).mpr hn
    have := h.low
    split <;> omega
  · split <;> omega

/-- A value that the format holds, and whose magnitude is no overflow, rounds to the pattern of its magnitude. -/
theorem fround_scaled (t : Ty) (mode : RMode) (rnd : Nat) (sat neg : Bool) {s : Nat} {q : Int} (h : t.fmt.Holds s q)
    (hmax : packMag t.fmt t.fmt.qmin s q ≤ t.fmt.maxFin) (hs : s ≠ 0) :
    fround t mode rnd sat (.num (.scaled neg s q)) =
      ((if neg then t.fmt.signBit else 0) + packMag t.fmt t.fmt.qmin s q, 0) := by
  obtain ⟨d, hd, hback⟩ := scale2_scaled neg s q
  have hexp := h.exponent hs
  have hpack := Nat.not_lt.mpr hmax
  unfold Fmt.qmin at hexp hpack ⊢
  simp only [fround, XR.scaled_neg, XR.scaled_num_eq_zero, if_neg hs, flog2_scaled neg hs, hexp, hback,
    roundNat_mul_right mode neg rnd s hd, if_neg hpack]
  rfl

/-! ## Patterns of a format -/

theorem Fmt.holds_subnormal (f : Fmt) {fr : Nat} (h : fr < 2 ^ f.m) : f.Holds fr f.qmin :=
  ⟨Int.le_refl _, by rw [Nat.pow_succ]; omega, .inr rfl⟩

theorem Fmt.holds_normal (f : Fmt) {e fr : Nat} (he : e ≠ 0) (h : fr < 2 ^ f.m) : f.Holds (2 ^ f.m + fr) (e - f.bias - f.m) :=
  ⟨by unfold Fmt.qmin; omega, by rw [Nat.pow_succ]; omega, .inl (by omega)⟩

theorem packMag_subnormal (f : Fmt) {fr : Nat} (h : fr < 2 ^ f.m) : packMag f f.qmin fr f.qmin = fr := by
  have : fr ≠ 2 ^ (f.m + 1) := by rw [Nat.pow_succ]; omega
  rw [packMag, if_neg this]
  exact if_pos h

theorem packMag_normal (f : Fmt) {e fr : Nat} (he : e ≠ 0) (h : fr < 2 ^ f.m) :
    packMag f f.qmin (2 ^ f.m + fr) (e - f.bias - f.m) = e * 2 ^ f.m + fr := by
  obtain ⟨e, rfl⟩ := Nat.exists_eq_succ_of_ne_zero he
  have apart : 2 ^ f.m + fr ≠ 2 ^ (f.m + 1) := by rw [Nat.pow_succ]; omega
  have steps : (((e.succ : Nat) : Int) - f.bias - f.m - f.qmin).toNat = e := by unfold Fmt.qmin; omega
  rw [packMag, if_neg apart]
  dsimp only
  rw [if_neg (by omega), steps, Nat.succ_mul, Nat.add_assoc]

/-- What a pattern stands for, by its sign, exponent and fraction (03 R61). -/
theorem fdecode_cases (t : Ty) (p : Nat) :
    let f := t.fmt
    let neg := p / f.signBit % 2 == 1
    let mag := p % f.signBit
    (fdecode t p).isNan = true ∨
    (f.hasInf = true ∧ mag = f.maxFin + 1 ∧ fdecode t p = .inf neg) ∨
    (mag ≤ f.maxFin ∧ mag < 2 ^ f.m ∧ fdecode t p = .num (.scaled neg mag f.qmin)) ∨
    (mag ≤ f.maxFin ∧ ∃ e fr, e ≠ 0 ∧ fr < 2 ^ f.m ∧ mag = e * 2 ^ f.m + fr ∧
      fdecode t p = .num (.scaled neg (2 ^ f.m + fr) (e - f.bias - f.m))) := by
  intro f neg mag
  have split_mag : mag = mag / 2 ^ f.m * 2 ^ f.m + mag % 2 ^ f.m := (Nat.div_add_mod' ..).symm
  have fraction : mag % 2 ^ f.m < 2 ^ f.m := Nat.mod_lt _ (Nat.two_pow_pos _)
  unfold fdecode
  dsimp only
  split
  case isTrue =>
    split
    case isTrue h =>
      obtain ⟨hi, hm⟩ := Bool.and_eq_true_iff.mp h
      exact .inr (.inl ⟨hi, beq_iff_eq.mp hm, rfl⟩)
    case isFalse => exact .inl rfl
  case isFalse hmax =>
    have hmax := Nat.not_lt.mp hmax
    refine .inr (.inr ?_)
    split
    case isTrue he =>
      have small : mag < 2 ^ f.m := Nat.lt_of_div_eq_zero (Nat.two_pow_pos _) he
      rw [Nat.mod_eq_of_lt small]
      exact .inl ⟨hmax, small, rfl⟩
    case isFalse he => exact .inr ⟨hmax, _, _, he, fraction, split_mag, rfl⟩

/-- A pattern is its sign bit and its magnitude. -/
theorem sign_add_magnitude (f : Fmt) {p : Nat} (h : p < 2 * f.signBit) :
    (if p / f.signBit % 2 == 1 then f.signBit else 0) + p % f.signBit = p := by
  have sign : p / f.signBit < 2 := Nat.div_lt_of_lt_mul (by rwa [Nat.mul_comm] at h)
  have parts := Nat.div_add_mod p f.signBit
  rcases Nat.lt_succ_iff_lt_or_eq.mp sign with h0 | h1
  · rw [Nat.lt_one_iff.mp h0, Nat.mul_zero] at parts
    rw [Nat.lt_one_iff.mp h0]
    exact parts
  · rw [h1, Nat.mul_one] at parts
    rw [h1]
    exact parts

/-- A value rounds to the pattern that it was read from, without a flag, in every direction (03 R68). -/
theorem fround_fdecode (t : Ty) (mode : RMode) (rnd : Nat) (sat : Bool) {p : Nat} (hp : p < 2 * t.fmt.signBit)
    (hn : (fdecode t p).isNan = false) : fround t mode rnd sat (fdecode t p) = (p, 0) := by
  have whole := sign_add_magnitude t.fmt hp
  rcases fdecode_cases t p with h | ⟨hi, hm, h⟩ | ⟨hmax, hsub, h⟩ | ⟨hmax, e, fr, he, hfr, hm, h⟩
  · cases hn.symm.trans h
  · rw [h]
    simp only [fround]
    rw [if_pos hi, Nat.add_assoc, ← hm, whole]
  · rw [h]
    by_cases hz : p % t.fmt.signBit = 0
    · rw [hz, Nat.add_zero] at whole
      simp only [fround, XR.scaled_neg, XR.scaled_num_eq_zero, hz, if_true, whole]
    · have pack := packMag_subnormal t.fmt hsub
      rw [fround_scaled t mode rnd sat _ (t.fmt.holds_subnormal hsub) (Nat.le_trans (Nat.le_of_eq pack) hmax) hz, pack, whole]
  · have pack := packMag_normal t.fmt he hfr
    rw [← hm] at pack
    rw [h, fround_scaled t mode rnd sat _ (t.fmt.holds_normal he hfr) (Nat.le_trans (Nat.le_of_eq pack) hmax)
      (Nat.ne_of_gt (Nat.add_pos_left (Nat.two_pow_pos _) _)), pack, whole]

/-- Settles O20: a pattern is a significand and an exponent that its format holds, so that rounding finds nothing left over. -/
theorem roundingIsExactOnFormat : Obligations.RoundingIsExactOnFormat :=
  fun t mode rnd _ sat _ hp hn _ => fround_fdecode t mode rnd sat hp hn

end Sys2Proof
end

section
/-!
SUPPORT. What an instruction that writes registers of its team and completes leaves (04 R84, 07 R145): the writes of lanes read back,
and the state in which the written team has completed.
-/

namespace Sys2Proof.Machine

open Sys2Proof

/-! ## Lanes written -/

/-- What one lane reads after writes to a list of lanes, where a second write of a lane changes nothing. -/
theorem foldl_lanes {α β : Type} {w : α → Nat → α} {g : α → β} {upd : β → β} {l : Nat}
    (write : ∀ a m, g (w a m) = if m = l then upd (g a) else g a) (twice : ∀ b, upd (upd b) = upd b) (e : List Nat) (a : α) :
    g (e.foldl w a) = if l ∈ e then upd (g a) else g a := by
  induction e generalizing a with
  | nil => rfl
  | cons m e ih =>
    rw [List.foldl_cons, ih, write]
    by_cases he : l ∈ e
    · by_cases hm : m = l <;> simp [he, hm, twice]
    · simp [he, eq_comm]

section team
variable (t : Team)

/-- Lanes written change the vector registers and their poison only. -/
theorem Team.vputs_eq (r : Nat) (q : List (Nat × Word)) :
    t.vputs r q = { t with vregs := (t.vputs r q).vregs, vpoison := (t.vputs r q).vpoison } := by
  unfold Team.vputs
  induction q generalizing t with
  | nil => rfl
  | cons a q ih => exact ih (t.vput r a.1 a.2)

@[simp] theorem Team.vputs_preds (r : Nat) (q : List (Nat × Word)) : (t.vputs r q).preds = t.preds := by rw [Team.vputs_eq]
@[simp] theorem Team.vputs_ff (r : Nat) (q : List (Nat × Word)) : (t.vputs r q).ff = t.ff := by rw [Team.vputs_eq]

/-- A predicate written changes the predicates only. -/
theorem Team.setPred_eq (n l : Nat) (b : Bool) : t.setPred n l b = { t with preds := (t.setPred n l b).preds } := by
  unfold Team.setPred; split <;> rfl

theorem Team.setPreds_eq (n : Nat) (q : List (Nat × Bool)) :
    t.setPreds n q = { t with preds := (t.setPreds n q).preds } :=
  foldl_holds (fun (t : Team) (q : Nat × Bool) => t.setPred n q.1 q.2) (fun u => u = { t with preds := u.preds })
    (fun u q hu => (u.setPred_eq ..).trans (congrArg (fun v : Team => { v with preds := (u.setPred n q.1 q.2).preds }) hu)) q t rfl

/-- Flags that are set change the sticky flags only. -/
theorem Team.ffOr_eq (l : Nat) (f : Flags) : t.ffOr l f = { t with ff := (t.ffOr l f).ff } := by
  unfold Team.ffOr; split <;> rfl

theorem Team.ffOrs_eq (q : List (Nat × Flags)) : t.ffOrs q = { t with ff := (t.ffOrs q).ff } :=
  foldl_holds (fun (t : Team) (q : Nat × Flags) => t.ffOr q.1 q.2) (fun u => u = { t with ff := u.ff })
    (fun u q hu => (u.ffOr_eq ..).trans (congrArg (fun v : Team => { v with ff := (u.ffOr q.1 q.2).ff }) hu)) q t rfl

/-- A lane that a list writes with one value only holds that value. -/
theorem Team.vget_vputs_of_mem (r : Nat) {l : Nat} {v : Word} {q : List (Nat × Word)} (h : (l, v) ∈ q)
    (same : ∀ w, (l, w) ∈ q → w = v) : (t.vputs r q).vget r l = v := by
  unfold Team.vputs
  induction q generalizing t with
  | nil => cases h
  | cons a q ih =>
    rw [List.foldl_cons]
    by_cases hq : ∃ w, (l, w) ∈ q
    · obtain ⟨w, hw⟩ := hq
      have hv := same w (List.mem_cons_of_mem _ hw) ▸ hw
      exact ih _ hv fun w hw => same w (List.mem_cons_of_mem _ hw)
    · have ha : (l, v) = a := (List.mem_cons.mp h).resolve_right fun hv => hq ⟨v, hv⟩
      have rest := Team.vregs_vputs r (r * 1024 + l) q (t.vput r a.1 a.2) fun p hp heq =>
        hq ⟨p.2, by rwa [show l = p.1 by omega]⟩
      subst ha
      exact rest.trans (Team.vget_vput ..)

/-- A lane that a list does not write keeps its value. -/
theorem Team.vget_vputs_of_not_mem (r : Nat) {l : Nat} {q : List (Nat × Word)} (h : ∀ p ∈ q, p.1 ≠ l) :
    (t.vputs r q).vget r l = t.vget r l :=
  Team.vregs_vputs r _ q t fun p hp heq => h p hp (by omega)

/-- Every lane written is whole: none is poisoned (19 R337). -/
theorem Team.vpoison_vputs (f : Nat → Word) (r l : Nat) (e : List Nat) :
    sget false (t.vputs r (e.map fun l => (l, f l))).vpoison (r * 1024 + l) =
      if l ∈ e then false else sget false t.vpoison (r * 1024 + l) := by
  rw [Team.vputs, List.foldl_map]
  refine foldl_lanes (g := fun t : Team => sget false t.vpoison (r * 1024 + l)) (upd := fun _ => false) (fun t m => ?_)
    (fun _ => rfl) e t
  simp [Team.vput, sget_sput]

theorem Team.ffGet_ffOrs (f : Nat → Flags) (l : Nat) (e : List Nat) :
    (t.ffOrs (e.map fun l => (l, f l))).ffGet l = if l ∈ e then t.ffGet l ||| f l else t.ffGet l := by
  rw [Team.ffOrs, List.foldl_map]
  refine foldl_lanes (g := fun t : Team => t.ffGet l) (upd := (· ||| f l)) (fun t m => ?_)
    (fun b => by rw [BitVec.or_assoc, BitVec.or_self]) e t
  by_cases hm : m = l <;> simp [Team.ffGet_ffOr, hm]

/-- No flag is set by lanes that report none. -/
theorem Team.ffOrs_zero (e : List Nat) : t.ffOrs (e.map fun l => (l, 0)) = t := by
  unfold Team.ffOrs
  induction e with
  | nil => rfl
  | cons a e ih => exact ih

theorem Team.pred_setPred {n : Nat} (hn : n ≠ 7) (l m : Nat) (b : Bool) :
    (t.setPred n l b).pred n m = if l = m then b else t.pred n m := by
  have h7 : (n == 7) = false := beq_false_of_ne hn
  simp [Team.setPred, Team.pred, hn, h7, sget_sput]

theorem Team.pred_setPreds (f : Nat → Bool) {n : Nat} (hn : n ≠ 7) (l : Nat) (e : List Nat) :
    (t.setPreds n (e.map fun l => (l, f l))).pred n l = if l ∈ e then f l else t.pred n l := by
  rw [Team.setPreds, List.foldl_map]
  refine foldl_lanes (g := fun t : Team => t.pred n l) (upd := fun _ => f l) (fun t m => ?_) (fun _ => rfl) e t
  by_cases hm : m = l <;> simp [Team.pred_setPred t hn, hm]

/-- Writes to p7 have no effect (04 R87). -/
theorem Team.setPreds_seven (q : List (Nat × Bool)) : t.setPreds 7 q = t := by
  unfold Team.setPreds
  induction q with
  | nil => rfl
  | cons a q ih => exact ih

theorem Team.vget_vresults (d : Nat) (f : Nat → Nat × Flags) (l : Nat) (e : List Nat) :
    (t.vresults d (e.map fun l => (l, f l))).vget d l = if l ∈ e then BitVec.ofNat 32 (f l).1 else t.vget d l := by
  rw [Team.vresults, Team.ffOrs_eq, List.map_map]
  exact Team.vget_vputs (fun l => BitVec.ofNat 32 (f l).1) d l e t

theorem Team.ffGet_vresults (d : Nat) (f : Nat → Nat × Flags) (l : Nat) (e : List Nat) :
    (t.vresults d (e.map fun l => (l, f l))).ffGet l = if l ∈ e then t.ffGet l ||| (f l).2 else t.ffGet l := by
  rw [Team.vresults, Team.vputs_eq, List.map_map (g := fun q : Nat × Nat × Flags => (q.1, q.2.2))]
  exact Team.ffGet_ffOrs _ (fun l => (f l).2) l e

theorem Team.vpoison_vresults (d : Nat) (f : Nat → Nat × Flags) (l : Nat) (e : List Nat) :
    sget false (t.vresults d (e.map fun l => (l, f l))).vpoison (d * 1024 + l) =
      if l ∈ e then false else sget false t.vpoison (d * 1024 + l) := by
  rw [Team.vresults, Team.ffOrs_eq, List.map_map]
  exact Team.vpoison_vputs t (fun l => BitVec.ofNat 32 (f l).1) d l e

/-- Results without flags are values only. -/
theorem Team.vresults_zero (d : Nat) (f : Nat → Nat) (e : List Nat) :
    t.vresults d (e.map fun l => (l, f l, 0)) = t.vputs d (e.map fun l => (l, BitVec.ofNat 32 (f l))) := by
  rw [Team.vresults, List.map_map, List.map_map]
  exact Team.ffOrs_zero _ e

end team

/-! ## Completing with a written team -/

@[simp] theorem State.team_putTeam (s : State) (r : PathRef) (u : Team) :
    (s.putTeam (s.hereAt r) u).team r.core r.slot = u := by
  simp [State.putTeam]

/-- Completing changes the path of a team and its counters only. -/
theorem State.team_finish (s : State) (r : PathRef) (len n : Nat) : (s.finish r len n).team r.core r.slot =
    { (s.team r.core r.slot).setPath r.path ((s.finish r len n).path r) with
      issued := (s.team r.core r.slot).issued + 1, passes := (s.team r.core r.slot).passes + n } := by
  simp [State.finish, State.goto, Team.modPath, Team.setPath, Team.path, State.path]

/-- Two teams agree on their paths and on what they have counted. -/
structure Team.SameRun (t u : Team) : Prop where
  paths : u.paths = t.paths
  issued : u.issued = t.issued
  passes : u.passes = t.passes

theorem Team.SameRun.vputs (t : Team) (r : Nat) (q : List (Nat × Word)) : t.SameRun (t.vputs r q) := by
  rw [Team.vputs_eq]; exact ⟨rfl, rfl, rfl⟩

theorem Team.SameRun.sputr (t : Team) (r : Nat) (v : Word) : t.SameRun (t.sputr r v) := ⟨rfl, rfl, rfl⟩

theorem Team.SameRun.setPreds {t u : Team} (h : t.SameRun u) (n : Nat) (q : List (Nat × Bool)) : t.SameRun (u.setPreds n q) := by
  rw [Team.setPreds_eq]; exact ⟨h.paths, h.issued, h.passes⟩

theorem Team.SameRun.vresults (t : Team) (d : Nat) (q : List (Nat × Nat × Flags)) : t.SameRun (t.vresults d q) := by
  have h := Team.SameRun.vputs t d (q.map fun q => (q.1, BitVec.ofNat 32 q.2.1))
  rw [Team.vresults, Team.ffOrs_eq]; exact ⟨h.paths, h.issued, h.passes⟩

/-- In `t` the issuing path of `s` has completed an instruction that made its team `u`: the registers are those of `u`. -/
structure Landed (s t : State) (u : Team) (len n : Nat) : Prop where
  completed : Completed s t len n
  vregs : t.here.t.vregs = u.vregs
  vpoison : t.here.t.vpoison = u.vpoison
  preds : t.here.t.preds = u.preds
  sregs : t.here.t.sregs = u.sregs
  ff : t.here.t.ff = u.ff

section landed
variable {s t : State} {u : Team} {len n : Nat} (h : Landed s t u len n)
include h

theorem Landed.vget (r l : Nat) : t.here.t.vget r l = u.vget r l := by rw [Team.vget, h.vregs]; rfl
theorem Landed.pred (r l : Nat) : t.here.t.pred r l = u.pred r l := by rw [Team.pred, h.preds]; rfl
theorem Landed.sgetr (r : Nat) : t.here.t.sgetr r = u.sgetr r := by rw [Team.sgetr, h.sregs]; rfl
theorem Landed.ffGet (l : Nat) : t.here.t.ffGet l = u.ffGet l := by rw [Team.ffGet, h.ff]; rfl

end landed

/-- Completing with a written team lands there. -/
theorem landed_finish (s : State) {u : Team} (h : s.here.t.SameRun u) (len n : Nat) :
    Landed s ((s.putTeam s.here u).finish s.cur len n) u len n := by
  have team := s.team_putTeam s.cur u
  have start : (s.putTeam s.here u).path s.cur = s.here.p := by
    rw [State.path, team, Team.path, h.paths]; rfl
  have cur : ((s.putTeam s.here u).finish s.cur len n).cur = s.cur := by rw [State.finish_eq]; rfl
  have path := State.path_finish (s.putTeam s.here u) s.cur len n
  have written := State.team_finish (s.putTeam s.here u) s.cur len n
  rw [start] at path
  rw [team] at written
  generalize (s.putTeam s.here u).finish s.cur len n = t at cur path written ⊢
  rw [← cur] at path written
  rw [← hereAt_p] at path
  rw [← hereAt_t] at written
  constructor
  case completed =>
    constructor
    case cur => exact cur
    case issued => rw [written, ← h.issued]
    case passes => rw [written, ← h.passes]
    all_goals rw [path]
  all_goals rw [written]; rfl

/-! ## Instructions that write their team and complete -/

/-- With no poisoned source an instruction goes on (07 R145). -/
theorem needClean_of_clean (s : State) {h : Here} {e : Mask} {vs ss : List Nat} (hc : h.clean e vs ss) (len : Nat) (k : Res) :
    needClean s h len e vs ss k = k := by
  obtain ⟨hv, hs⟩ := hc
  simp [needClean, hv, hs]

theorem Here.clean_nil (h : Here) (e : Mask) : h.clean e [] [] := by simp [Here.clean, Team.poisonLanes, Team.spoisoned]

theorem Runs.mono {i : Instr} {s : State} {P Q : State → Prop} (h : Runs i s P) (hpq : ∀ t, P t → Q t) : Runs i s Q := by
  obtain ⟨t, ht, hp⟩ := h
  exact ⟨t, ht, hpq t hp⟩

section runs
variable {s : State} {i : Instr} {len : Nat} {n : Here → Nat} (hl : s.live)
include hl

/-- A meaning that writes its team on a live path and completes lands with the team that it has written. -/
theorem Runs.of_team {u : Here → Team} (hi : exec i s = onPath s fun h => .next ((s.putTeam h (u h)).finish h.r len (n h)))
    (hu : s.here.t.SameRun (u s.here)) : Runs i s fun t => Landed s t (u s.here) len (n s.here) :=
  ⟨_, hi.trans (onPath_live s _ hl), landed_finish s hu len _⟩

/-- So does one that first looks for poison among its sources and finds none. -/
theorem Runs.of_clean {u : Here → Team} {e : Here → Mask} {vs ss : List Nat}
    (hi : exec i s = onPath s fun h => needClean s h len (e h) vs ss (.next ((s.putTeam h (u h)).finish h.r len (n h))))
    (hc : s.here.clean (e s.here) vs ss) (hu : s.here.t.SameRun (u s.here)) :
    Runs i s fun t => Landed s t (u s.here) len (n s.here) :=
  ⟨_, hi.trans ((onPath_live s _ hl).trans (needClean_of_clean s hc _ _)), landed_finish s hu len _⟩

end runs

section results
variable {s : State} {x : Args}

/-- A meaning that gives every executing lane a result, from sources that no poison reaches, lands with those results. -/
theorem Runs.of_results {i : Instr} {len : Nat} {vs ss : List Nat} {f : Here → Nat → Nat × Flags} (hl : s.live)
    (hi : exec i s = onPath s fun h => needClean s h len (h.execLanes x.guard) vs ss
      (.next ((s.putTeam h (h.t.vresults x.d ((h.execLanes x.guard).map fun l => (l, f h l)))).finish h.r len (passesOf h.p.mask))))
    (hc : s.here.clean (s.here.execLanes x.guard) vs ss) :
    Runs i s fun t => Landed s t (s.here.t.vresults x.d ((s.here.execLanes x.guard).map fun l => (l, f s.here l))) len
      (passesOf s.here.p.mask) :=
  Runs.of_clean hl hi hc (Team.SameRun.vresults ..)

/-- A vector instruction is such a meaning (07 R142 to R145). -/
theorem Runs.of_vectorOp {i : Instr} {srcs : List (LSel × Nat)} {f : Here → Nat → Nat × Flags} (hl : s.live)
    (hi : exec i s = vectorOp x s srcs f) (hc : s.here.clean (s.here.execLanes x.guard) (readRegs x srcs) []) :
    Runs i s fun t => Landed s t (s.here.t.vresults x.d ((s.here.execLanes x.guard).map fun l => (l, f s.here l))) (argsLen x)
      (passesOf s.here.p.mask) :=
  Runs.of_results hl hi hc

/-- The results of the executing lanes are written, and their flags set. -/
theorem Landed.wrote {t : State} {f : Nat → Nat × Flags} {len : Nat}
    (h : Landed s t (s.here.t.vresults x.d ((s.here.execLanes x.guard).map fun l => (l, f l))) len (passesOf s.here.p.mask)) :
    Spec.Wrote s t x len fun l => (BitVec.ofNat 32 (f l).1, (f l).2) := by
  refine ⟨fun l hl => ⟨?value, ?flags, ?whole⟩, h.completed⟩
  case value => rw [h.vget, Team.vget_vresults, if_pos hl]
  case flags => rw [h.ffGet, Team.ffGet_vresults, if_pos hl]
  case whole => rw [h.vpoison, Team.vpoison_vresults, if_pos hl]

/-- Values are written, and no flag is set. -/
theorem Landed.wrote_values {t : State} {f : Nat → Word} {len : Nat}
    (h : Landed s t (s.here.t.vputs x.d ((s.here.execLanes x.guard).map fun l => (l, f l))) len (passesOf s.here.p.mask)) :
    Spec.Wrote s t x len fun l => (f l, 0) := by
  refine ⟨fun l hl => ⟨?value, ?flags, ?whole⟩, h.completed⟩
  case value => rw [h.vget, Team.vget_vputs, if_pos hl]
  case flags => exact (h.ffGet l).trans ((congrArg (sget 0 · l) (Team.vputs_ff ..)).trans BitVec.or_zero.symm)
  case whole => rw [h.vpoison, Team.vpoison_vputs, if_pos hl]

/-- What is written depends on the executing lanes only. -/
theorem wrote_congr {t : State} {len : Nat} {f g : Nat → Word × Flags} (hfg : ∀ l ∈ s.here.execLanes x.guard, f l = g l)
    (h : Spec.Wrote s t x len f) : Spec.Wrote s t x len g :=
  ⟨fun l hl => hfg l hl ▸ h.1 l hl, h.2⟩

end results

end Sys2Proof.Machine
end

section
/-!
SUPPORT. Facts about words, minima and maxima, and the tree of 03 R82 that the cross-lane instructions need: a ballot's bits, bytes put
together, a chosen operand, and that combining level by level is combining half by half.
-/

namespace Sys2Proof

/-! ## Bits and bytes -/

/-- Adding a power of two whose bit is clear sets that bit and leaves the others. -/
theorem testBit_add_two_pow {n x : Nat} (h : n.testBit x = false) (j : Nat) :
    (n + 2 ^ x).testBit j = (n.testBit j || decide (x = j)) := by
  have disjoint : BitVec.ofNat (j + 1) n &&& BitVec.ofNat (j + 1) (2 ^ x) = 0#(j + 1) := by
    refine BitVec.eq_of_getLsbD_eq fun i hi => ?_
    simp only [BitVec.getLsbD_and, BitVec.getLsbD_ofNat, Nat.testBit_two_pow, Nat.zero_testBit, hi, decide_true, Bool.true_and]
    by_cases hx : x = i
    · rw [← hx, h, Bool.false_and]
    · rw [decide_eq_false hx, Bool.and_false]
  have sum : BitVec.ofNat (j + 1) (n + 2 ^ x) = BitVec.ofNat (j + 1) n ||| BitVec.ofNat (j + 1) (2 ^ x) := by
    rw [BitVec.ofNat_add, BitVec.add_eq_or_of_and_eq_zero _ _ disjoint]
  have bit := congrArg (·.getLsbD j) sum
  simpa only [BitVec.getLsbD_or, BitVec.getLsbD_ofNat, Nat.lt_succ_self, decide_true, Bool.true_and, Nat.testBit_two_pow] using bit

/-- The bits of a sum of distinct powers of two. -/
theorem testBit_foldl_two_pow {l : List Nat} (hl : l.Nodup) {n : Nat} (hn : ∀ k ∈ l, n.testBit k = false) (j : Nat) :
    (l.foldl (fun n k => n + 2 ^ k) n).testBit j = (n.testBit j || decide (j ∈ l)) := by
  induction l generalizing n with
  | nil => simp only [List.foldl_nil, List.not_mem_nil, decide_false, Bool.or_false]
  | cons k l ih =>
    obtain ⟨hk, hl⟩ := List.nodup_cons.mp hl
    have set := testBit_add_two_pow (hn k List.mem_cons_self)
    rw [List.foldl_cons, ih hl fun m hm => ?rest, set, Bool.or_assoc]
    case rest =>
      rw [set, hn m (List.mem_cons_of_mem k hm), Bool.false_or]
      exact decide_eq_false fun h => hk (h ▸ hm)
    rw [← Bool.decide_or]
    exact congrArg (n.testBit j || ·) (decide_eq_decide.mpr (by rw [List.mem_cons, eq_comm]))

/-- Bit j of word i of a set of lanes is lane 32 i + j (01 R10). -/
theorem testBit_maskWord {m : Mask} (hm : m.Nodup) (i : Nat) {j : Nat} (hj : j < 32) :
    (maskWord m i).testBit j = decide (i * 32 + j ∈ m) := by
  have distinct : ((m.filter fun x => x / 32 == i).map (· % 32)).Nodup := by
    refine List.pairwise_map.mpr (List.pairwise_filter.mpr (List.Pairwise.imp (fun {a b} hne ha hb heq => hne ?_) hm))
    have ha := beq_iff_eq.mp ha
    have hb := beq_iff_eq.mp hb
    omega
  have sum : maskWord m i = ((m.filter fun x => x / 32 == i).map (· % 32)).foldl (fun n k => n + 2 ^ k) 0 := by
    rw [maskWord, List.foldl_map]
  rw [sum, testBit_foldl_two_pow distinct fun k _ => Nat.zero_testBit k, Nat.zero_testBit, Bool.false_or, decide_eq_decide]
  simp only [List.mem_map, List.mem_filter, beq_iff_eq]
  constructor
  · rintro ⟨a, ⟨ha, hai⟩, haj⟩
    rwa [show i * 32 + j = a by omega]
  · exact fun h => ⟨_, ⟨h, by omega⟩, by omega⟩

/-- A number put together from bytes, the lowest first. -/
def byteSum (b : Nat → Nat) (k : Nat) : Nat := (List.range k).foldl (fun n j => n + b j * 2 ^ (8 * j)) 0

section byteSum
variable {b : Nat → Nat} (hb : ∀ j, b j < 256)

theorem byteSum_succ (b : Nat → Nat) (k : Nat) : byteSum b (k + 1) = byteSum b k + b k * 2 ^ (8 * k) := by
  simp [byteSum, List.range_succ]

include hb

theorem byteSum_lt (k : Nat) : byteSum b k < 2 ^ (8 * k) := by
  induction k with
  | zero => exact Nat.one_pos
  | succ k ih =>
    have top := Nat.mul_le_mul_right (2 ^ (8 * k)) (Nat.succ_le_of_lt (hb k))
    rw [byteSum_succ, two_pow_byte_succ]
    rw [Nat.succ_mul] at top
    omega

/-- The bytes read back one by one. -/
theorem byteSum_div_mod {j k : Nat} (hj : j < k) : byteSum b k / 2 ^ (8 * j) % 256 = b j := by
  induction k with
  | zero => cases hj
  | succ k ih =>
    rw [byteSum_succ]
    rcases Nat.lt_succ_iff_lt_or_eq.mp hj with hjk | rfl
    · have above : 2 ^ (8 * k) = 2 ^ (8 * (k - (j + 1))) * 256 * 2 ^ (8 * j) := by
        rw [Nat.mul_assoc, ← two_pow_byte_succ, ← Nat.pow_add]; congr 1; omega
      rw [above, ← Nat.mul_assoc, ← Nat.mul_assoc, Nat.add_mul_div_right _ _ (Nat.two_pow_pos _), Nat.add_mul_mod_self_right, ih hjk]
    · rw [Nat.add_mul_div_right _ _ (Nat.two_pow_pos _), Nat.div_eq_of_lt (byteSum_lt hb j), Nat.zero_add, Nat.mod_eq_of_lt (hb j)]

theorem extractLsb'_byteSum {j : Nat} (hj : j < 4) :
    (BitVec.ofNat 32 (byteSum b 4)).extractLsb' (8 * j) 8 = BitVec.ofNat 8 (b j) := by
  apply BitVec.eq_of_toNat_eq
  rw [BitVec.extractLsb'_toNat, BitVec.toNat_ofNat, Nat.mod_eq_of_lt (byteSum_lt hb 4), Nat.shiftRight_eq_div_pow,
    byteSum_div_mod hb hj, BitVec.toNat_ofNat, Nat.mod_eq_of_lt (hb j)]

end byteSum

end Sys2Proof

namespace Sys2Proof.Machine

open Sys2Proof

/-- A byte of a word as a number is its eight bits. -/
theorem ofNat_wordByte (w : Word) (k : Nat) : BitVec.ofNat 8 (wordByte w k) = w.extractLsb' (8 * k) 8 := by
  apply BitVec.eq_of_toNat_eq
  simp [wordByte, fld, BitVec.extractLsb'_toNat, Nat.shiftRight_eq_div_pow]

theorem wordByte_lt (w : Word) (k : Nat) : wordByte w k < 256 := Nat.mod_lt _ (by decide)

/-! ## The tree of 03 R82 -/

section tree
variable (fm : Word) (op : RedOp) (t : Ty)

theorem redLevel_append (k : Nat) {a : List Node} (ha : a.length = 2 * k) (b : List Node) :
    redLevel fm op t (a ++ b) = redLevel fm op t a ++ redLevel fm op t b := by
  induction k generalizing a with
  | zero => rw [List.eq_nil_of_length_eq_zero ha]; rfl
  | succ k ih =>
    match a, ha with
    | x :: y :: a, ha => simp [redLevel, ih (a := a) (by simpa [Nat.mul_add] using ha)]

theorem length_redLevel (k : Nat) {a : List Node} (ha : a.length = 2 * k) : (redLevel fm op t a).length = k := by
  induction k generalizing a with
  | zero => rw [List.eq_nil_of_length_eq_zero ha]; rfl
  | succ k ih =>
    match a, ha with
    | x :: y :: a, ha => simp [redLevel, ih (a := a) (by simpa [Nat.mul_add] using ha)]

/-- The root over two halves combines the roots of the halves: level by level is half by half. -/
theorem redRoot_append (n : Nat) {a b : List Node} (ha : a.length = 2 ^ n) (hb : b.length = 2 ^ n) :
    redRoot fm op t (n + 1) (a ++ b) = redNode fm op t (redRoot fm op t n a) (redRoot fm op t n b) := by
  induction n generalizing a b with
  | zero =>
    match a, b, ha, hb with
    | [x], [y], _, _ => rfl
  | succ n ih =>
    have ha' : a.length = 2 * 2 ^ n := by rw [ha, Nat.pow_succ, Nat.mul_comm]
    have hb' : b.length = 2 * 2 ^ n := by rw [hb, Nat.pow_succ, Nat.mul_comm]
    rw [redRoot, redLevel_append fm op t _ ha', ih (length_redLevel fm op t _ ha') (length_redLevel fm op t _ hb')]
    rfl

end tree

/-! ## Minima and maxima (07 R146, R147) -/

theorem intOf_i32 (A : Word) : intOf .i32 A.toNat = A.toInt := by
  rw [intOf_signed rfl (by decide)]
  exact congrArg BitVec.toInt (BitVec.ofNat_toNat 32 A |>.trans (BitVec.setWidth_eq A))

theorem intOf_n32 (A : Word) : intOf .n32 A.toNat = A.toNat := intOf_unsigned rfl A.isLt

/-- Where equal keys are equal words, a choice on a tie does not matter. -/
theorem choose_le_eq_choose_lt {k : Word → Int} (hk : Function.Injective k) (mx : Bool) (A B : Word) :
    (if (if mx then k A ≤ k B else k B ≤ k A) then B.toNat else A.toNat) =
      (if (if mx then k A < k B else k B < k A) then B else A).toNat := by
  by_cases hne : A = B
  · subst hne
    simp only [ite_self]
  · have apart : k A ≠ k B := fun h => hne (hk h)
    have strict : (k A ≤ k B ↔ k A < k B) ∧ (k B ≤ k A ↔ k B < k A) := by omega
    simp only [strict.1, strict.2, apply_ite BitVec.toNat]

theorem aluMinMax_i32 (fm : Word) (mx : Bool) (A B : Word) :
    aluMinMax fm mx .i32 A.toNat B.toNat = ((if (if mx then A.slt B else B.slt A) then B else A).toNat, 0) := by
  have h := choose_le_eq_choose_lt (k := BitVec.toInt) (fun _ _ => BitVec.eq_of_toInt_eq) mx A B
  simp only [aluMinMax, Ty.isInt, if_true, intOf_i32, h, BitVec.slt]
  cases mx <;> simp

theorem aluMinMax_n32 (fm : Word) (mx : Bool) (A B : Word) :
    aluMinMax fm mx .n32 A.toNat B.toNat = ((if (if mx then A.ult B else B.ult A) then B else A).toNat, 0) := by
  have h := choose_le_eq_choose_lt (k := fun A => (A.toNat : Int)) (fun _ _ h => BitVec.eq_of_toNat_eq (Int.ofNat_inj.mp h)) mx A B
  simp only [aluMinMax, Ty.isInt, if_true, intOf_n32, h, BitVec.ult]
  cases mx <;> simp

section float
variable {t : Ty} (ht : t ∈ Spec.floatTypes)
include ht

theorem floatTypes_isInt : t.isInt = false := by
  revert t; decide

theorem floatTypes_bits : 2 ^ t.bits = 2 * t.fmt.signBit := by
  revert t; decide

theorem fround_nan (mode : RMode) (rnd : Nat) (sat sig : Bool) :
    fround t mode rnd sat (.nan sig) = (Spec.canonicalNan t, 0) := by
  simp only [Spec.floatTypes, List.mem_cons, List.not_mem_nil, or_false] at ht
  rcases ht with rfl | rfl | rfl <;> rfl

/-- A source that is no NaN rounds to its own flushed pattern. -/
theorem fround_flushIn (fm : Word) (mode : RMode) (rnd : Nat) (sat : Bool) (p : Nat) (hn : (flushIn fm t p).isNan = false) :
    fround t mode rnd sat (flushIn fm t p) = (Spec.flat fm t p, 0) := by
  have value : valueOf t p = fdecode t (p % 2 ^ t.bits) := by rw [valueOf, floatTypes_isInt ht]; rfl
  unfold flushIn Spec.flat at *
  split at hn
  case isTrue h =>
    rw [if_pos h, if_pos h]
    rcases Nat.mod_two_eq_zero_or_one (p / t.fmt.signBit) with h2 | h2 <;> simp [fround, XR.zero, h2]
  case isFalse h =>
    rw [if_neg h, if_neg h]
    rw [value] at hn ⊢
    exact fround_fdecode t mode rnd sat (Nat.lt_of_lt_of_eq (Nat.mod_lt _ (Nat.two_pow_pos _)) (floatTypes_bits ht)) hn

/-- A float minimum or maximum is a chosen operand, or the canonical NaN (07 R147). -/
theorem aluMinMax_float (fm : Word) (mx : Bool) (a b : Nat) : aluMinMax fm mx t a b = Spec.chosen fm mx t a b := by
  have pattern (p : Nat) (hn : ¬(flushIn fm t p).isNan = true) :=
    congrArg Prod.fst (fround_flushIn ht fm .rne 0 false p (Bool.eq_false_iff.mpr hn))
  have nan := congrArg Prod.fst (fround_nan ht .rne 0 false false)
  simp only [aluMinMax, floatTypes_isInt ht, Bool.false_eq_true, if_false, fminmax, Spec.chosen]
  by_cases hs : ((flushIn fm t a).isSnan || (flushIn fm t b).isSnan) = true
  · simp only [if_pos hs, nan]
  · simp only [if_neg hs]
    by_cases ha : (flushIn fm t a).isNan = true <;> by_cases hb : (flushIn fm t b).isNan = true
    · simp only [ha, hb, nan, Bool.and_self, if_true]
    · simp [ha, hb, pattern b hb]
    · simp [ha, hb, pattern a ha]
    · simp only [ha, hb, Bool.and_self, if_false, Bool.false_eq_true, apply_ite fun v => (fround t .rne 0 false v).1,
        pattern a ha, pattern b hb]

end float

/-! ## The tree is that of 03 R82 -/

/-- A value that a reduction of this type may meet: a word, where it is not a float. -/
def RedVal (t : Ty) (v : Nat) : Prop := t ≠ .f32 → v < 2 ^ 32

theorem redAllowed_iff (op : RedOp) (t : Ty) : Spec.redAllowed op t = true ↔
    ((op = .add ∨ op = .min ∨ op = .max) ∧ (t = .i32 ∨ t = .n32 ∨ t = .f32)) ∨
    ((op = .and ∨ op = .or ∨ op = .xor) ∧ t = .b32) := by
  cases op <;> simp [Spec.redAllowed, or_assoc]

section reduce
variable (fm : Word) {op : RedOp} {t : Ty} (hop : Spec.redAllowed op t = true)
include hop

theorem combine_redVal (p q : Nat × Flags) : RedVal t (Spec.combine fm op t p q).1 := by
  intro hf
  rcases (redAllowed_iff op t).mp hop with ⟨rfl | rfl | rfl, rfl | rfl | rfl⟩ | ⟨rfl | rfl | rfl, rfl⟩
  case inl.inl.inr.inr | inl.inr.inl.inr.inr | inl.inr.inr.inr.inr => exact absurd rfl hf
  all_goals exact BitVec.isLt _

/-- One combination of the model is that of 07 R166. -/
theorem redStep_eq_combine (p q : Nat × Flags) (hp : RedVal t p.1) (hq : RedVal t q.1) :
    redNode fm op t (some p) (some q) = some (Spec.combine fm op t p q) := by
  obtain ⟨a, fa⟩ := p
  obtain ⟨b, fb⟩ := q
  by_cases hf : t = .f32
  · subst hf
    have chosen (mx : Bool) := aluMinMax_float (t := .f32) (by decide) fm mx a b
    rcases (redAllowed_iff op .f32).mp hop with ⟨rfl | rfl | rfl, -⟩ | ⟨-, h⟩
    · rfl
    · simp only [redNode, redStep, Spec.combine, chosen]
    · simp only [redNode, redStep, Spec.combine, chosen]
    · cases h
  · obtain ⟨A, rfl⟩ : ∃ A : Word, A.toNat = a := ⟨BitVec.ofNat 32 a, Nat.mod_eq_of_lt (hp hf)⟩
    obtain ⟨B, rfl⟩ : ∃ B : Word, B.toNat = b := ⟨BitVec.ofNat 32 b, Nat.mod_eq_of_lt (hq hf)⟩
    rcases (redAllowed_iff op t).mp hop with ⟨rfl | rfl | rfl, rfl | rfl | rfl⟩ | ⟨rfl | rfl | rfl, rfl⟩
    case inl.inl.inr.inr | inl.inr.inl.inr.inr | inl.inr.inr.inr.inr => exact absurd rfl hf
    all_goals
      simp [redNode, redStep, Spec.combine, aluAdd, Ty.isInt, aluMinMax_i32, aluMinMax_n32, BitVec.toNat_add]

theorem tree_redVal {leaf : Nat → Option Nat} (hleaf : ∀ k v, leaf k = some v → v < 2 ^ 32) (n base : Nat) (r : Nat × Flags)
    (hr : Spec.tree fm op t leaf n base = some r) : RedVal t r.1 := by
  induction n generalizing base r with
  | zero =>
    obtain ⟨v, hv, rfl⟩ := Option.map_eq_some_iff.mp hr
    exact fun _ => hleaf base v hv
  | succ n ih =>
    rw [Spec.tree] at hr
    split at hr
    case h_1 => cases hr; exact combine_redVal fm hop _ _
    case h_2 ha _ => exact ih _ _ (ha.trans hr)
    case h_3 => exact ih _ _ hr

/-- Combining level by level gives the tree that combines each half first. -/
theorem redRoot_eq_tree {leaf : Nat → Option Nat} (hleaf : ∀ k v, leaf k = some v → v < 2 ^ 32) (n base : Nat) :
    redRoot fm op t n ((List.range (2 ^ n)).map fun i => (leaf (base + i)).map fun v => (v, 0)) =
      Spec.tree fm op t leaf n base := by
  induction n generalizing base with
  | zero => rfl
  | succ n ih =>
    have halves : ((List.range (2 ^ (n + 1))).map fun i => (leaf (base + i)).map fun v => (v, (0 : Flags))) =
        ((List.range (2 ^ n)).map fun i => (leaf (base + i)).map fun v => (v, (0 : Flags))) ++
        (List.range (2 ^ n)).map fun i => (leaf (base + 2 ^ n + i)).map fun v => (v, (0 : Flags)) := by
      rw [Nat.pow_succ, Nat.mul_two, List.range_add, List.map_append, List.map_map]
      simp only [Function.comp_def, Nat.add_assoc]
    have low := tree_redVal fm hop hleaf n base
    have high := tree_redVal fm hop hleaf n (base + 2 ^ n)
    rw [halves, redRoot_append fm op t n (by simp) (by simp), ih, ih, Spec.tree]
    cases ha : Spec.tree fm op t leaf n base with
    | none => rfl
    | some p =>
      cases hb : Spec.tree fm op t leaf n (base + 2 ^ n) with
      | none => rfl
      | some q => exact redStep_eq_combine fm hop p q (low p ha) (high q hb)

end reduce

/-- The tree over the present lanes up to `last` is that over those up to any bound that its positions do not tell from `last`. -/
theorem redTree_eq_tree (h : Here) {op : RedOp} {x : Args} (hop : Spec.redAllowed op x.ty = true) (e : Mask) {base n last upTo : Nat}
    (hb : ∀ i < 2 ^ n, base + i ∈ e → (base + i ≤ last ↔ base + i ≤ upTo)) :
    h.redTree op x e base n last = Spec.tree h.t.fmode op x.ty
      (fun k => if k ∈ e ∧ k ≤ upTo then some (h.t.vget x.a k).toNat else none) n base := by
  rw [← redRoot_eq_tree h.t.fmode hop, Here.redTree]
  case hleaf =>
    intro k v hv
    split at hv
    · cases hv; exact BitVec.isLt _
    · cases hv
  congr 1
  refine List.map_congr_left fun i hi => ?_
  by_cases he : base + i ∈ e
  · simp only [List.contains_eq_mem, he, decide_true, Bool.true_and, decide_eq_true_eq, true_and, hb i (List.mem_range.mp hi) he]
    split <;> rfl
  · simp [he]

end Sys2Proof.Machine
end

section
/-!
SUPPORT. The cross-lane instructions (07 R162 to R167): each completes with what its rule says in every executing lane.
-/

namespace Sys2Proof.Machine

open Sys2Proof

section exec
variable (x : Args) (s : State)

theorem exec_vperm : exec (.vperm x) s = execVperm x s := rfl
theorem exec_vshfl : exec (.vshfl x) s = execVshfl x s := rfl
theorem exec_vbcast : exec (.vbcast x) s = execVbcast x s := rfl
theorem exec_vid : exec (.vid x) s = execVid x s := rfl
theorem exec_vballot : exec (.vballot x) s = execVballot x s := rfl
theorem exec_vballotTeam : exec (.vballotTeam x) s = execVballotTeam x s := rfl
theorem exec_vred (team : Bool) (op : RedOp) : exec (.vred team op x) s = execVred team op x s := rfl
theorem exec_vscan (team : Bool) (op : RedOp) : exec (.vscan team op x) s = execVscan team op x s := rfl

end exec

/-- Byte k of the 16 bytes that a lane of `vperm` selects from (07 R163): those of the even lane, then those of the odd one, and 0
for a lane that does not execute. -/
def permByte (h : Here) (x : Args) (l k : Nat) : Nat :=
  if (h.execLanes x.guard).contains (l / 2 * 2 + k / 8) then wordByte (h.t.vget (x.b + k / 4 % 2) (l / 2 * 2 + k / 8)) (k % 4) else 0

theorem permByte_lt (h : Here) (x : Args) (l k : Nat) : permByte h x l k < 256 := by
  unfold permByte
  split
  · exact wordByte_lt _ _
  · decide

theorem ofNat_permByte (h : Here) (x : Args) (l k : Nat) : BitVec.ofNat 8 (permByte h x l k) =
    if l / 2 * 2 + k / 8 ∈ h.execLanes x.guard then
      (h.t.vget (x.b + k / 4 % 2) (l / 2 * 2 + k / 8)).extractLsb' (8 * (k % 4)) 8 else 0 := by
  simp only [permByte, List.contains_eq_mem, decide_eq_true_eq]
  split
  · exact ofNat_wordByte _ _
  · rfl

/-- The executing lanes of a rank that push to lane l, in their order (07 R165). -/
def senders (h : Here) (x : Args) (l : Nat) : Mask :=
  (h.execLanes x.guard).filter fun k => k / 32 * 32 + (Spec.laneB h x k).toNat % 32 = l

/-- What `vpush` writes: to each executing lane that a lane pushes to, the value of the last that does. -/
def pushed (h : Here) (x : Args) : List (Nat × Word) :=
  (h.execLanes x.guard).filterMap fun l => (senders h x l).getLast?.map fun k => (l, Spec.laneA h x k)

theorem mem_pushed (h : Here) (x : Args) (l : Nat) (w : Word) :
    (l, w) ∈ pushed h x ↔ l ∈ h.execLanes x.guard ∧ ∃ k, (senders h x l).getLast? = some k ∧ w = Spec.laneA h x k := by
  simp only [pushed, List.mem_filterMap, Option.map_eq_some_iff, Prod.mk.injEq]
  constructor
  · rintro ⟨_, he, k, hk, rfl, rfl⟩
    exact ⟨he, k, hk, rfl⟩
  · rintro ⟨he, k, hk, rfl⟩
    exact ⟨l, he, k, hk, rfl, rfl⟩

theorem exec_vpush (x : Args) (s : State) : exec (.vpush x) s = onPath s fun h =>
    needClean s h (argsLen x) (h.execLanes x.guard) (readRegs x [(.a, x.a), (.b, x.b)]) []
      (.next ((s.putTeam h ((h.t.vputs x.d (pushed h x)).setPreds x.c
        ((h.execLanes x.guard).map fun l => (l, decide (2 ≤ (senders h x l).length))))).finish h.r (argsLen x)
          (passesOf h.p.mask))) := rfl

section acrossLanes
variable {s : State} {x : Args} (hl : s.live)
include hl

/-- `vperm` (07 R163): byte by byte from the table of a pair of lanes. -/
theorem vperm_runs (hc : s.here.clean (s.here.execLanes x.guard) (readRegs x [(.a, x.a)] ++ [x.b, x.b + 1]) []) :
    Runs (.vperm x) s fun t => Completed s t (argsLen x) (passesOf s.here.p.mask) ∧
      ∀ l ∈ s.here.execLanes x.guard, ∀ j, j < 4 →
        let k := (Spec.laneA s.here x l).toNat / 2 ^ (4 * j) % 16
        let src := l / 2 * 2 + k / 8
        (t.here.t.vget x.d l).extractLsb' (8 * j) 8 =
          if src ∈ s.here.execLanes x.guard then (s.here.t.vget (x.b + k / 4 % 2) src).extractLsb' (8 * (k % 4)) 8 else 0 := by
  have run := Runs.of_results hl ((exec_vperm x s).trans (execVperm.eq_def x s)) hc
  refine run.mono fun t h => ⟨h.completed, fun l he j hj => ?_⟩
  rw [h.vget, Team.vget_vresults, if_pos he]
  exact (extractLsb'_byteSum (b := fun j => permByte s.here x l (fld (s.here.na x l) (4 * j) 4)) (fun _ => permByte_lt ..) hj).trans
    (ofNat_permByte ..)

/-- `vshfl` (07 R164): from the selected lane of the rank, else from the lane itself. -/
theorem vshfl_runs (hc : s.here.clean (s.here.execLanes x.guard) (readRegs x [(.a, x.a), (.b, x.b)]) []) :
    Runs (.vshfl x) s fun t => Spec.Wrote s t x (argsLen x) fun l =>
      let i := (Spec.laneB s.here x l).toNat % 32
      let p := l % 32
      let r := l / 32 * 32
      let take := fun (k : Nat) => if k ∈ s.here.execLanes x.guard then s.here.t.vget x.a k else s.here.t.vget x.a l
      let v := match (Spec.laneB s.here x l).toNat / 32 % 8 with
        | 0 => take (r + i)
        | 1 => take (r + (p ^^^ i))
        | 2 => if i ≤ p then take (r + (p - i)) else s.here.t.vget x.a l
        | 3 => if p + i < 32 then take (r + (p + i)) else s.here.t.vget x.a l
        | _ => s.here.t.vget x.a l
      (v, 0) := by
  have run := Runs.of_results hl ((exec_vshfl x s).trans (execVshfl.eq_def x s)) hc
  refine run.mono fun t h => wrote_congr (fun l _ => ?_) h.wrote
  have source : s.here.nb x l = (Spec.laneB s.here x l).toNat := rfl
  have mode : fld (Spec.laneB s.here x l).toNat 5 3 = (Spec.laneB s.here x l).toNat / 32 % 8 := rfl
  simp only [shflSrc, source, mode, BitVec.ofNat_toNat, BitVec.setWidth_eq, List.contains_eq_mem, decide_eq_true_eq]
  generalize (Spec.laneB s.here x l).toNat / 32 % 8 = m
  generalize (Spec.laneB s.here x l).toNat % 32 = i
  match m with
  | 0 | 1 => exact congrArg (·, 0) (apply_ite ..)
  | 2 =>
    by_cases hi : i ≤ l % 32
    · simp only [if_pos hi]
      exact congrArg (·, 0) (apply_ite ..)
    · simp only [if_neg hi]
  | 3 =>
    by_cases hi : l % 32 + i < 32
    · simp only [if_pos hi]
      exact congrArg (·, 0) (apply_ite ..)
    · simp only [if_neg hi]
  | _ + 4 => rfl

/-- `vpush` (07 R165): the last sender's value, and whether there were two; what nothing is sent to stays. -/
theorem vpush_runs (hc : s.here.clean (s.here.execLanes x.guard) (readRegs x [(.a, x.a), (.b, x.b)]) []) :
    Runs (.vpush x) s fun t => Completed s t (argsLen x) (passesOf s.here.p.mask) ∧
      (∀ l ∈ s.here.execLanes x.guard, ∀ k, (senders s.here x l).getLast? = some k →
        t.here.t.vget x.d l = Spec.laneA s.here x k) ∧
      (∀ l ∈ s.here.execLanes x.guard, senders s.here x l = [] → t.here.t.vget x.d l = s.here.t.vget x.d l) ∧
      (x.c ≠ 7 → ∀ l ∈ s.here.execLanes x.guard, t.here.t.pred x.c l = decide (2 ≤ (senders s.here x l).length)) ∧
      (x.c = 7 → t.here.t.preds = s.here.t.preds) := by
  have run := Runs.of_clean hl (exec_vpush x s) hc ((Team.SameRun.vputs ..).setPreds ..)
  refine run.mono fun t h => ⟨h.completed, fun l he k hk => ?sent, fun l he hn => ?kept, fun hx l he => ?collided, fun hx => ?discarded⟩
  case sent =>
    rw [h.vget, Team.setPreds_eq]
    refine Team.vget_vputs_of_mem _ _ ((mem_pushed ..).mpr ⟨he, k, hk, rfl⟩) fun w hw => ?_
    obtain ⟨-, k', hk', rfl⟩ := (mem_pushed ..).mp hw
    rw [Option.some.inj (hk'.symm.trans hk)]
  case kept =>
    rw [h.vget, Team.setPreds_eq]
    refine Team.vget_vputs_of_not_mem _ _ fun p hp heq => ?_
    obtain ⟨-, k, hk, -⟩ := (mem_pushed s.here x p.1 p.2).mp hp
    rw [heq, hn] at hk
    cases hk
  case collided => rw [h.pred, Team.pred_setPreds _ _ hx, if_pos he]
  case discarded => rw [h.preds, hx, Team.setPreds_seven, Team.vputs_preds]

/-- `vbcast` (07 R162). -/
theorem vbcast_runs (hc : s.here.clean (s.here.execLanes x.guard) [] (readRegs x [(.a, x.a)])) :
    Runs (.vbcast x) s fun t => Spec.Wrote s t x (argsLen x) fun _ => (s.here.ssrc x .a x.a, 0) := by
  have run := Runs.of_clean hl ((exec_vbcast x s).trans (execVbcast.eq_def x s)) hc (Team.SameRun.vputs ..)
  exact run.mono fun t h => h.wrote_values

/-- `vid` (07 R162). -/
theorem vid_runs : Runs (.vid x) s fun t => Spec.Wrote s t x (argsLen x) fun l => (BitVec.ofNat 32 l, 0) :=
  (Runs.of_vectorOp hl (exec_vid x s) (Here.clean_nil ..)).mono fun _ h => h.wrote

/-- `vballot` (07 R167): the word of a lane's rank, and no flag. -/
theorem vballot_runs : Runs (.vballot x) s fun t => Completed s t (argsLen x) (passesOf s.here.p.mask) ∧ t.here.t.ff = s.here.t.ff ∧
    ∀ l ∈ s.here.execLanes x.guard, (s.here.execLanes x.guard).Nodup → ∀ j, j < 32 → (t.here.t.vget x.d l).getLsbD j =
      (decide (l / 32 * 32 + j ∈ s.here.execLanes x.guard) && s.here.t.pred x.a (l / 32 * 32 + j)) := by
  refine (Runs.of_vectorOp hl (exec_vballot x s) (Here.clean_nil ..)).mono fun t h => ⟨h.completed, ?flags, fun l he hnd j hj => ?bits⟩
  case flags => rw [h.ff, Team.vresults_zero, Team.vputs_ff]
  case bits =>
    rw [h.vget, Team.vget_vresults, if_pos he, BitVec.getLsbD_ofNat, testBit_maskWord (hnd.filter _) _ hj]
    simp [hj]

/-- `vballot.team` (07 R167): the count of the lanes whose predicate holds. -/
theorem vballotTeam_runs : Runs (.vballotTeam x) s fun t => Completed s t 8 (passesOf s.here.p.mask) ∧
    t.here.t.sgetr x.d = BitVec.ofNat 32 ((s.here.execLanes x.guard).filter fun l => s.here.t.pred x.a l).length := by
  have run := Runs.of_team hl ((exec_vballotTeam x s).trans (execVballotTeam.eq_def x s)) (Team.SameRun.sputr ..)
  exact run.mono fun t h => ⟨h.completed, (h.sgetr _).trans (Team.sgetr_sputr ..)⟩

end acrossLanes

/-! ## Reductions and scans (07 R166) -/

section reduce
variable (h : Here) (team : Bool) {op : RedOp} {x : Args} (hop : Spec.redAllowed op x.ty = true)
include hop

/-- The tree of a lane over the present lanes up to `last`, as 07 R166 gives it. -/
theorem redTree_redSpan {last upTo l : Nat}
    (hb : ∀ i < 2 ^ (h.redSpan team l).2, (h.redSpan team l).1 + i ∈ h.execLanes x.guard →
      ((h.redSpan team l).1 + i ≤ last ↔ (h.redSpan team l).1 + i ≤ upTo)) :
    let v := (h.redTree op x (h.execLanes x.guard) (h.redSpan team l).1 (h.redSpan team l).2 last).getD (0, 0)
    (BitVec.ofNat 32 v.1, v.2) = Spec.reduced h team op x upTo l := by
  intro v
  have tree : v = _ := congrArg (·.getD (0, 0)) (redTree_eq_tree h hop (h.execLanes x.guard) hb)
  rw [tree]
  cases team <;> rfl

end reduce

theorem readRegs_vA {x : Args} (hx : x.lit = none) : readRegs x (vA x) = [x.a] := by simp [readRegs, vA, litFor, hx]

section reductions
variable {s : State} {x : Args} (hl : s.live) (team : Bool) {op : RedOp} (hop : Spec.redAllowed op x.ty = true) (hx : x.lit = none)
  (hc : s.here.clean (s.here.execLanes x.guard) [x.a] [])
include hl hop hx hc

theorem vred_runs (he : ∀ l ∈ s.here.execLanes x.guard, l < 2 ^ 32) :
    Runs (.vred team op x) s fun t => Spec.Wrote s t x 8 fun l => Spec.reduced s.here team op x (2 ^ 32) l := by
  have run := Runs.of_vectorOp hl (exec_vred x s team op) (readRegs_vA hx ▸ hc)
  rw [argsLen, hx] at run
  refine run.mono fun t h => wrote_congr (fun l _ => redTree_redSpan s.here team hop fun i hi hm => ?_) h.wrote
  have := he _ hm
  omega

theorem vscan_runs :
    Runs (.vscan team op x) s fun t => Spec.Wrote s t x 8 fun l => Spec.reduced s.here team op x l l := by
  have run := Runs.of_vectorOp hl (exec_vscan x s team op) (readRegs_vA hx ▸ hc)
  rw [argsLen, hx] at run
  exact run.mono fun t h => wrote_congr (fun l _ => redTree_redSpan s.here team hop fun _ _ _ => Iff.rfl) h.wrote

end reductions

/-- Settles O25, instruction by instruction; the tree of `vred` and `vscan` is built level by level, which is half by half. -/
theorem acrossLanes : Obligations.AcrossLanes := by
  refine ⟨fun s x hl => ?_, fun s x team op hl hx hop hc he =>
    ⟨vred_runs hl team hop hx hc he, vscan_runs hl team hop hx hc⟩⟩
  exact ⟨vperm_runs hl, vshfl_runs hl, vpush_runs hl, vbcast_runs hl, vid_runs hl, vballot_runs hl, vballotTeam_runs hl⟩

end Sys2Proof.Machine
end

section
/-!
SUPPORT. The words of an instruction and their fields: what is packed is unpacked again, a code names what it codes, every field of a
well-formed instruction lies in its width, what decodes is well formed, and the statements about the decoder (O1, O2).
-/

namespace Sys2Proof

/-! ## Fields of a word -/

/-- Every value of a list of widths and values fits in its width. -/
def Fits (l : List (Nat × Nat)) : Prop := ∀ q ∈ l, q.2 < 2 ^ q.1

@[simp] theorem fits_nil : Fits [] := nofun

@[simp] theorem fits_cons {w v : Nat} {l : List (Nat × Nat)} : Fits ((w, v) :: l) ↔ v < 2 ^ w ∧ Fits l :=
  List.forall_mem_cons

@[simp] theorem fits_append {l m : List (Nat × Nat)} : Fits (l ++ m) ↔ Fits l ∧ Fits m := List.forall_mem_append

/-- Values of one width fit when each is below its power. -/
@[simp] theorem fits_map {α : Type} {w : Nat} {f : α → Nat} {l : List α} :
    Fits (l.map fun a => (w, f a)) ↔ ∀ a ∈ l, f a < 2 ^ w := List.forall_mem_map

/-- The fields of a packed word are the values that were packed. -/
theorem unpack_pack {l : List (Nat × Nat)} (h : Fits l) : unpack (l.map Prod.fst) (pack l) = l.map Prod.snd := by
  induction l with
  | nil => rfl
  | cons q l ih =>
    obtain ⟨hv, hl⟩ := fits_cons.mp h
    simp only [List.map_cons, pack, unpack, Nat.add_mul_mod_self_left, Nat.mod_eq_of_lt hv,
      Nat.add_mul_div_left _ _ (Nat.two_pow_pos q.1), Nat.div_eq_of_lt hv, Nat.zero_add, ih hl]

/-- A packed word is below the power of its whole width. -/
theorem pack_lt {l : List (Nat × Nat)} (h : Fits l) : pack l < 2 ^ (l.map Prod.fst).sum := by
  induction l with
  | nil => exact Nat.one_pos
  | cons q l ih =>
    obtain ⟨hv, hl⟩ := fits_cons.mp h
    have := Nat.mul_le_mul_left (2 ^ q.1) (Nat.succ_le_of_lt (ih hl))
    rw [List.map_cons, List.sum_cons, Nat.pow_add, pack]
    rw [Nat.mul_succ] at this
    omega

@[simp] theorem length_unpack (ws : List Nat) (x : Nat) : (unpack ws x).length = ws.length := by
  induction ws generalizing x with
  | nil => rfl
  | cons w ws ih => rw [unpack, List.length_cons, ih, List.length_cons]

/-- The 64-bit words of a number make up its low bits again. -/
theorem joinWords_unpack (n x : Nat) : joinWords (unpack (List.replicate n 64) x) = x % 2 ^ (64 * n) := by
  induction n generalizing x with
  | zero => exact (Nat.mod_one x).symm
  | succ n ih =>
    have words : joinWords (unpack (List.replicate (n + 1) 64) x) =
        x % 2 ^ 64 + 2 ^ 64 * joinWords (unpack (List.replicate n 64) (x / 2 ^ 64)) := rfl
    rw [words, ih, Nat.mul_succ, Nat.add_comm (64 * n), Nat.pow_add, Nat.mod_mul]

/-! ## Codes -/

@[simp] theorem Ty.ofCode_code (t : Ty) : Ty.ofCode t.code = t := by cases t <;> rfl
@[simp] theorem Cond.ofCode_code (c : Cond) : Cond.ofCode c.code = some c := by cases c <;> rfl
@[simp] theorem LSel.ofCode_code (k : LSel) : LSel.ofCode k.code = some k := by cases k <;> rfl
@[simp] theorem ArcOp.ofCode_code (o : ArcOp) : ArcOp.ofCode o.code = some o := by cases o <;> rfl
@[simp] theorem PairOp.ofCode_code (o : PairOp) : PairOp.ofCode o.code = some o := by cases o <;> rfl

theorem Ty.code_lt (t : Ty) : t.code < 2 ^ 4 := by cases t <;> decide
theorem Cond.code_lt (c : Cond) : c.code < 2 ^ 4 := by cases c <;> decide
theorem LSel.code_lt (k : LSel) : k.code < 2 ^ 2 := by cases k <;> decide
theorem ArcOp.code_lt (o : ArcOp) : o.code < 2 ^ 5 := by cases o <;> decide
theorem PairOp.code_lt (o : PairOp) : o.code < 2 ^ 6 := by cases o <;> decide
theorem bit_lt (b : Bool) : bit b < 2 ^ 1 := by cases b <;> decide
@[simp] theorem bit_beq_one (b : Bool) : (bit b == 1) = b := by cases b <;> rfl

theorem Guard.code_lt {g : Guard} (h : g.sel < 8) : g.code < 2 ^ 4 := by
  unfold Guard.code; split <;> omega

theorem guardOf_code {g : Guard} (h : g.sel < 8) : guardOf g.code = g := by
  obtain ⟨neg, sel⟩ := g
  have h : sel < 8 := h
  cases neg <;> simp [guardOf, Guard.code] <;> omega

/-! ## The table of views against the opcode map -/

/-- The opcode map lists a major of the layout of 04 R85 for this SUB, and in W-literal form where its row has a literal source. -/
def majorListed (maj sub : Nat) (f : Fields) : Bool :=
  (plainMajors.map (·.1) ++ subMajors).contains maj && decide (sub < 64) && (f.lit.isEmpty || !sOnly.contains maj)

/-- The listed majors are bytes, none is of the control group, and each is valid in the forms that it has (05 R107 to R112). -/
theorem listed_majors : ∀ maj ∈ plainMajors.map (·.1) ++ subMajors, maj < 2 ^ 8 ∧ ctlMajors.lookup maj = none ∧
    (maj ≠ 0x23 → majorOk 0 maj = true) ∧ (sOnly.contains maj = false → majorOk 1 maj = true) := by decide +kernel

/-- Every row of the table is listed, and its major and SUB name its constructor; a row without types is not an instruction. -/
theorem ctorOf_view {i : Instr} {maj sub : Nat} {x : Args} {f : Fields} (h : i.view = .s maj sub x f) :
    majorListed maj sub f = true ∧ (f.ty ≠ [] → ∃ k, ctorOf maj sub = .ok k ∧ k x = i) := by
  cases i <;> cases h
  case scmp c | vcmp c => cases c <;> exact ⟨rfl, fun _ => ⟨_, rfl, rfl⟩⟩
  case vred team op | vscan team op => cases team <;> cases op <;> exact ⟨rfl, fun _ => ⟨_, rfl, rfl⟩⟩
  case atom op o | atoms op o => cases op <;> cases o <;> exact ⟨rfl, fun _ => ⟨_, rfl, rfl⟩⟩
  case ratom op o =>
    cases op
    case and | or | xor => cases o <;> exact ⟨rfl, fun hf => absurd rfl hf⟩
    all_goals cases o <;> exact ⟨rfl, fun _ => ⟨_, rfl, rfl⟩⟩
  case fence o => cases o <;> exact ⟨rfl, fun _ => ⟨_, rfl, rfl⟩⟩
  case gpool m | fctake m => cases m <;> exact ⟨rfl, fun _ => ⟨_, rfl, rfl⟩⟩
  case collAllreduce r => cases r <;> exact ⟨rfl, fun _ => ⟨_, rfl, rfl⟩⟩
  all_goals exact ⟨rfl, fun _ => ⟨_, rfl, rfl⟩⟩

/-- Every control row is in the map of the control majors. -/
theorem ctlMajors_view {i : Instr} {maj : Nat} {x : Ctl} (h : i.view = .ctl maj x) :
    maj < 2 ^ 8 ∧ majorOk 0 maj = true ∧ ∃ k, ctlMajors.lookup maj = some k ∧ k x = i := by
  cases i <;> cases h <;> exact ⟨by decide, rfl, _, rfl, rfl⟩

theorem view_prism {i : Instr} {x : Prism} (h : i.view = .prism x) : i = .prism x := by
  cases i <;> cases h; rfl

theorem view_pair {i : Instr} {x y : SubOp} (h : i.view = .pair x y) : i = .wPair x y := by
  cases i <;> cases h; rfl

/-- `sli` is the one row of its major. -/
theorem view_sli {i : Instr} {sub : Nat} {x : Args} {f : Fields} (h : i.view = .s 0x23 sub x f) : i = .sli x := by
  cases i <;> cases h; rfl

/-! ## Words and their fields -/

section fields
variable {lim : Limits} {t : Ty}

theorem OpKind.lt_of_ok {a : Nat} {k : OpKind} {f : Nat} (h : k.ok lim t a f = true) : f < 2 ^ 8 := by
  simp only [OpKind.ok, Bool.and_eq_true, decide_eq_true_eq] at h
  exact h.1

theorem lt_of_fieldOk {x : Args} {s : Option LSel} {k : OpKind} {f : Nat} (h : fieldOk lim t x s k f = true) : f < 2 ^ 8 := by
  unfold fieldOk at h
  split at h
  · rw [beq_iff_eq.mp h]; exact Nat.two_pow_pos 8
  · exact OpKind.lt_of_ok h

theorem Guard.sel_lt {takes : Bool} {g : Guard} (h : g.ok takes = true) : g.sel < 8 := by
  simp only [Guard.ok, Bool.and_eq_true, decide_eq_true_eq] at h
  exact h.1.1

/-- Every field of an S or W-literal instruction lies in its width. -/
structure Args.InWidth (x : Args) : Prop where
  guard : x.guard.sel < 8
  d : x.d < 2 ^ 8
  a : x.a < 2 ^ 8
  b : x.b < 2 ^ 8
  c : x.c < 2 ^ 8
  md : x.md < 2 ^ 4
  ext : x.ext < 2 ^ 4

theorem Args.inWidth_of_argsOk {f : Fields} {x : Args} (h : argsOk lim t f x = true) : x.InWidth := by
  simp only [argsOk, Bool.and_eq_true, decide_eq_true_eq] at h
  obtain ⟨⟨⟨⟨⟨⟨⟨⟨⟨⟨guard, -⟩, md⟩, -⟩, ext⟩, -⟩, d⟩, a⟩, b⟩, c⟩, -⟩ := h
  exact ⟨Guard.sel_lt guard, lt_of_fieldOk d, lt_of_fieldOk a, lt_of_fieldOk b, lt_of_fieldOk c, md, ext⟩

/-- A row without types has no well-formed instruction. -/
theorem types_of_argsOk {f : Fields} {x : Args} (h : argsOk lim t f x = true) : f.ty ≠ [] := by
  simp only [argsOk, Bool.and_eq_true] at h
  intro hf
  simp [hf] at h

/-- Nor has a literal in a row without a literal source. -/
theorem lit_of_argsOk {f : Fields} {x : Args} (h : argsOk lim t f x = true) {l : Lit} (hl : x.lit = some l) : f.lit ≠ [] := by
  simp only [argsOk, hl, Bool.and_eq_true] at h
  intro hf
  simp [hf] at h

end fields

section words
variable {form maj sub : Nat} {x : Args} (hform : form < 2 ^ 2) (hmaj : maj < 2 ^ 8) (hsub : sub < 2 ^ 6) (hx : x.InWidth)
include hform hmaj hsub hx

theorem unpack_argsWord : unpack sWidths (argsWord form maj sub x) =
    [form, maj, sub, x.guard.code, x.d, x.a, x.b, x.c, x.ty.code, x.md, x.ext] := by
  refine unpack_pack (l := [(2, form), (8, maj), (6, sub), (4, x.guard.code), (8, x.d), (8, x.a), (8, x.b), (8, x.c),
    (4, x.ty.code), (4, x.md), (4, x.ext)]) ?_
  simp only [fits_cons, fits_nil, and_true]
  exact ⟨hform, hmaj, hsub, Guard.code_lt hx.guard, hx.d, hx.a, hx.b, hx.c, x.ty.code_lt, hx.md, hx.ext⟩

theorem argsOf_argsWord (lit : Option Lit) : argsOf (argsWord form maj sub x) lit = { x with lit := lit } := by
  simp only [argsOf, unpack_argsWord hform hmaj hsub hx, List.getD_cons_succ, List.getD_cons_zero, guardOf_code hx.guard, Ty.ofCode_code]

end words

theorem litOf_litWord (l : Lit) : litOf (litWord l) = some l := by
  have fields : unpack litWidths (litWord l) = [l.val.toNat, l.sel.code, 0] := by
    refine unpack_pack (l := [(32, l.val.toNat), (2, l.sel.code), (30, 0)]) ?_
    simp only [fits_cons, fits_nil, and_true]
    exact ⟨l.val.isLt, l.sel.code_lt, Nat.two_pow_pos 30⟩
  simp [litOf, fields]

/-! ## Steps 4 and 5 of 05 R112 -/

section judge
variable {lim : Limits} {i : Instr}

theorem wellFormed_iff : WellFormed lim i = true ↔ fieldsOk lim i = true ∧ pairingOk i = true := Bool.and_eq_true_iff

theorem judge_of_wellFormed (h : WellFormed lim i = true) (len : Nat) : judge lim len (some i) = .ok (i, len) := by
  obtain ⟨hf, hp⟩ := wellFormed_iff.mp h
  simp [judge, hf, hp]

end judge

/-- The form bits of a packed word choose its layout (04 R83). -/
theorem pack_mod_four {v : Nat} (hv : v < 4) (l : List (Nat × Nat)) : pack ((2, v) :: l) % 4 = v := by
  rw [pack]; omega

/-! ## S and W-literal instructions -/

section rows
variable {lim : Limits} {i : Instr} {maj sub : Nat} {x : Args} {f : Fields} (hv : i.view = .s maj sub x f)
  (hw : WellFormed lim i = true)
include hv hw

theorem argsOk_of_wellFormed : argsOk lim (q4Ty i x) f x = true ∧ extraOk i = true := by
  have h := (wellFormed_iff.mp hw).1
  simpa [fieldsOk, hv] using h

/-- A major with its form is valid: `sli` has a literal, and a literal stands only where its row has a source for it. -/
theorem majorOk_of_wellFormed : majorOk (if x.lit.isSome then 1 else 0) maj = true := by
  obtain ⟨hargs, hextra⟩ := argsOk_of_wellFormed hv hw
  have listed := (ctorOf_view hv).1
  simp only [majorListed, Bool.and_eq_true, Bool.or_eq_true, List.contains_iff_mem, decide_eq_true_eq] at listed
  obtain ⟨⟨hmem, -⟩, hlit⟩ := listed
  obtain ⟨-, -, form0, form1⟩ := listed_majors maj hmem
  cases hl : x.lit with
  | none =>
    refine form0 fun hmaj => ?_
    subst hmaj
    rw [view_sli hv, extraOk, hl] at hextra
    cases hextra
  | some l =>
    have source := lit_of_argsOk hargs hl
    refine form1 ?_
    simpa [source] using hlit

/-- The first word names the constructor and every field but the literal. -/
theorem decodeSW_row {form : Nat} (hform : form < 2 ^ 2) (hmajor : majorOk form maj = true) (w1 : Nat) :
    ∃ k : Args → Instr, k x = i ∧ decodeSW lim form (argsWord form maj sub x) w1 =
      if form = 0 then judge lim 8 (some (k { x with lit := none }))
      else judge lim 16 ((litOf w1).map fun l => k { x with lit := some l }) := by
  have hargs := (argsOk_of_wellFormed hv hw).1
  obtain ⟨listed, named⟩ := ctorOf_view hv
  obtain ⟨k, hk, hi⟩ := named (types_of_argsOk hargs)
  simp only [majorListed, Bool.and_eq_true, List.contains_iff_mem, decide_eq_true_eq] at listed
  obtain ⟨⟨hmem, hsub⟩, -⟩ := listed
  obtain ⟨hmaj, notCtl, -, -⟩ := listed_majors maj hmem
  have width := Args.inWidth_of_argsOk hargs
  refine ⟨k, hi, ?_⟩
  simp only [decodeSW, unpack_argsWord hform hmaj hsub width, List.getD_cons_succ, List.getD_cons_zero, hmajor, notCtl, hk,
    argsOf_argsWord hform hmaj hsub width, Bool.not_true, Bool.false_eq_true, if_false]

theorem decode_row {pc : Nat} (hpc : pc % (8 * (encode i).length) = 0) :
    decode lim pc (encode i) = .ok (i, 8 * (encode i).length) := by
  have hmajor := majorOk_of_wellFormed hv hw
  cases hl : x.lit with
  | none =>
    rw [hl] at hmajor
    obtain ⟨k, hi, run⟩ := decodeSW_row hv hw (form := 0) (by decide) hmajor 0
    have words : encode i = [argsWord 0 maj sub x] := by simp only [encode, hv, hl]
    have form : argsWord 0 maj sub x % 4 = 0 := pack_mod_four (by decide) _
    rw [words] at hpc ⊢
    rw [← hl, if_pos rfl, hi, judge_of_wellFormed hw] at run
    simp only [decode, List.getD_cons_zero, form]
    exact (if_pos hpc).trans run
  | some l =>
    rw [hl] at hmajor
    obtain ⟨k, hi, run⟩ := decodeSW_row hv hw (form := 1) (by decide) hmajor (litWord l)
    have words : encode i = [argsWord 1 maj sub x, litWord l] := by simp only [encode, hv, hl]
    have form : argsWord 1 maj sub x % 4 = 1 := pack_mod_four (by decide) _
    rw [words] at hpc ⊢
    rw [if_neg Nat.one_ne_zero, litOf_litWord, Option.map_some, ← hl, hi, judge_of_wellFormed hw] at run
    simp only [decode, List.getD_cons_zero, List.getD_cons_succ, form]
    exact (if_pos hpc).trans run

end rows

/-! ## Control instructions -/

section control
variable {lim : Limits} {i : Instr} {maj : Nat} {x : Ctl}

/-- Every field of a control instruction lies in its width (06 R115). -/
structure Ctl.InWidth (x : Ctl) : Prop where
  guard : x.guard.sel < 8
  opnd : x.opnd < 2 ^ 8
  tgt : x.tgt < 2 ^ 20
  token : x.token < 2 ^ 4
  aux : x.aux < 2 ^ 4

theorem Ctl.inWidth_of_ctlOk (h : ctlOk lim i x = true) : x.InWidth := by
  have guard : ∃ takes, x.guard.ok takes = true := by
    simp only [ctlOk, Bool.and_eq_true] at h
    replace h := h.2
    split at h <;> simp only [Bool.and_eq_true, and_assoc] at h <;> exact ⟨_, h.1⟩
  obtain ⟨_, guard⟩ := guard
  simp only [ctlOk, Bool.and_eq_true, decide_eq_true_eq] at h
  obtain ⟨⟨⟨⟨opnd, tgt⟩, token⟩, aux⟩, -⟩ := h
  exact ⟨Guard.sel_lt guard, opnd, tgt, token, aux⟩

theorem unpack_ctlWord {maj : Nat} (hmaj : maj < 2 ^ 8) (hx : x.InWidth) :
    unpack ctlWidths (ctlWord maj x) = [0, maj, 0, x.guard.code, x.opnd, x.tgt, x.token, x.aux, 0, 0] := by
  refine unpack_pack (l := [(2, 0), (8, maj), (6, 0), (4, x.guard.code), (8, x.opnd), (20, x.tgt), (4, x.token), (4, x.aux),
    (4, 0), (4, 0)]) ?_
  simp only [fits_cons, fits_nil, and_true]
  exact ⟨by decide, hmaj, by decide, Guard.code_lt hx.guard, hx.opnd, hx.tgt, hx.token, hx.aux, by decide, by decide⟩

theorem ctlOf_ctlWord {maj : Nat} (hmaj : maj < 2 ^ 8) (hx : x.InWidth) : ctlOf (ctlWord maj x) = some x := by
  simp only [ctlOf, unpack_ctlWord hmaj hx, List.getD_cons_succ, List.getD_cons_zero, guardOf_code hx.guard, and_self, if_true]

/-- A control word reads as S layout in its first three fields. -/
theorem unpack_sWidths_ctlWord {maj : Nat} (hmaj : maj < 2 ^ 8) (x : Ctl) :
    (unpack sWidths (ctlWord maj x)).getD 1 0 = maj ∧ (unpack sWidths (ctlWord maj x)).getD 2 0 = 0 := by
  simp only [sWidths, unpack, ctlWord, pack, List.getD_cons_succ, List.getD_cons_zero]
  constructor <;> omega

theorem decode_ctl {pc : Nat} (hv : i.view = .ctl maj x) (hw : WellFormed lim i = true) (hpc : pc % (8 * (encode i).length) = 0) :
    decode lim pc (encode i) = .ok (i, 8 * (encode i).length) := by
  obtain ⟨hmaj, hmajor, k, hk, hi⟩ := ctlMajors_view hv
  have fields : ctlOk lim i x = true := by simpa only [fieldsOk, hv] using (wellFormed_iff.mp hw).1
  have words : encode i = [ctlWord maj x] := by simp only [encode, hv]
  have form : ctlWord maj x % 4 = 0 := pack_mod_four (by decide) _
  obtain ⟨major, sub⟩ := unpack_sWidths_ctlWord hmaj x
  have run : decodeSW lim 0 (ctlWord maj x) 0 = .ok (i, 8) := by
    simp only [decodeSW, major, sub, hmajor, hk, ctlOf_ctlWord hmaj (Ctl.inWidth_of_ctlOk fields), Option.map_some, hi,
      judge_of_wellFormed hw, Bool.not_true, Bool.false_eq_true, ne_eq, not_true_eq_false, if_false, Nat.zero_ne_one]
  rw [words] at hpc ⊢
  simp only [decode, List.getD_cons_zero, form]
  exact (if_pos hpc).trans run

end control

/-! ## W-pairs -/

section pairs
variable {lim : Limits} {x y : SubOp}

/-- Every field of a sub-operation lies in its width (04 R93). -/
structure SubOp.InWidth (x : SubOp) : Prop where
  d : x.d < 2 ^ 8
  a : x.a < 2 ^ 8
  b : x.b < 2 ^ 8
  c : x.c < 2 ^ 8
  cond : x.cond < 2 ^ 4

theorem lt_of_pairSrcOk {used k : Bool} {f : Nat} (h : pairSrcOk lim used k f = true) : f < 2 ^ 8 := by
  unfold pairSrcOk at h
  split at h
  case isTrue =>
    split at h <;> simp only [Bool.and_eq_true, decide_eq_true_eq] at h <;> omega
  case isFalse =>
    simp only [Bool.and_eq_true, beq_iff_eq] at h
    omega

theorem SubOp.inWidth_of_subOk (h : subOk lim x = true) : x.InWidth := by
  simp only [subOk, Bool.and_eq_true, decide_eq_true_eq] at h
  obtain ⟨⟨⟨⟨⟨⟨d, -⟩, cond⟩, -⟩, a⟩, b⟩, c⟩ := h
  refine ⟨d, lt_of_pairSrcOk a, lt_of_pairSrcOk b, lt_of_pairSrcOk c, ?_⟩
  split at cond <;> simp only [decide_eq_true_eq, beq_iff_eq] at cond <;> omega

/-- The fields of the word of a sub-operation, lowest first. -/
def subFields (x : SubOp) : List (Nat × Nat) :=
  [(10, 0), (8, x.c), (8, x.b), (8, x.a), (8, x.d), (1, bit x.ka), (1, bit x.kb), (1, bit x.kc), (4, x.cond), (4, x.ty2.code),
    (4, x.ty.code), (6, x.op.code)]

theorem fits_subFields (hx : x.InWidth) : Fits (subFields x) := by
  simp only [subFields, fits_cons, fits_nil, and_true]
  exact ⟨by decide, hx.c, hx.b, hx.a, hx.d, bit_lt _, bit_lt _, bit_lt _, hx.cond, x.ty2.code_lt, x.ty.code_lt, x.op.code_lt⟩

theorem subWord_lt (hx : x.InWidth) : subWord x < 2 ^ 63 := pack_lt (fits_subFields hx)

theorem subOf_subWord (hx : x.InWidth) : subOf (subWord x) = some x := by
  have fields : unpack subWidths (subWord x) = (subFields x).map Prod.snd := unpack_pack (fits_subFields hx)
  simp only [subOf, fields, subFields, List.map_cons, List.map_nil, List.getD_cons_succ, List.getD_cons_zero, PairOp.ofCode_code,
    Option.map_some, Ty.ofCode_code, bit_beq_one, if_true]

/-- The 128 bits of a pair. -/
def pairFields (x y : SubOp) : List (Nat × Nat) := [(2, 2), (63, subWord x), (63, subWord y)]

theorem fits_pairFields (hx : x.InWidth) (hy : y.InWidth) : Fits (pairFields x y) := by
  simp only [pairFields, fits_cons, fits_nil, and_true]
  exact ⟨by decide, subWord_lt hx, subWord_lt hy⟩

theorem decode_pair {pc : Nat} (hw : WellFormed lim (.wPair x y) = true) (hpc : pc % (8 * (encode (.wPair x y)).length) = 0) :
    decode lim pc (encode (.wPair x y)) = .ok (.wPair x y, 8 * (encode (.wPair x y)).length) := by
  have subs : subOk lim x = true ∧ subOk lim y = true := Bool.and_eq_true_iff.mp (wellFormed_iff.mp hw).1
  have hx := SubOp.inWidth_of_subOk subs.1
  have hy := SubOp.inWidth_of_subOk subs.2
  have fits := fits_pairFields hx hy
  have whole : pack (pairFields x y) < 2 ^ 128 := pack_lt fits
  have fields : unpack [2, 63, 63] (pack (pairFields x y)) = [2, subWord x, subWord y] := unpack_pack fits
  have form : pack (pairFields x y) % 2 ^ 64 % 4 = 2 := by
    rw [Nat.mod_mod_of_dvd _ (by decide)]
    exact pack_mod_four (by decide) _
  have joined := joinWords_unpack 2 (pack (pairFields x y))
  rw [Nat.mod_eq_of_lt whole] at joined
  have words : encode (.wPair x y) = [pack (pairFields x y) % 2 ^ 64, pack (pairFields x y) / 2 ^ 64 % 2 ^ 64] := rfl
  rw [words] at hpc ⊢
  simp only [decode, List.getD_cons_zero, List.getD_cons_succ, form]
  refine (if_pos hpc).trans ?_
  rw [show joinWords [_, _] = _ from joined, fields]
  simp only [List.getD_cons_zero, List.getD_cons_succ, subOf_subWord hx, subOf_subWord hy, Option.bind_some, Option.map_some]
  exact judge_of_wellFormed hw 16

end pairs

/-! ## Prisms -/

section prisms
variable {lim : Limits}

/-- Every field of a test lies in its width, and its type has a code (04 R99). -/
structure PTest.InWidth (t : PTest) : Prop where
  bkind : t.bkind < 2 ^ 2
  b : t.b < 2 ^ 8
  a : t.a < 2 ^ 8
  tty : testTyOf (testTyCode t.tty) = some t.tty

theorem PTest.inWidth_zero : PTest.zero.InWidth := ⟨by decide, by decide, by decide, rfl⟩

theorem PTest.inWidth_of_testOk {t : PTest} (h : testOk lim t = true) : t.InWidth := by
  simp only [testOk, Bool.and_eq_true, decide_eq_true_eq, and_assoc] at h
  obtain ⟨bkind, b, a, tty, -⟩ := h
  have codes : ∀ k ∈ [Ty.i32, .n32, .f32, .b32], testTyOf (testTyCode k) = some k := by decide
  exact ⟨bkind, b, a, codes _ (List.contains_iff_mem.mp tty)⟩

/-- The fields of the word of a test, lowest first. -/
def testFields (t : PTest) : List (Nat × Nat) := [(4, t.cond.code), (3, testTyCode t.tty), (8, t.a), (8, t.b), (2, t.bkind)]

theorem testTyCode_lt (t : Ty) : testTyCode t < 2 ^ 3 := by cases t <;> decide

theorem fits_testFields {t : PTest} (h : t.InWidth) : Fits (testFields t) := by
  simp only [testFields, fits_cons, fits_nil, and_true]
  exact ⟨t.cond.code_lt, testTyCode_lt _, h.a, h.b, h.bkind⟩

theorem testOf_testWord {t : PTest} (h : t.InWidth) : testOf (testWord t) = some t := by
  have fields : unpack testWidths (testWord t) = (testFields t).map Prod.snd := unpack_pack (fits_testFields h)
  simp only [testOf, fields, testFields, List.map_cons, List.map_nil, List.getD_cons_succ, List.getD_cons_zero, h.tty,
    Cond.ofCode_code, Option.bind_some, Option.map_some]

/-- Every field of an arc lies in its width (04 R101). -/
structure PArc.InWidth (r : PArc) : Prop where
  b : r.b < 2 ^ 8
  a : r.a < 2 ^ 8
  dst : r.dst < 2 ^ 8
  edge : r.edge < 2 ^ 4

theorem PArc.inWidth_zero : PArc.zero.InWidth := ⟨by decide, by decide, by decide, by decide⟩

theorem PArc.inWidth_of_arcOk {x : Prism} {r : PArc} (h : arcOk lim x r = true) : r.InWidth := by
  simp only [arcOk, Bool.and_eq_true, decide_eq_true_eq, and_assoc] at h
  obtain ⟨b, a, dst, edge, -⟩ := h
  exact ⟨b, a, dst, by omega⟩

/-- The fields of the word of an arc, lowest first. -/
def arcFields (r : PArc) : List (Nat × Nat) := [(4, r.edge), (5, r.op.code), (1, bit r.lf), (8, r.dst), (8, r.a), (8, r.b)]

theorem fits_arcFields {r : PArc} (h : r.InWidth) : Fits (arcFields r) := by
  simp only [arcFields, fits_cons, fits_nil, and_true]
  exact ⟨h.edge, r.op.code_lt, bit_lt _, h.dst, h.a, h.b⟩

theorem arcOf_arcWord {r : PArc} (h : r.InWidth) : arcOf (arcWord r) = some r := by
  have fields : unpack arcWidths (arcWord r) = (arcFields r).map Prod.snd := unpack_pack (fits_arcFields h)
  simp only [arcOf, fields, arcFields, List.map_cons, List.map_nil, List.getD_cons_succ, List.getD_cons_zero, ArcOp.ofCode_code,
    Option.map_some, bit_beq_one]

/-- Every part of a prism lies in its width, and its lists have their lengths (04 R97). -/
structure Prism.InWidth (x : Prism) : Prop where
  guard : x.guard.sel < 8
  present : x.present < 2 ^ 7
  token : x.token < 2 ^ 4
  arcn : x.arcn < 2 ^ 3
  seven : x.tests.length = 7
  tests : ∀ t ∈ x.tests, t.InWidth
  six : x.arcs.length = 6
  arcs : ∀ r ∈ x.arcs, r.InWidth
  eight : x.leaf.length = 8
  leaf : ∀ c ∈ x.leaf, c < 2 ^ 2
  tgtA : x.tgtA < 2 ^ 20
  tgtB : x.tgtB < 2 ^ 20

theorem Prism.inWidth_of_prismOk {x : Prism} (h : prismOk lim x = true) : x.InWidth := by
  simp only [prismOk, Bool.and_eq_true, decide_eq_true_eq, beq_iff_eq, List.all_eq_true, and_assoc] at h
  obtain ⟨guard, present, token, arcn, tgtA, tgtB, -, -, seven, tests, six, arcs, -, rest, eight, leaf, -⟩ := h
  refine ⟨Guard.sel_lt guard, present, token, by omega, seven, fun t ht => ?tests, six, fun r hr => ?arcs, eight, leaf, tgtA, tgtB⟩
  case tests =>
    obtain ⟨n, hn, rfl⟩ := List.getElem_of_mem ht
    have test := tests n (List.mem_range.mpr (seven ▸ hn))
    rw [List.getD_eq_getElem?_getD, List.getElem?_eq_getElem hn, Option.getD_some] at test
    split at test
    · exact PTest.inWidth_of_testOk test
    · exact beq_iff_eq.mp test ▸ PTest.inWidth_zero
  case arcs =>
    rw [← List.take_append_drop x.arcn x.arcs] at hr
    rcases List.mem_append.mp hr with hr | hr
    · exact PArc.inWidth_of_arcOk (arcs r hr)
    · exact rest r hr ▸ PArc.inWidth_zero

/-- The fields of the 512 bits of a prism, lowest first. -/
def prismFields (x : Prism) : List (Nat × Nat) :=
  [(2, 3), (8, 7), (7, x.present), (4, x.token), (3, x.arcn), (4, x.guard.code)] ++
    x.tests.map (fun t => (25, testWord t)) ++ x.arcs.map (fun r => (34, arcWord r)) ++
    [(16, pack (x.leaf.map fun c => (2, c))), (20, x.tgtA), (20, x.tgtB), (32, x.lit.toNat), (17, 0)]

section fields
variable {x : Prism} (hx : x.InWidth)
include hx

theorem widths_leaf : (x.leaf.map fun c => (2, c)).map Prod.fst = List.replicate 8 2 := by
  rw [List.map_map, ← hx.eight]; exact List.map_const' ..

theorem fits_leaf : Fits (x.leaf.map fun c => (2, c)) := fits_map.mpr hx.leaf

theorem unpack_leaf : unpack [2, 2, 2, 2, 2, 2, 2, 2] (pack (x.leaf.map fun c => (2, c))) = x.leaf := by
  have fields := unpack_pack (fits_leaf hx)
  rw [widths_leaf hx, List.map_map] at fields
  exact fields.trans (List.map_id _)

theorem widths_prismFields : (prismFields x).map Prod.fst = prismWidths := by
  have tests : x.tests.map (fun _ => 25) = List.replicate 7 25 := by rw [List.map_const', hx.seven]
  have arcs : x.arcs.map (fun _ => 34) = List.replicate 6 34 := by rw [List.map_const', hx.six]
  simp only [prismFields, List.map_append, List.map_map, Function.comp_def, tests, arcs]
  rfl

theorem fits_prismFields : Fits (prismFields x) := by
  have leaves : pack (x.leaf.map fun c => (2, c)) < 2 ^ 16 := by
    have := pack_lt (fits_leaf hx)
    rwa [widths_leaf hx] at this
  simp only [prismFields, fits_append, fits_cons, fits_nil, fits_map, and_true]
  exact ⟨⟨⟨⟨by decide, by decide, hx.present, hx.token, hx.arcn, Guard.code_lt hx.guard⟩,
    fun t ht => pack_lt (fits_testFields (hx.tests t ht))⟩, fun r hr => pack_lt (fits_arcFields (hx.arcs r hr))⟩,
    leaves, hx.tgtA, hx.tgtB, x.lit.isLt, by decide⟩

theorem prismWord_lt : prismWord x < 2 ^ prismWidths.sum := by
  have := pack_lt (fits_prismFields hx)
  rwa [widths_prismFields hx] at this

theorem unpack_prismWord : unpack prismWidths (prismWord x) =
    [3, 7, x.present, x.token, x.arcn, x.guard.code] ++ (x.tests.map testWord ++ (x.arcs.map arcWord ++
      [pack (x.leaf.map fun c => (2, c)), x.tgtA, x.tgtB, x.lit.toNat, 0])) := by
  have fields := unpack_pack (fits_prismFields hx)
  rw [widths_prismFields hx] at fields
  refine fields.trans ?_
  simp only [prismFields, List.map_append, List.map_map, Function.comp_def, List.map_cons, List.map_nil, List.append_assoc]

end fields

theorem allSome_map {α β : Type} {f : β → Option α} {w : α → β} {l : List α} (h : ∀ a ∈ l, f (w a) = some a) :
    allSome ((l.map w).map f) = some l := by
  induction l with
  | nil => rfl
  | cons a l ih =>
    rw [List.map_cons, List.map_cons, h a List.mem_cons_self, allSome, ih fun b hb => h b (List.mem_cons_of_mem a hb), Option.map_some]

theorem prismOf_prismWord {x : Prism} (hx : x.InWidth) : prismOf (prismWord x) = some x := by
  have tests := allSome_map (f := testOf) (w := testWord) fun t ht => testOf_testWord (hx.tests t ht)
  have arcs := allSome_map (f := arcOf) (w := arcWord) fun r hr => arcOf_arcWord (hx.arcs r hr)
  have seven : (x.tests.map testWord).length = 7 := by rw [List.length_map, hx.seven]
  have six : (x.arcs.map arcWord).length = 6 := by rw [List.length_map, hx.six]
  have behind (l : List Nat) (k : Nat) : (x.tests.map testWord ++ (x.arcs.map arcWord ++ l)).getD (k + 13) 0 = l.getD k 0 := by
    have before : (x.tests.map testWord ++ x.arcs.map arcWord).length = 13 := by rw [List.length_append, seven, six]
    rw [← List.append_assoc, List.getD_eq_getElem?_getD, List.getD_eq_getElem?_getD,
      List.getElem?_append_right (before ▸ Nat.le_add_left 13 k), before, Nat.add_sub_cancel]
  simp only [prismOf, unpack_prismWord hx, List.cons_append, List.nil_append, List.drop_succ_cons, List.drop_zero,
    List.getD_cons_succ, List.getD_cons_zero, List.take_left' seven, List.drop_left' seven, List.take_left' six, tests, arcs,
    Option.bind_some, behind _ 0, behind _ 1, behind _ 2, behind _ 3, behind _ 4, guardOf_code hx.guard, unpack_leaf hx, if_true,
    BitVec.ofNat_toNat, BitVec.setWidth_eq]

theorem decode_prism {x : Prism} {pc : Nat} (hw : WellFormed lim (.prism x) = true) (hpc : pc % (8 * (encode (.prism x)).length) = 0) :
    decode lim pc (encode (.prism x)) = .ok (.prism x, 8 * (encode (.prism x)).length) := by
  have hx : x.InWidth := Prism.inWidth_of_prismOk (wellFormed_iff.mp hw).1
  have words : encode (.prism x) = unpack (List.replicate 8 64) (prismWord x) := rfl
  have form : prismWord x % 2 ^ 64 % 4 = 3 := by
    rw [Nat.mod_mod_of_dvd _ (by decide)]
    exact pack_mod_four (by decide) _
  have joined := joinWords_unpack 8 (prismWord x)
  rw [show 64 * 8 = prismWidths.sum from rfl, Nat.mod_eq_of_lt (prismWord_lt hx)] at joined
  have major : (unpack prismWidths (prismWord x)).getD 1 0 = 7 := by rw [unpack_prismWord hx]; rfl
  have eight : (encode (.prism x)).length = 8 := by rw [words, length_unpack, List.length_replicate]
  rw [eight] at hpc ⊢
  have first : (encode (.prism x)).getD 0 0 = prismWord x % 2 ^ 64 := rfl
  have all : joinWords ((List.range 8).map fun k => (encode (.prism x)).getD k 0) = prismWord x := joined
  simp only [decode, first, form]
  refine (if_pos hpc).trans ?_
  rw [all]
  refine (if_pos major).trans ?_
  rw [prismOf_prismWord hx]
  exact judge_of_wellFormed hw 64

end prisms

/-! ## What the decoder accepts -/

section accepted
variable {lim : Limits} {i : Instr} {len : Nat}

theorem wellFormed_of_judge {n : Nat} {o : Option Instr} (h : judge lim n o = .ok (i, len)) : WellFormed lim i = true := by
  cases o with
  | none => cases h
  | some k =>
    simp only [judge] at h
    split at h
    case isTrue => cases h
    case isFalse fields =>
      split at h
      case isTrue => cases h
      case isFalse pairing =>
        cases h
        exact wellFormed_iff.mpr ⟨by simpa using fields, by simpa using pairing⟩

theorem wellFormed_of_decodeSW {form w0 w1 : Nat} (h : decodeSW lim form w0 w1 = .ok (i, len)) : WellFormed lim i = true := by
  simp only [decodeSW] at h
  split at h
  · cases h
  split at h
  · split at h
    · cases h
    split at h
    · cases h
    exact wellFormed_of_judge h
  · split at h
    · cases h
    split at h <;> exact wellFormed_of_judge h

/-- What decodes has passed steps 4 and 5 of 05 R112. -/
theorem wellFormed_of_decode {pc : Nat} {ws : List Nat} (h : decode lim pc ws = .ok (i, len)) : WellFormed lim i = true := by
  simp only [decode] at h
  split at h <;> split at h
  case h_1.isTrue | h_2.isTrue => exact wellFormed_of_decodeSW h
  case h_3.isTrue => exact wellFormed_of_judge h
  case h_4.isTrue =>
    split at h
    · exact wellFormed_of_judge h
    · cases h
  all_goals cases h

end accepted

/-! ## The statements about the decoder (O1, O2) -/

theorem eq_ok_iff_toOption {r : Except DecTrap (Instr × Nat)} {q : Instr × Nat} : r = .ok q ↔ r.toOption = some q := by
  cases r with
  | ok p => exact ⟨fun h => by cases h; rfl, fun h => by cases h; rfl⟩
  | error e => exact ⟨nofun, nofun⟩

/-- The trap of an answer of the decoder. -/
def trapOf : Except DecTrap (Instr × Nat) → Option DecTrap
  | .ok _ => none
  | .error e => some e

theorem eq_error_iff_trapOf {r : Except DecTrap (Instr × Nat)} {e : DecTrap} : r = .error e ↔ trapOf r = some e := by
  cases r with
  | ok p => exact ⟨nofun, nofun⟩
  | error k => exact ⟨fun h => by cases h; rfl, fun h => by cases h; rfl⟩

/-- Settles O1: the decoder answers each of the words as listed. -/
theorem decodeWords : Obligations.DecodeWords := by
  refine ⟨?legal, ?literal, ?opcode, ?encoding⟩
  case legal =>
    simp only [eq_ok_iff_toOption]
    decide +kernel
  case literal =>
    rw [eq_ok_iff_toOption]
    decide +kernel
  case opcode =>
    simp only [eq_error_iff_trapOf]
    decide +kernel
  case encoding =>
    simp only [eq_error_iff_trapOf]
    decide +kernel

/-- Settles O2, layout by layout: in each the fields of the packed word are the values packed, and the opcode map names the row that the
table of views gives. -/
theorem decodeOfEncode : Obligations.DecodeOfEncode := by
  intro lim pc i hw hevent hpc
  cases hv : i.view with
  | s maj sub x f => exact decode_row hv hw hpc
  | ctl maj x => exact decode_ctl hv hw hpc
  | prism x =>
    obtain rfl := view_prism hv
    exact decode_prism hw hpc
  | pair x y =>
    obtain rfl := view_pair hv
    exact decode_pair hw hpc
  | event => exact absurd hv hevent

end Sys2Proof
end

section
/-!
SUPPORT. An instruction's way from its words to its step: translation and fetch through what is at hand, a path that nothing holds back,
whose turn it is, and the statement about a step (O6).
-/

namespace Sys2Proof.Machine

open Sys2Proof

/-! ## A path that may issue -/

/-- A path that is on chip, runs, waits for nothing, is in no lookahead window and has nothing outstanding. -/
structure Unhindered (s : State) (r : PathRef) : Prop where
  life : (s.hereAt r).t.life = .running
  mask : (s.hereAt r).p.mask ≠ []
  onChip : (s.hereAt r).p.onChip = true
  eclipse : (s.hereAt r).p.eclipse = none
  wait : (s.hereAt r).p.wait = .none
  parked : (s.hereAt r).p.parked = none
  window : (s.hereAt r).p.window = 0
  pend : (s.hereAt r).p.pend = []
  busy : (s.hereAt r).p.busy = []
  away : (s.hereAt r).p.away = false
  pendTrap : (s.hereAt r).p.pendTrap = none

/-- The line at a path's program counter is at hand through the TLB entry `e`, and no comparator matches. -/
structure LineAtHand (s : State) (r : PathRef) (e : Tlb) : Prop where
  hit : (s.core r.core).tlbHit (s.hereAt r).g.vi (s.hereAt r).p.pc.toNat = some e
  inSpace : (s.hereAt r).p.pc.toNat < 2 ^ 57
  reached : s.unreachable (s.hereAt r).g.vi e.tgt (e.frame + ((s.hereAt r).p.pc.toNat - e.base)) = false
  belowMark : (s.hereAt r).t.overMark (s.hereAt r).p.pc.toNat = false
  cached : (s.cluster (clusterOf r.core)).icache.contains (icKey (s.hereAt r).g.vi (s.hereAt r).p.pc.toNat) = true
  noBreak : s.breakHit r.core (s.hereAt r).g.vi (s.hereAt r).p.pc = none

section issue
variable {s : State} {r : PathRef} {e : Tlb} {i : Instr} {len : Nat}

/-- A translation that the TLB holds (08 R174). -/
theorem translate_of_tlbHit {vi va core : Nat} {t : Team} (hit : (s.core core).tlbHit vi va = some e) (inSpace : va < 2 ^ 57)
    (reached : s.unreachable vi e.tgt (e.frame + (va - e.base)) = false) (belowMark : t.overMark va = false) (noRegs : t.xt = []) :
    s.translate core vi t va false = .ok e.tgt (e.frame + (va - e.base)) e.writable e.base e.size := by
  simp only [State.translate, if_neg (Nat.not_le.mpr inSpace), noRegs, List.find?_nil, hit, belowMark, reached, Bool.false_and,
    Bool.false_eq_true, if_false]

theorem tlbKeep_of_tlbHit {vi va core : Nat} (hit : (s.core core).tlbHit vi va = some e) (a : TRes) : s.tlbKeep core vi va a = s := by
  cases a with
  | ok => simp only [State.tlbKeep, hit, Option.isSome_some, if_true]
  | bad => rfl

theorem LineAtHand.fetch_eq (h : LineAtHand s r e)
    (hd : decode (s.hereAt r).limits (s.hereAt r).p.pc.toNat
      (s.wordsAt (pKey e.tgt (e.frame + ((s.hereAt r).p.pc.toNat - e.base)))) = .ok (i, len)) :
    fetch s r = settle s r i len := by
  have translated := translate_of_tlbHit (t := { (s.hereAt r).t with xt := [] }) h.hit h.inSpace h.reached h.belowMark rfl
  have kept := tlbKeep_of_tlbHit h.hit
  have miss : s.icMiss r (s.hereAt r).g.vi (pKey e.tgt (e.frame + ((s.hereAt r).p.pc.toNat - e.base))) = none := if_pos h.cached
  simp only [fetch, translated, kept, miss, h.noBreak, ite_self, hd]

theorem Unhindered.hazard_eq (h : Unhindered s r) (cycle : Nat) (ns : List RegName) : (s.path r).hazard cycle ns = none := by
  have pend : (s.path r).pend = [] := h.pend
  have busy : (s.path r).busy = [] := h.busy
  simp [Path.hazard, pend, busy]

theorem Unhindered.settle_eq (h : Unhindered s r) (i : Instr) (len : Nat) : settle s r i len = .run i len s := by
  have pendTrap : (s.path r).pendTrap = none := h.pendTrap
  have away : (s.path r).away = false := h.away
  have window : (s.path r).window = 0 := h.window
  simp [settle, h.hazard_eq, pendTrap, away, window]

theorem Unhindered.prepare_eq (h : Unhindered s r) : prepare s r = fetch s r := by
  have life : (s.team r.core r.slot).life = .running := h.life
  have mask : ((s.team r.core r.slot).path r.path).mask ≠ [] := h.mask
  have onChip : ((s.team r.core r.slot).path r.path).onChip = true := h.onChip
  have eclipse : ((s.team r.core r.slot).path r.path).eclipse = none := h.eclipse
  have wait : ((s.team r.core r.slot).path r.path).wait = .none := h.wait
  have parked : (s.path r).parked = none := h.parked
  have fresh : (s.path r).wait.fresh = true := by rw [State.path, wait]; rfl
  simp [prepare, life, mask, onChip, eclipse, wait, fetchOr, parked, fresh]

/-- What comes of an attempt to issue an instruction that goes on to `t`: it is left waiting, traps at issue, or has issued. -/
theorem issueOn_run {t : State} (hp : prepare s r = .run i len s) (hw : (s.path r).wait = .none)
    (he : exec i { s with cur := r } = .next t) (fuel : Nat) :
    issueOn exec r (fuel + 1) s =
      if stalled .none (t.path r).wait then .idle t
      else if trapped s t r then .moved (.next (t.tick exec (.waited r 12)).passTurn)
      else .moved (.next ((t.keepCode r i len).tick exec (.issued r (s.path r).pc)).passTurn) := by
  simp only [issueOn, hp, he, hw, Wait.tries, Bool.not_true, Bool.false_eq_true, if_false]

/-! ## Whose turn it is (log 3, log 4) -/

theorem step_agenda {o : Occ} {rest : List Occ} (hdump : s.dumpHeld = false) (hpower : s.powered = true) (hcyc : s.cyc = none)
    (ha : s.agenda = o :: rest) : step s = occur exec o { s with agenda := rest } := by
  unfold step stepWith
  rw [if_neg (by simp [hdump, hpower])]
  simp only [hcyc, ha]

theorem step_schedule (hdump : s.dumpHeld = false) (hpower : s.powered = true) (hcyc : s.cyc = none) (ha : s.agenda = []) :
    step s = idleStep exec s := by
  unfold step stepWith
  rw [if_neg (by simp [hdump, hpower])]
  simp only [hcyc, ha]

theorem occur_issue_idle {t : State} (h : issueOn exec r 3 s = .idle t) : occur exec (.issue r) s = .next t := by
  simp only [occur, h]

theorem occur_issue_moved {o : Res} (h : issueOn exec r 3 s = .moved o) : occur exec (.issue r) s = o := by
  simp only [occur, h]

/-- The path with the turn goes first. -/
theorem turns_eq_cons (hlive : s.allPaths.contains s.cur = true) (hover : (s.core s.cur.core).t3 ≤ s.time3) :
    ∃ l, s.turns = s.cur :: l := by
  have first : s.cur ∈ s.allPaths.filter fun r => s.cycleOver r.core :=
    List.mem_filter.mpr ⟨List.contains_iff_mem.mp hlive, decide_eq_true hover⟩
  exact ⟨_, if_pos (List.contains_iff_mem.mpr first)⟩

theorem idleStep_moved {o : Res} (htime : s.time3 % 4 ≠ 3) (hlive : s.allPaths.contains s.cur = true)
    (hover : (s.core s.cur.core).t3 ≤ s.time3) (h : issueOn exec s.cur 3 s = .moved o) : idleStep exec s = o := by
  obtain ⟨l, turns⟩ := turns_eq_cons hlive hover
  simp only [idleStep, if_neg htime, turns, firstTurn, h]

end issue

/-- Settles O6: the line is fetched and decoded, nothing holds the path back, and the attempt is the step, whether the agenda or the
schedule gives the path its turn. -/
theorem stepRunsDecoded : Obligations.StepRunsDecoded := by
  intro s r rest e i len h pc pa hdump hpower hcyc turn life mask onChip eclipse wait parked window pend busy away pendTrap
    hit inSpace reached belowMark cached noBreak hd
  have unhindered : Unhindered { s with agenda := rest } r :=
    ⟨life, mask, onChip, eclipse, wait, parked, window, pend, busy, away, pendTrap⟩
  have line : LineAtHand { s with agenda := rest } r e := ⟨hit, inSpace, reached, belowMark, cached, noBreak⟩
  have prepared : prepare { s with agenda := rest } r = .run i len { s with agenda := rest } :=
    unhindered.prepare_eq.trans ((line.fetch_eq hd).trans (unhindered.settle_eq i len))
  have attempt {t : State} (he : exec i { s with agenda := rest, cur := r } = .next t) := issueOn_run prepared wait he 2
  have moved {o : Res} (ho : issueOn exec r 3 { s with agenda := rest } = .moved o) : step s = o := by
    rcases turn with ha | ⟨ha, rfl, htime, rfl, hlive, hover⟩
    · exact (step_agenda hdump hpower hcyc ha).trans (occur_issue_moved ho)
    · rw [← ha] at ho
      exact (step_schedule hdump hpower hcyc ha).trans (idleStep_moved htime hlive hover ho)
  refine ⟨wellFormed_of_decode hd, fun t he hs ht => ?issued, fun t he hs ht => ?traps, fun t he hs ha => ?waits⟩
  case issued =>
    refine moved ((attempt he).trans ?_)
    rw [hs, show trapped { s with agenda := rest } t r = false from ht]
    rfl
  case traps =>
    refine moved ((attempt he).trans ?_)
    rw [hs, show trapped { s with agenda := rest } t r = true from ht]
    rfl
  case waits =>
    have named : s.agenda = .issue r :: rest := turn.resolve_right fun idle => ha idle.1
    refine (step_agenda hdump hpower hcyc named).trans (occur_issue_idle ((attempt he).trans ?_))
    rw [hs]
    rfl

end Sys2Proof.Machine
end

section
/-!
SUPPORT. The W-pair: what a sub-operation wrote is read back beside the other's writes, its S form writes the same, and the statement
about pairs (O22).
-/

namespace Sys2Proof.Machine

open Sys2Proof

/-! ## Reading back what a sub-operation wrote -/

section team
variable (t : Team)

/-- Lanes written keep the registers of other numbers. -/
theorem Team.vget_vputs_other {r q : Nat} (h : r ≠ q) {l : Nat} (hl : l < 1024) {w : List (Nat × Word)} (hw : ∀ p ∈ w, p.1 < 1024) :
    (t.vputs r w).vget q l = t.vget q l :=
  Team.vregs_vputs r _ w t fun p hp heq => by have := hw p hp; omega

theorem Team.pred_setPred_other {n m : Nat} (h : n ≠ m) {k l : Nat} (hk : k < 1024) (hl : l < 1024) (b : Bool) :
    (t.setPred n k b).pred m l = t.pred m l := by
  unfold Team.setPred
  split
  · rfl
  · have apart : n * 1024 + k ≠ m * 1024 + l := by omega
    simp only [Team.pred, sget_sput_other _ _ _ apart]

theorem Team.pred_setPreds_other {n m : Nat} (h : n ≠ m) {l : Nat} (hl : l < 1024) {w : List (Nat × Bool)}
    (hw : ∀ p ∈ w, p.1 < 1024) : (t.setPreds n w).pred m l = t.pred m l := by
  unfold Team.setPreds
  induction w generalizing t with
  | nil => rfl
  | cons a w ih =>
    rw [List.foldl_cons, ih _ fun p hp => hw p (List.mem_cons_of_mem a hp)]
    exact t.pred_setPred_other h (hw a List.mem_cons_self) hl a.2

@[simp] theorem Team.vget_ffOrs (q : List (Nat × Flags)) (r l : Nat) : (t.ffOrs q).vget r l = t.vget r l := by
  rw [Team.ffOrs_eq]; rfl
@[simp] theorem Team.pred_ffOrs (q : List (Nat × Flags)) (n l : Nat) : (t.ffOrs q).pred n l = t.pred n l := by
  rw [Team.ffOrs_eq]; rfl
@[simp] theorem Team.vget_setPreds (n : Nat) (q : List (Nat × Bool)) (r l : Nat) : (t.setPreds n q).vget r l = t.vget r l := by
  rw [Team.setPreds_eq]; rfl
@[simp] theorem Team.ffGet_setPreds (n : Nat) (q : List (Nat × Bool)) (l : Nat) : (t.setPreds n q).ffGet l = t.ffGet l := by
  rw [Team.setPreds_eq]; rfl
@[simp] theorem Team.pred_vresults (d : Nat) (q : List (Nat × Nat × Flags)) (n l : Nat) : (t.vresults d q).pred n l = t.pred n l := by
  rw [Team.vresults, Team.pred_ffOrs, Team.vputs_eq]; rfl

theorem Team.SameRun.ffOrs {t u : Team} (h : t.SameRun u) (q : List (Nat × Flags)) : t.SameRun (u.ffOrs q) := by
  rw [Team.ffOrs_eq]; exact ⟨h.paths, h.issued, h.passes⟩

/-- What a sub-operation writes: a vector register, or a predicate for a compare. -/
theorem Team.subWrite_of_ne_cmp {o : SubOp} (ho : o.op ≠ .cmp) (q : List (Nat × Nat × Flags)) : t.subWrite o q = t.vresults o.d q :=
  if_neg ho

theorem Team.subWrite_of_cmp {o : SubOp} (ho : o.op = .cmp) (f : Nat → Nat × Flags) (e : Mask) :
    t.subWrite o (e.map fun l => (l, f l)) =
      (t.setPreds o.d (e.map fun l => (l, (f l).1 == 1))).ffOrs (e.map fun l => (l, (f l).2)) := by
  rw [Team.subWrite, if_pos ho, List.map_map, List.map_map]; rfl

section write
variable {o : SubOp} {f : Nat → Nat × Flags} {e : Mask} {l : Nat}

theorem Team.vget_subWrite (ho : o.op ≠ .cmp) (hl : l ∈ e) :
    (t.subWrite o (e.map fun l => (l, f l))).vget o.d l = BitVec.ofNat 32 (f l).1 := by
  rw [Team.subWrite_of_ne_cmp t ho, Team.vget_vresults, if_pos hl]

theorem Team.pred_subWrite (ho : o.op = .cmp) (hl : l ∈ e) :
    (t.subWrite o (e.map fun l => (l, f l))).pred o.d l = (o.d == 7 || (f l).1 == 1) := by
  rw [Team.subWrite_of_cmp t ho, Team.pred_ffOrs]
  by_cases h7 : o.d = 7
  · rw [h7]; rfl
  · rw [Team.pred_setPreds t (fun l => (f l).1 == 1) h7, if_pos hl, beq_false_of_ne h7, Bool.false_or]

theorem Team.ffGet_subWrite (hl : l ∈ e) : (t.subWrite o (e.map fun l => (l, f l))).ffGet l = t.ffGet l ||| (f l).2 := by
  by_cases ho : o.op = .cmp
  · rw [Team.subWrite_of_cmp t ho, Team.ffGet_ffOrs _ (fun l => (f l).2), if_pos hl, Team.ffGet_setPreds]
  · rw [Team.subWrite_of_ne_cmp t ho, Team.ffGet_vresults, if_pos hl]

theorem Team.vget_subWrite_other {d : Nat} (ho : o.op ≠ .cmp → o.d ≠ d) (he : ∀ l ∈ e, l < 1024) (hl : l ∈ e) :
    (t.subWrite o (e.map fun l => (l, f l))).vget d l = t.vget d l := by
  by_cases hc : o.op = .cmp
  · rw [Team.subWrite_of_cmp t hc, Team.vget_ffOrs, Team.vget_setPreds]
  · rw [Team.subWrite_of_ne_cmp t hc, Team.vresults, Team.vget_ffOrs]
    exact t.vget_vputs_other (ho hc) (he l hl) (by simpa using he)

theorem Team.pred_subWrite_other {d : Nat} (ho : o.op = .cmp → o.d ≠ d) (he : ∀ l ∈ e, l < 1024) (hl : l ∈ e) :
    (t.subWrite o (e.map fun l => (l, f l))).pred d l = t.pred d l := by
  by_cases hc : o.op = .cmp
  · rw [Team.subWrite_of_cmp t hc, Team.pred_ffOrs]
    exact t.pred_setPreds_other (ho hc) (he l hl) (by simpa using he)
  · rw [Team.subWrite_of_ne_cmp t hc, Team.pred_vresults]

end write

theorem Team.SameRun.subWrite {t u : Team} (h : t.SameRun u) (o : SubOp) (q : List (Nat × Nat × Flags)) : t.SameRun (u.subWrite o q) := by
  unfold Team.subWrite
  split
  · exact (h.setPreds ..).ffOrs _
  · have step := Team.SameRun.vresults u o.d q
    exact ⟨step.paths.trans h.paths, step.issued.trans h.issued, step.passes.trans h.passes⟩

/-- The `%amax` updates change `%amax` only. -/
theorem Team.subAmax_eq (h : Here) (o : SubOp) : t.subAmax h o = { t with amax := (t.subAmax h o).amax } := by
  unfold Team.subAmax
  split
  · exact foldl_holds (fun (t : Team) l => t.amaxOf o.ty2 (h.pairSrc o.ka o.a l)) (fun u => u = { t with amax := u.amax })
      (fun u l hu => congrArg (fun v : Team => { v with amax := (u.amaxOf o.ty2 (h.pairSrc o.ka o.a l)).amax }) hu) _ t rfl
  · rfl

end team

/-! ## The pair -/

/-- The team that a pair leaves, but for `%amax`. -/
def Here.pairWrite (h : Here) (x y : SubOp) : Team :=
  (h.t.subWrite x (h.p.mask.map fun l => (l, h.subVal x l))).subWrite y (h.p.mask.map fun l => (l, h.subVal y l))

section pair
variable {s : State} {x y : SubOp} (hl : s.live)
include hl

theorem wPair_runs (hc : s.here.clean s.here.p.mask (x.vsources ++ y.vsources) (subSsources x ++ subSsources y)) :
    Runs (.wPair x y) s fun t => Landed s t (((s.here.pairWrite x y).subAmax s.here x).subAmax s.here y) 16
      (2 * passesOf s.here.p.mask) := by
  refine Runs.of_clean hl (u := fun h => ((h.pairWrite x y).subAmax h x).subAmax h y) (e := fun h => h.p.mask)
    (n := fun h => 2 * passesOf h.p.mask) rfl hc ?_
  have start : s.here.t.SameRun s.here.t := ⟨rfl, rfl, rfl⟩
  have written : s.here.t.SameRun (s.here.pairWrite x y) := (start.subWrite ..).subWrite ..
  rw [Team.subAmax_eq, Team.subAmax_eq]
  exact ⟨written.paths, written.issued, written.passes⟩

end pair

/-- The sub-operation reads vector registers only: it has an S form of the same operands. -/
structure ReadsVectors (o : SubOp) : Prop where
  a : o.ka = false
  b : o.kb = false
  c : o.kc = false

/-- In `t` the lanes of the issuing path hold the results of a sub-operation on the registers of `s`. -/
structure HoldsResult (s t : State) (o : SubOp) : Prop where
  value : o.op ≠ .cmp → ∀ l ∈ s.here.p.mask, t.here.t.vget o.d l = BitVec.ofNat 32 (s.here.subVal o l).1
  pred : o.op = .cmp → ∀ l ∈ s.here.p.mask, t.here.t.pred o.d l = (o.d == 7 || (s.here.subVal o l).1 == 1)

section lands
variable {s t : State} {len n : Nat}

/-- What is read of a pair's team is what the two writes left. -/
theorem pairWrite_holds {x y : SubOp} (h : Landed s t (((s.here.pairWrite x y).subAmax s.here x).subAmax s.here y) len n)
    (apart : (x.op = .cmp ↔ y.op = .cmp) → y.d ≠ x.d) (he : ∀ l ∈ s.here.p.mask, l < 1024) :
    HoldsResult s t x ∧ HoldsResult s t y ∧ ∀ l ∈ s.here.p.mask,
      t.here.t.ffGet l = s.here.t.ffGet l ||| (s.here.subVal x l).2 ||| (s.here.subVal y l).2 := by
  have vget (r l : Nat) : t.here.t.vget r l = (s.here.pairWrite x y).vget r l := by
    rw [h.vget, Team.subAmax_eq, Team.subAmax_eq]; rfl
  have pred (r l : Nat) : t.here.t.pred r l = (s.here.pairWrite x y).pred r l := by
    rw [h.pred, Team.subAmax_eq, Team.subAmax_eq]; rfl
  have ffGet (l : Nat) : t.here.t.ffGet l = (s.here.pairWrite x y).ffGet l := by
    rw [h.ffGet, Team.subAmax_eq, Team.subAmax_eq]; rfl
  refine ⟨⟨fun ho l hl => ?vx, fun ho l hl => ?px⟩, ⟨fun ho l hl => ?vy, fun ho l hl => ?py⟩, fun l hl => ?flags⟩
  case vx => rw [vget, Here.pairWrite, Team.vget_subWrite_other _ (fun hy => apart (by simp [ho, hy])) he hl, Team.vget_subWrite _ ho hl]
  case px => rw [pred, Here.pairWrite, Team.pred_subWrite_other _ (fun hy => apart (by simp [ho, hy])) he hl, Team.pred_subWrite _ ho hl]
  case vy => rw [vget, Here.pairWrite, Team.vget_subWrite _ ho hl]
  case py => rw [pred, Here.pairWrite, Team.pred_subWrite _ ho hl]
  case flags => rw [ffGet, Here.pairWrite, Team.ffGet_subWrite _ hl, Team.ffGet_subWrite _ hl]

/-- So is what is read of the team of a single sub-operation. -/
theorem subWrite_holds {o : SubOp} (h : Landed s t (s.here.t.subWrite o (s.here.p.mask.map fun l => (l, s.here.subVal o l))) len n) :
    HoldsResult s t o ∧ ∀ l ∈ s.here.p.mask, t.here.t.ffGet l = s.here.t.ffGet l ||| (s.here.subVal o l).2 := by
  refine ⟨⟨fun ho l hl => ?value, fun ho l hl => ?pred⟩, fun l hl => ?flags⟩
  case value => rw [h.vget, Team.vget_subWrite _ ho hl]
  case pred => rw [h.pred, Team.pred_subWrite _ ho hl]
  case flags => rw [h.ffGet, Team.ffGet_subWrite _ hl]

end lands

/-! ## A sub-operation as its S form (04 R94) -/

/-- The lanes that execute under no guard are all active ones. -/
@[simp] theorem Here.execLanes_always (h : Here) : h.execLanes ⟨false, 7⟩ = h.p.mask :=
  List.filter_eq_self.mpr fun _ _ => rfl

/-- The team that the S form of a conversion writes, lane by lane. -/
def Here.cvtWrite (h : Here) (o : SubOp) : Team :=
  h.p.mask.foldl (fun t l => ((t.amaxOf o.ty2 (h.t.vget o.a l).toNat).vput o.d l (BitVec.ofNat 32 (h.subVal o l).1)).ffOr l
    (h.subVal o l).2) h.t

section cvt
variable (h : Here) (o : SubOp) {l : Nat}

theorem Here.vget_cvtWrite (hl : l ∈ h.p.mask) : (h.cvtWrite o).vget o.d l = BitVec.ofNat 32 (h.subVal o l).1 := by
  refine (foldl_lanes (g := fun t : Team => t.vget o.d l) (upd := fun _ => BitVec.ofNat 32 (h.subVal o l).1) (fun t m => ?_)
    (fun _ => rfl) h.p.mask h.t).trans (if_pos hl)
  rw [Team.ffOr_eq]
  by_cases hm : m = l
  · subst hm
    rw [if_pos rfl]
    exact Team.vget_vput ..
  · rw [if_neg hm]
    exact Team.vget_vput_lane _ _ _ hm

theorem Here.ffGet_cvtWrite (hl : l ∈ h.p.mask) : (h.cvtWrite o).ffGet l = h.t.ffGet l ||| (h.subVal o l).2 := by
  refine (foldl_lanes (g := fun t : Team => t.ffGet l) (upd := (· ||| (h.subVal o l).2)) (fun t m => ?_)
    (fun b => by rw [BitVec.or_assoc, BitVec.or_self]) h.p.mask h.t).trans (if_pos hl)
  rw [Team.ffGet_ffOr]
  by_cases hm : m = l
  · subst hm
    rw [if_pos rfl, if_pos rfl]
    rfl
  · rw [if_neg hm, if_neg hm]
    rfl

theorem Here.sameRun_cvtWrite : h.t.SameRun (h.cvtWrite o) := by
  refine foldl_holds _ h.t.SameRun (fun t l ht => ?_) h.p.mask h.t ⟨rfl, rfl, rfl⟩
  rw [Team.ffOr_eq]
  exact ⟨ht.paths, ht.issued, ht.passes⟩

end cvt

/-- A vector instruction without guard and literal. -/
theorem vectorOp_always {x : Args} (hg : x.guard = ⟨false, 7⟩) (hx : x.lit = none) (s : State) (srcs : List (LSel × Nat))
    (f : Here → Nat → Nat × Flags) : vectorOp x s srcs f = onPath s fun h => needClean s h 8 h.p.mask (srcs.map (·.2)) []
      (.next ((s.putTeam h (h.t.vresults x.d (h.p.mask.map fun l => (l, f h l)))).finish h.r 8 (passesOf h.p.mask))) := by
  have regs : readRegs x srcs = srcs.map (·.2) := by simp [readRegs, litFor, hx]
  have len : argsLen x = 8 := by rw [argsLen, hx]; rfl
  simp only [vectorOp, hg, Here.execLanes_always, regs, len]

section single
variable {o : SubOp} (hv : ReadsVectors o)
include hv

/-- But for compares and conversions the S form is a vector instruction with the same result in every lane. -/
theorem exec_asSingle_vectorOp (hcmp : o.op ≠ .cmp) (hcvt : o.op ≠ .cvt) (s : State) :
    ∃ srcs, srcs.map (·.2) = o.vsources ∧ exec (Spec.asSingle o) s =
      vectorOp ⟨⟨false, 7⟩, o.d, o.a, o.b, o.c, o.ty, 0, 0, none⟩ s srcs fun h l => h.subVal o l := by
  obtain ⟨op, ty, ty2, cond, kc, kb, ka, d, a, b, c⟩ := o
  obtain ⟨rfl, rfl, rfl⟩ := hv
  cases op
  case cmp => exact absurd rfl hcmp
  case cvt => exact absurd rfl hcvt
  all_goals exact ⟨_, rfl, rfl⟩

theorem exec_asSingle_cmp (ho : o.op = .cmp) (s : State) : exec (Spec.asSingle o) s = onPath s fun h =>
    needClean s h 8 h.p.mask o.vsources [] (.next ((s.putTeam h
      (h.t.subWrite o (h.p.mask.map fun l => (l, h.subVal o l)))).finish h.r 8 (passesOf h.p.mask))) := by
  obtain ⟨op, ty, ty2, cond, kc, kb, ka, d, a, b, c⟩ := o
  obtain ⟨rfl, rfl, rfl⟩ := hv
  obtain rfl := ho
  refine (show exec _ s = execVcmp _ _ s from rfl).trans ?_
  unfold execVcmp
  refine congrArg (onPath s) (funext fun h => ?_)
  rw [Team.subWrite_of_cmp h.t rfl]
  simp only [Here.execLanes_always, List.map_map, Here.subVal, if_true, bit_beq_one]
  rfl

theorem exec_asSingle_cvt (ho : o.op = .cvt) (s : State) : exec (Spec.asSingle o) s = onPath s fun h =>
    needClean s h 8 h.p.mask o.vsources [] (.next ((s.putTeam h (h.cvtWrite o)).finish h.r 8 (passesOf h.p.mask))) := by
  obtain ⟨op, ty, ty2, cond, kc, kb, ka, d, a, b, c⟩ := o
  obtain ⟨rfl, rfl, rfl⟩ := hv
  obtain rfl := ho
  refine (show exec _ s = execVcvt _ s from rfl).trans ?_
  unfold execVcvt
  refine congrArg (onPath s) (funext fun h => ?_)
  simp only [Here.execLanes_always, Ty.ofCode_code]
  rfl

/-- The S form of a sub-operation gives every lane the result and the flags of the sub-operation. -/
theorem asSingle_runs {s : State} (hl : s.live) (hc : s.here.clean s.here.p.mask o.vsources []) :
    Runs (Spec.asSingle o) s fun t => HoldsResult s t o ∧
      ∀ l ∈ s.here.p.mask, t.here.t.ffGet l = s.here.t.ffGet l ||| (s.here.subVal o l).2 := by
  have sub : s.here.t.SameRun (s.here.t.subWrite o (s.here.p.mask.map fun l => (l, s.here.subVal o l))) :=
    Team.SameRun.subWrite ⟨rfl, rfl, rfl⟩ ..
  by_cases hcmp : o.op = .cmp
  · exact (Runs.of_clean (e := fun h => h.p.mask) hl (exec_asSingle_cmp hv hcmp s) hc sub).mono fun t h => subWrite_holds h
  by_cases hcvt : o.op = .cvt
  · refine (Runs.of_clean (e := fun h => h.p.mask) hl (exec_asSingle_cvt hv hcvt s) hc (s.here.sameRun_cvtWrite o)).mono fun t h => ?_
    refine ⟨⟨fun _ l hm => ?value, fun ho => absurd ho hcmp⟩, fun l hm => ?flags⟩
    case value => rw [h.vget, Here.vget_cvtWrite _ _ hm]
    case flags => rw [h.ffGet, Here.ffGet_cvtWrite _ _ hm]
  · obtain ⟨srcs, regs, run⟩ := exec_asSingle_vectorOp hv hcmp hcvt s
    rw [vectorOp_always rfl rfl, regs] at run
    refine (Runs.of_clean (e := fun h => h.p.mask) hl run hc (Team.SameRun.vresults ..)).mono fun t h => ?_
    replace h : Landed s t (s.here.t.vresults o.d _) 8 _ := h
    rw [← Team.subWrite_of_ne_cmp _ hcmp] at h
    exact subWrite_holds h

end single

/-! ## The statement about pairs (O22) -/

theorem Here.clean_of_subset {h : Here} {e : Mask} {vs ws ss : List Nat} (hvs : ∀ r ∈ vs, r ∈ ws) (hc : h.clean e ws ss) :
    h.clean e vs ss := by
  refine ⟨List.filter_eq_nil_iff.mpr fun l hl hp => ?_, hc.2⟩
  refine List.filter_eq_nil_iff.mp hc.1 l hl ?_
  obtain ⟨r, hr, hb⟩ := List.any_eq_true.mp hp
  exact List.any_eq_true.mpr ⟨r, hvs r hr, hb⟩

/-- The pairing rules keep the destinations of a pair apart where both are vector registers or both predicates (04 R95). -/
theorem dest_ne_of_pairOk {x y : SubOp} (h : pairOk x y = true) (same : x.op = .cmp ↔ y.op = .cmp) : y.d ≠ x.d := by
  simp only [pairOk, Bool.and_eq_true, Bool.or_eq_true, and_assoc, beq_iff_eq, bne_iff_ne] at h
  obtain ⟨-, -, banks, compares, -⟩ := h
  intro heq
  by_cases hx : x.op = .cmp
  · have hy := same.mp hx
    simp [hx, hy, heq] at compares
  · have hy := mt same.mpr hx
    simp [hx, hy, heq] at banks

/-- Flags set beside two kinds of flags are set once. -/
theorem flags_or_or (f a b : Flags) : f ||| a ||| b = (f ||| a) ||| (f ||| b) := by
  rw [← BitVec.or_assoc, BitVec.or_comm (f ||| a) f, ← BitVec.or_assoc f f a, BitVec.or_self]

/-- Settles O22: a pair and its S forms write one result for each sub-operation, that of the registers before them. -/
theorem pairIsTwoSingles : Obligations.PairIsTwoSingles := by
  intro s x y hl he hw h
  have apart := dest_ne_of_pairOk (wellFormed_iff.mp hw).2
  refine ⟨fun hc => (wPair_runs hl hc).mono fun t ht => ht.completed, fun hc xa xb xc ya yb yc => ?_⟩
  have hx : ReadsVectors x := ⟨xa, xb, xc⟩
  have hy : ReadsVectors y := ⟨ya, yb, yc⟩
  have scalars : subSsources x ++ subSsources y = [] := by simp [subSsources, xa, xb, xc, ya, yb, yc]
  have singleX := asSingle_runs hx hl (Here.clean_of_subset (fun r => List.mem_append_left _) hc)
  have singleY := asSingle_runs hy hl (Here.clean_of_subset (fun r => List.mem_append_right _) hc)
  refine (wPair_runs hl (scalars ▸ hc)).mono fun t ht => singleX.mono fun u hu => singleY.mono fun w hw l hm => ?_
  obtain ⟨tx, ty, tf⟩ := pairWrite_holds ht apart he
  obtain ⟨ux, uf⟩ := hu
  obtain ⟨wy, wf⟩ := hw
  refine ⟨fun ho => ?vx, fun ho => ?vy, fun ho => ?px, fun ho => ?py, ?flags⟩
  case vx => rw [tx.value ho l hm, ux.value ho l hm]
  case vy => rw [ty.value ho l hm, wy.value ho l hm]
  case px => rw [tx.pred ho l hm, ux.pred ho l hm]
  case py => rw [ty.pred ho l hm, wy.pred ho l hm]
  case flags => rw [tf l hm, uf l hm, wf l hm, flags_or_or]

end Sys2Proof.Machine
end

section
/-!
SUPPORT. From an answer of the decoder back to the words: fields taken out of a word and packed again give the word, a code that names
something is the code of what it names, the opcode map answers with a row of the table of views, and the statement about what decodes (O3).
-/

namespace Sys2Proof

/-! ## Packing the fields of a word -/

/-- Values that are all the fields of a word pack to that word. -/
theorem pack_eq_of_unpack {l : List (Nat × Nat)} {x : Nat} (hx : x < 2 ^ (l.map Prod.fst).sum)
    (h : unpack (l.map Prod.fst) x = l.map Prod.snd) : pack l = x := by
  induction l generalizing x with
  | nil => exact (Nat.lt_one_iff.mp hx).symm
  | cons q l ih =>
    simp only [List.map_cons, unpack, List.cons.injEq] at h
    obtain ⟨low, high⟩ := h
    rw [List.map_cons, List.sum_cons, Nat.pow_add] at hx
    rw [pack, ih (Nat.div_lt_of_lt_mul hx) high, ← low, Nat.mod_add_div]

/-- Every field lies in its width. -/
theorem getD_unpack_lt (ws : List Nat) (x k : Nat) : (unpack ws x).getD k 0 < 2 ^ ws.getD k 0 := by
  induction ws generalizing x k with
  | nil => exact Nat.one_pos
  | cons w ws ih =>
    cases k with
    | zero => exact Nat.mod_lt x (Nat.two_pow_pos w)
    | succ k => exact ih (x / 2 ^ w) k

/-- Words that were joined are the 64-bit fields of what they make. -/
theorem unpack_joinWords {ws : List Nat} (h : ∀ w ∈ ws, w < 2 ^ 64) : unpack (List.replicate ws.length 64) (joinWords ws) = ws := by
  have fields := unpack_pack (fits_map.mpr h)
  rwa [List.map_map, List.map_map, show ws.map (Prod.fst ∘ fun w => (64, w)) = List.replicate ws.length 64 from List.map_const' ..,
    show ws.map (Prod.snd ∘ fun w => (64, w)) = ws from List.map_id _] at fields

theorem joinWords_lt {ws : List Nat} (h : ∀ w ∈ ws, w < 2 ^ 64) : joinWords ws < 2 ^ (ws.length * 64) := by
  have whole := pack_lt (fits_map.mpr h)
  rwa [List.map_map, show ws.map (Prod.fst ∘ fun w => (64, w)) = List.replicate ws.length 64 from List.map_const' ..,
    List.sum_replicate_nat] at whole

/-- The form bits of joined words are those of the first. -/
theorem joinWords_mod_four (w : Nat) (ws : List Nat) : joinWords (w :: ws) % 2 ^ 2 = w % 4 := by
  rw [joinWords, List.map_cons, pack]; omega

/-! ## Codes -/

/-- An entry of a list in the order of its codes has its place as its code. -/
theorem code_of_getElem? {α : Type} {code : α → Nat} {l : List α} (hl : l.map code = List.range l.length) {n : Nat} {a : α}
    (h : l[n]? = some a) : code a = n := by
  obtain ⟨hn, rfl⟩ := List.getElem?_eq_some_iff.mp h
  have place := List.getElem_map code (h := by rwa [List.length_map])
  simp only [hl, List.getElem_range] at place
  exact place.symm

section codes
variable {n : Nat}

theorem Cond.code_of_ofCode {c : Cond} (h : Cond.ofCode n = some c) : c.code = n := code_of_getElem? rfl h
theorem RedOp.code_of_ofCode {o : RedOp} (h : RedOp.ofCode n = some o) : o.code = n := code_of_getElem? rfl h
theorem AtomOp.code_of_ofCode {o : AtomOp} (h : AtomOp.ofCode n = some o) : o.code = n := code_of_getElem? rfl h
theorem Order.code_of_ofCode {o : Order} (h : Order.ofCode n = some o) : o.code = n := code_of_getElem? rfl h
theorem PoolMode.code_of_ofCode {m : PoolMode} (h : PoolMode.ofCode n = some m) : m.code = n := code_of_getElem? rfl h
theorem CollRed.code_of_ofCode {r : CollRed} (h : CollRed.ofCode n = some r) : r.code = n := code_of_getElem? rfl h
theorem FcMode.code_of_ofCode {m : FcMode} (h : FcMode.ofCode n = some m) : m.code = n := code_of_getElem? rfl h
theorem LSel.code_of_ofCode {k : LSel} (h : LSel.ofCode n = some k) : k.code = n := code_of_getElem? rfl h
theorem ArcOp.code_of_ofCode {o : ArcOp} (h : ArcOp.ofCode n = some o) : o.code = n := code_of_getElem? rfl h
theorem testTyCode_of_testTyOf {t : Ty} (h : testTyOf n = some t) : testTyCode t = n := code_of_getElem? rfl h

/-- The list of the pair operations has no operation at 0. -/
theorem PairOp.code_of_ofCode {o : PairOp} (h : PairOp.ofCode n = some o) : o.code = n := by
  rw [PairOp.ofCode, List.getD_eq_getElem?_getD, Option.getD_eq_iff] at h
  obtain h | ⟨-, h⟩ := h
  · exact code_of_getElem? (code := fun o => o.elim 0 PairOp.code) rfl h
  · cases h

theorem Ty.code_ofCode (h : n < 2 ^ 4) : (Ty.ofCode n).code = n := by
  have all : ∀ n < 2 ^ 4, (Ty.ofCode n).code = n := by decide
  exact all n h

theorem Guard.code_guardOf (h : n < 2 ^ 4) : (guardOf n).code = n := by
  have all : ∀ n < 2 ^ 4, (guardOf n).code = n := by decide
  exact all n h

theorem bit_of_lt (h : n < 2 ^ 1) : bit (n == 1) = n := by
  have all : ∀ n < 2 ^ 1, bit (n == 1) = n := by decide
  exact all n h

end codes

/-! ## The opcode map against the table of views -/

section need
variable {α β : Type} {e : DecTrap} {o : Option α} {b : β}

theorem need_eq_ok {a : α} : need e o = .ok a ↔ o = some a := by
  cases o <;> simp [need]

theorem need_map_eq_ok {f : α → β} : (need e o).map f = .ok b ↔ ∃ a, o = some a ∧ f a = b := by
  cases o <;> simp [need, Except.map]

theorem need_bind_eq_ok {f : α → Except DecTrap β} : (need e o >>= f) = .ok b ↔ ∃ a, o = some a ∧ f a = .ok b := by
  cases o <;> simp [need, bind, Except.bind]

end need

theorem ite_error_eq_ok {α : Type} {e : DecTrap} {c : Prop} [Decidable c] {r : Except DecTrap α} {a : α} :
    (if c then r else .error e) = .ok a ↔ c ∧ r = .ok a := by
  by_cases hc : c <;> simp [hc]

theorem mem_of_lookup {α : Type} {l : List (Nat × α)} {n : Nat} {a : α} (h : l.lookup n = some a) : (n, a) ∈ l := by
  obtain ⟨before, after, rfl, -⟩ := List.lookup_eq_some_iff.mp h
  exact List.mem_append_right _ List.mem_cons_self

/-- The row of the table of views that a constructor makes has this major and SUB. -/
def Names (maj sub : Nat) (k : Args → Instr) : Prop := ∀ x, ∃ f, (k x).view = .s maj sub x f

theorem names_plainMajors : ∀ p ∈ plainMajors, Names p.1 0 p.2 := by
  simp only [plainMajors, List.forall_mem_cons, List.not_mem_nil, false_implies, implies_true, and_true]
  and_intros
  all_goals exact fun x => ⟨_, rfl⟩

theorem view_of_ctlMajors : ∀ p ∈ ctlMajors, ∀ x, (p.2 x).view = .ctl p.1 x := by
  simp only [ctlMajors, List.forall_mem_cons, List.not_mem_nil, false_implies, implies_true, and_true]
  and_intros
  all_goals exact fun x => rfl

/-- A reduction's SUB is made of the team bit and the operation (05 R110). -/
theorem teamBit_add_code {sub : Nat} {op : RedOp} (hsub : sub < 2 ^ 6) (bit14 : sub / 16 % 2 = 0)
    (hop : RedOp.ofCode (sub % 16) = some op) : teamBit (sub / 32 == 1) + op.code = sub := by
  rw [RedOp.code_of_ofCode hop, teamBit]
  simp only [beq_iff_eq]
  split <;> omega

/-- An atomic's SUB is made of the operation and the order (05 R110). -/
theorem atom_code_add_code {sub : Nat} {op : AtomOp} {o : Order} (hop : AtomOp.ofCode (sub / 4) = some op)
    (ho : Order.ofCode (sub % 4) = some o) : 4 * op.code + o.code = sub := by
  rw [AtomOp.code_of_ofCode hop, Order.code_of_ofCode ho, Nat.div_add_mod]

theorem Names.of_eq {maj n sub : Nat} {k : Args → Instr} (h : n = sub) (hk : Names maj n k) : Names maj sub k := h ▸ hk

/-- What a major and SUB name has them in the table of views: no SUB is passed over (05 R109 to R111). -/
theorem names_of_ctorOf {maj sub : Nat} {k : Args → Instr} (hsub : sub < 2 ^ 6) (h : ctorOf maj sub = .ok k) : Names maj sub k := by
  unfold ctorOf at h
  split at h
  case h_1 | h_2 => -- scmp, vcmp
    obtain ⟨-, h⟩ := ite_error_eq_ok.mp h
    obtain ⟨c, hc, rfl⟩ := need_map_eq_ok.mp h
    exact .of_eq (Cond.code_of_ofCode hc) fun x => ⟨_, rfl⟩
  case h_3 | h_4 => -- vred, vscan
    obtain ⟨bit14, h⟩ := ite_error_eq_ok.mp h
    obtain ⟨op, hop, rfl⟩ := need_map_eq_ok.mp h
    exact .of_eq (teamBit_add_code hsub bit14 hop) fun x => ⟨_, rfl⟩
  case h_6 | h_7 => -- atom, atoms
    obtain ⟨op, hop, h⟩ := need_bind_eq_ok.mp h
    obtain ⟨o, ho, ⟨⟩⟩ := need_bind_eq_ok.mp h
    exact .of_eq (atom_code_add_code hop ho) fun x => ⟨_, rfl⟩
  case h_8 => -- ratom
    obtain ⟨op, hop, h⟩ := need_bind_eq_ok.mp h
    obtain ⟨o, ho, h⟩ := need_bind_eq_ok.mp h
    split at h <;> cases h
    exact .of_eq (atom_code_add_code hop ho) fun x => ⟨_, rfl⟩
  case h_9 => -- fence
    obtain ⟨-, h⟩ := ite_error_eq_ok.mp h
    obtain ⟨o, ho, rfl⟩ := need_map_eq_ok.mp h
    exact .of_eq (Order.code_of_ofCode ho) fun x => ⟨_, rfl⟩
  case h_11 => -- gpool
    obtain ⟨-, h⟩ := ite_error_eq_ok.mp h
    obtain ⟨m, hm, rfl⟩ := need_map_eq_ok.mp h
    exact .of_eq (PoolMode.code_of_ofCode hm) fun x => ⟨_, rfl⟩
  case h_14 => -- fctake
    obtain ⟨-, h⟩ := ite_error_eq_ok.mp h
    obtain ⟨m, hm, rfl⟩ := need_map_eq_ok.mp h
    exact .of_eq (FcMode.code_of_ofCode hm) fun x => ⟨_, rfl⟩
  case h_5 | h_10 | h_13 => -- vballot, cpy, lastag
    split at h
    case isTrue zero =>
      cases h
      exact .of_eq zero.symm fun x => ⟨_, rfl⟩
    case isFalse =>
      obtain ⟨second, ⟨⟩⟩ := ite_error_eq_ok.mp h
      exact .of_eq second.symm fun x => ⟨_, rfl⟩
  case h_12 => -- coll
    split at h
    case isTrue one =>
      cases h
      exact .of_eq one.symm fun x => ⟨_, rfl⟩
    case isFalse =>
      split at h
      case isTrue two =>
        cases h
        exact .of_eq two.symm fun x => ⟨_, rfl⟩
      case isFalse =>
        obtain ⟨⟨low, -⟩, h⟩ := ite_error_eq_ok.mp h
        obtain ⟨r, hr, rfl⟩ := need_map_eq_ok.mp h
        have code := CollRed.code_of_ofCode hr
        exact .of_eq (by omega) fun x => ⟨_, rfl⟩
  case h_15 => -- every other major: SUB is zero
    obtain ⟨zero, h⟩ := ite_error_eq_ok.mp h
    exact .of_eq zero.symm (names_plainMajors _ (mem_of_lookup (need_eq_ok.mp h)))

/-! ## Words that are read -/

section judge
variable {lim : Limits} {i : Instr} {len n : Nat}

theorem eq_of_judge {o : Option Instr} (h : judge lim n o = .ok (i, len)) : o = some i ∧ len = n := by
  cases o with
  | none => cases h
  | some k =>
    simp only [judge] at h
    split at h
    · cases h
    split at h <;> cases h
    exact ⟨rfl, rfl⟩

end judge

section words
variable {w : Nat}

/-- The eleven fields of an S-layout word are all of its bits (04 R85). -/
theorem argsWord_argsOf (hw : w < 2 ^ 64) (lit : Option Lit) :
    argsWord (w % 4) ((unpack sWidths w).getD 1 0) ((unpack sWidths w).getD 2 0) (argsOf w lit) = w := by
  have guard := Guard.code_guardOf (getD_unpack_lt sWidths w 3)
  have type := Ty.code_ofCode (getD_unpack_lt sWidths w 8)
  refine pack_eq_of_unpack hw ?_
  simp only [argsOf, List.map_cons, List.map_nil, guard, type]
  rfl

theorem litWord_of_litOf (hw : w < 2 ^ 64) {l : Lit} (h : litOf w = some l) : litWord l = w := by
  simp only [litOf, Option.ite_none_right_eq_some, Option.map_eq_some_iff] at h
  obtain ⟨reserved, sel, hsel, rfl⟩ := h
  have code := LSel.code_of_ofCode hsel
  have value : (unpack litWidths w).getD 0 0 % 2 ^ 32 = (unpack litWidths w).getD 0 0 := Nat.mod_eq_of_lt (getD_unpack_lt litWidths w 0)
  have fields : unpack litWidths w = [(unpack litWidths w).getD 0 0, (unpack litWidths w).getD 1 0, (unpack litWidths w).getD 2 0] := rfl
  rw [reserved] at fields
  refine pack_eq_of_unpack hw ?_
  simp only [List.map_cons, List.map_nil, code, BitVec.toNat_ofNat, value]
  exact fields

/-- A control word has no SUB, no MOD and no bits 63:60, which its reader holds to zero (06 R115). -/
theorem ctlWord_of_ctlOf (hw : w < 2 ^ 64) (hform : w % 4 = 0) (hsub : (unpack sWidths w).getD 2 0 = 0) {x : Ctl}
    (h : ctlOf w = some x) : ctlWord ((unpack sWidths w).getD 1 0) x = w := by
  simp only [ctlOf, Option.ite_none_right_eq_some, Option.some.injEq] at h
  obtain ⟨⟨modifier, ext⟩, rfl⟩ := h
  have guard := Guard.code_guardOf (getD_unpack_lt ctlWidths w 3)
  have fields : unpack ctlWidths w = [w % 4, (unpack sWidths w).getD 1 0, (unpack sWidths w).getD 2 0,
    (unpack ctlWidths w).getD 3 0, (unpack ctlWidths w).getD 4 0, (unpack ctlWidths w).getD 5 0, (unpack ctlWidths w).getD 6 0,
    (unpack ctlWidths w).getD 7 0, (unpack ctlWidths w).getD 8 0, (unpack ctlWidths w).getD 9 0] := rfl
  rw [hform, hsub, modifier, ext] at fields
  refine pack_eq_of_unpack hw ?_
  simp only [List.map_cons, List.map_nil, guard]
  exact fields

/-- A sub-operation's ten reserved bits are held to zero by its reader (04 R93). -/
theorem subWord_of_subOf (hw : w < 2 ^ 63) {x : SubOp} (h : subOf w = some x) : subWord x = w := by
  simp only [subOf, Option.ite_none_right_eq_some, Option.map_eq_some_iff] at h
  obtain ⟨reserved, op, hop, rfl⟩ := h
  have code := PairOp.code_of_ofCode hop
  have kc := bit_of_lt (getD_unpack_lt subWidths w 7)
  have kb := bit_of_lt (getD_unpack_lt subWidths w 6)
  have ka := bit_of_lt (getD_unpack_lt subWidths w 5)
  have type := Ty.code_ofCode (getD_unpack_lt subWidths w 10)
  have type2 := Ty.code_ofCode (getD_unpack_lt subWidths w 9)
  have fields : unpack subWidths w = (unpack subWidths w).getD 0 0 :: (unpack subWidths w).tail := rfl
  rw [reserved] at fields
  refine pack_eq_of_unpack (l := subFields _) hw ?_
  simp only [subFields, List.map_cons, List.map_nil, code, kc, kb, ka, type, type2]
  exact fields

theorem testWord_of_testOf (hw : w < 2 ^ 25) {t : PTest} (h : testOf w = some t) : testWord t = w := by
  simp only [testOf, Option.bind_eq_some_iff, Option.map_eq_some_iff] at h
  obtain ⟨tty, htty, cond, hcond, rfl⟩ := h
  refine pack_eq_of_unpack (l := testFields _) hw ?_
  simp only [testFields, List.map_cons, List.map_nil, testTyCode_of_testTyOf htty, Cond.code_of_ofCode hcond]
  rfl

theorem arcWord_of_arcOf (hw : w < 2 ^ 34) {r : PArc} (h : arcOf w = some r) : arcWord r = w := by
  simp only [arcOf, Option.map_eq_some_iff] at h
  obtain ⟨op, hop, rfl⟩ := h
  have lf := bit_of_lt (getD_unpack_lt arcWidths w 2)
  refine pack_eq_of_unpack (l := arcFields _) hw ?_
  simp only [arcFields, List.map_cons, List.map_nil, ArcOp.code_of_ofCode hop, lf]
  rfl

end words

/-! ## S, W-literal and control words -/

section rows
variable {maj sub : Nat} {k : Args → Instr} (hk : Names maj sub k) {x : Args}
include hk

theorem encode_of_lit_none (hl : x.lit = none) : encode (k x) = [argsWord 0 maj sub x] := by
  obtain ⟨f, hv⟩ := hk x
  simp only [encode, hv, hl]

theorem encode_of_lit_some {l : Lit} (hl : x.lit = some l) : encode (k x) = [argsWord 1 maj sub x, litWord l] := by
  obtain ⟨f, hv⟩ := hk x
  simp only [encode, hv, hl]

end rows

section accepted
variable {lim : Limits} {i : Instr} {form len w0 w1 : Nat}

/-- What an S or W-literal instruction is read as: one of the control group, which has no SUB and no literal, or one that its major and
SUB name. -/
theorem decodeSW_eq_ok (h : decodeSW lim form w0 w1 = .ok (i, len)) :
    (∃ k x, ((unpack sWidths w0).getD 1 0, k) ∈ ctlMajors ∧ (unpack sWidths w0).getD 2 0 = 0 ∧ form ≠ 1 ∧ ctlOf w0 = some x ∧
      k x = i ∧ len = 8) ∨
    (∃ k, Names ((unpack sWidths w0).getD 1 0) ((unpack sWidths w0).getD 2 0) k ∧
      (form = 0 ∧ k (argsOf w0 none) = i ∧ len = 8 ∨
        form ≠ 0 ∧ ∃ l, litOf w1 = some l ∧ k (argsOf w0 (some l)) = i ∧ len = 16)) := by
  simp only [decodeSW] at h
  split at h
  · cases h
  split at h
  case h_1 k hk =>
    split at h
    · cases h
    case isFalse hsub =>
      split at h
      · cases h
      case isFalse hform =>
        obtain ⟨hi, hlen⟩ := eq_of_judge h
        obtain ⟨x, hx, hi⟩ := Option.map_eq_some_iff.mp hi
        exact .inl ⟨k, x, mem_of_lookup hk, Decidable.not_not.mp hsub, hform, hx, hi, hlen⟩
  case h_2 =>
    split at h
    · cases h
    case h_2 k hk =>
      refine .inr ⟨k, names_of_ctorOf (getD_unpack_lt sWidths w0 2) hk, ?_⟩
      split at h
      case isTrue hform =>
        obtain ⟨hi, hlen⟩ := eq_of_judge h
        exact .inl ⟨hform, Option.some.inj hi, hlen⟩
      case isFalse hform =>
        obtain ⟨hi, hlen⟩ := eq_of_judge h
        obtain ⟨l, hl, hi⟩ := Option.map_eq_some_iff.mp hi
        exact .inr ⟨hform, l, hl, hi, hlen⟩

section encode
variable (h0 : w0 < 2 ^ 64)
include h0

/-- In S form the first word is all of the instruction. -/
theorem encode_of_decodeSW_zero (hform : w0 % 4 = 0) (h : decodeSW lim 0 w0 w1 = .ok (i, len)) : encode i = [w0] ∧ len = 8 := by
  obtain ⟨k, x, hk, hsub, -, hx, rfl, hlen⟩ | ⟨k, hk, ⟨-, rfl, hlen⟩ | ⟨hne, -⟩⟩ := decodeSW_eq_ok h
  · have hv := view_of_ctlMajors _ hk x
    exact ⟨by simp only [encode, hv, ctlWord_of_ctlOf h0 hform hsub hx], hlen⟩
  · have word := argsWord_argsOf h0 none
    rw [hform] at word
    exact ⟨(encode_of_lit_none hk rfl).trans (congrArg (fun w => [w]) word), hlen⟩
  · exact absurd rfl hne

/-- In W-literal form the second word is that of the literal. -/
theorem encode_of_decodeSW_one (h1 : w1 < 2 ^ 64) (hform : w0 % 4 = 1) (h : decodeSW lim 1 w0 w1 = .ok (i, len)) :
    encode i = [w0, w1] ∧ len = 16 := by
  obtain ⟨k, x, -, -, hne, -⟩ | ⟨k, hk, ⟨zero, -⟩ | ⟨-, l, hl, rfl, hlen⟩⟩ := decodeSW_eq_ok h
  · exact absurd rfl hne
  · exact absurd zero Nat.one_ne_zero
  · have word := argsWord_argsOf h0 (some l)
    rw [hform] at word
    exact ⟨by rw [encode_of_lit_some hk rfl, word, litWord_of_litOf h1 hl], hlen⟩

end encode

end accepted

/-! ## The words of a pair and of a prism -/

/-- The 128 bits of a pair are its form and its two sub-operations. -/
theorem encode_wPair_of_subOf {w0 w1 : Nat} (h0 : w0 < 2 ^ 64) (h1 : w1 < 2 ^ 64) (hform : w0 % 4 = 2) {x y : SubOp}
    (hx : subOf ((unpack [2, 63, 63] (joinWords [w0, w1])).getD 1 0) = some x)
    (hy : subOf ((unpack [2, 63, 63] (joinWords [w0, w1])).getD 2 0) = some y) : encode (.wPair x y) = [w0, w1] := by
  have words : ∀ w ∈ [w0, w1], w < 2 ^ 64 := List.forall_mem_cons.mpr ⟨h0, List.forall_mem_singleton.mpr h1⟩
  have fields : unpack [2, 63, 63] (joinWords [w0, w1]) = [joinWords [w0, w1] % 2 ^ 2,
    (unpack [2, 63, 63] (joinWords [w0, w1])).getD 1 0, (unpack [2, 63, 63] (joinWords [w0, w1])).getD 2 0] := rfl
  rw [joinWords_mod_four, hform, ← subWord_of_subOf (getD_unpack_lt [2, 63, 63] _ 1) hx,
    ← subWord_of_subOf (getD_unpack_lt [2, 63, 63] _ 2) hy] at fields
  have whole : pack (pairFields x y) = joinWords [w0, w1] := pack_eq_of_unpack (joinWords_lt words) fields
  exact (congrArg (unpack [64, 64]) whole).trans (unpack_joinWords words)

/-- When every word of a list reads as a value and each value has the word it was read from, the values have the list's words. -/
theorem map_of_allSome {α : Type} {f : Nat → Option α} {word : α → Nat} {l : List Nat} {r : List α}
    (h : ∀ w ∈ l, ∀ a, f w = some a → word a = w) (hr : allSome (l.map f) = some r) : r.map word = l := by
  induction l generalizing r with
  | nil => cases hr; rfl
  | cons w l ih =>
    rw [List.map_cons] at hr
    cases hw : f w with
    | none => rw [hw] at hr; cases hr
    | some a =>
      rw [hw, allSome, Option.map_eq_some_iff] at hr
      obtain ⟨rest, hrest, rfl⟩ := hr
      rw [List.map_cons, h w List.mem_cons_self a hw, ih (fun v hv => h v (List.mem_cons_of_mem w hv)) hrest]

/-- Fields of one width lie below its power. -/
theorem lt_of_mem_fields {ws : List Nat} {x k n b v : Nat} (hb : ∀ j < n, ws.getD (k + j) 0 = b)
    (hv : v ∈ ((unpack ws x).drop k).take n) : v < 2 ^ b := by
  obtain ⟨j, hj, rfl⟩ := List.getElem_of_mem hv
  have hn : j < n := Nat.lt_of_lt_of_le hj (List.length_take_le ..)
  have field := getD_unpack_lt ws x (k + j)
  rw [hb j hn] at field
  rw [List.getElem_take, List.getElem_drop]
  rwa [← List.getElem_eq_getD] at field

/-- The 512 bits packed from a prism are those it was read from, when their form and major are those of a prism (04 R97). -/
theorem prismWord_of_prismOf {w : Nat} (hw : w < 2 ^ prismWidths.sum) (hform : w % 2 ^ 2 = 3) (hmaj : (unpack prismWidths w).getD 1 0 = 7)
    {x : Prism} (hx : x.InWidth) (h : prismOf w = some x) : prismWord x = w := by
  simp only [prismOf, Option.bind_eq_some_iff, Option.ite_none_right_eq_some, Option.some.injEq] at h
  obtain ⟨ts, hts, rs, hrs, reserved, rfl⟩ := h
  have tests := map_of_allSome (word := testWord)
    (fun v hv t => testWord_of_testOf (lt_of_mem_fields (ws := prismWidths) (b := 25) (by decide) hv)) hts
  have arcs := map_of_allSome (word := arcWord)
    (fun v hv t => arcWord_of_arcOf (lt_of_mem_fields (ws := prismWidths) (b := 34) (by decide) hv)) hrs
  have leaf : pack ((unpack [2, 2, 2, 2, 2, 2, 2, 2] ((unpack prismWidths w).getD 19 0)).map fun c => (2, c)) =
      (unpack prismWidths w).getD 19 0 := pack_eq_of_unpack (getD_unpack_lt prismWidths w 19) rfl
  have guard := Guard.code_guardOf (getD_unpack_lt prismWidths w 5)
  have lit : (unpack prismWidths w).getD 22 0 % 2 ^ 32 = (unpack prismWidths w).getD 22 0 :=
    Nat.mod_eq_of_lt (getD_unpack_lt prismWidths w 22)
  have fields : unpack prismWidths w = [w % 2 ^ 2, (unpack prismWidths w).getD 1 0, (unpack prismWidths w).getD 2 0,
      (unpack prismWidths w).getD 3 0, (unpack prismWidths w).getD 4 0, (unpack prismWidths w).getD 5 0] ++
      ((unpack prismWidths w).drop 6).take 7 ++ ((unpack prismWidths w).drop 13).take 6 ++ [(unpack prismWidths w).getD 19 0,
      (unpack prismWidths w).getD 20 0, (unpack prismWidths w).getD 21 0, (unpack prismWidths w).getD 22 0,
      (unpack prismWidths w).getD 23 0] := rfl
  rw [hform, hmaj, reserved] at fields
  refine pack_eq_of_unpack (l := prismFields _) (by rwa [widths_prismFields hx]) ?_
  rw [widths_prismFields hx]
  simp only [prismFields, List.map_append, List.map_map, Function.comp_def, List.map_cons, List.map_nil, leaf, guard, tests, arcs,
    BitVec.toNat_ofNat, lit]
  exact fields

/-- So the eight words of a prism are its encoding. -/
theorem encode_prism_of_prismOf {w0 : Nat} {ws : List Nat} (hws : ∀ w ∈ w0 :: ws, w < 2 ^ 64) (eight : (w0 :: ws).length = 8)
    (hform : w0 % 4 = 3) (hmaj : (unpack prismWidths (joinWords (w0 :: ws))).getD 1 0 = 7) {x : Prism} (hx : x.InWidth)
    (h : prismOf (joinWords (w0 :: ws)) = some x) : encode (.prism x) = w0 :: ws := by
  have bits := joinWords_lt hws
  have words := unpack_joinWords hws
  rw [eight] at words
  rw [eight, show 8 * 64 = prismWidths.sum from rfl] at bits
  have whole := prismWord_of_prismOf bits ((joinWords_mod_four w0 ws).trans hform) hmaj hx h
  exact (congrArg (unpack (List.replicate 8 64)) whole).trans words

/-! ## The statement about what decodes (O3) -/

theorem getD_lt_of_words {ws : List Nat} (hws : ∀ w ∈ ws, w < 2 ^ 64) (k : Nat) : ws.getD k 0 < 2 ^ 64 := by
  rw [List.getD_eq_getElem?_getD]
  cases hk : ws[k]? with
  | none => exact Nat.two_pow_pos 64
  | some w => exact hws w (List.mem_of_getElem? hk)

/-- The words that an answer of the decoder was read from, form by form. -/
theorem encode_of_decode {lim : Limits} {pc len : Nat} {ws : List Nat} {i : Instr} (hws : ∀ w ∈ ws, w < 2 ^ 64)
    (h : decode lim pc ws = .ok (i, len)) :
    (List.range (len / 8)).map (fun k => ws.getD k 0) = encode i ∧ pc % len = 0 := by
  have word := getD_lt_of_words hws
  have wf := wellFormed_of_decode h
  simp only [decode] at h
  split at h <;> rw [ite_error_eq_ok] at h <;> obtain ⟨aligned, h⟩ := h
  case h_1 hform =>
    obtain ⟨hi, rfl⟩ := encode_of_decodeSW_zero (word 0) hform h
    exact ⟨hi.symm, aligned⟩
  case h_2 hform =>
    obtain ⟨hi, rfl⟩ := encode_of_decodeSW_one (word 0) (word 1) hform h
    exact ⟨hi.symm, aligned⟩
  case h_3 hform =>
    obtain ⟨hi, rfl⟩ := eq_of_judge h
    simp only [Option.bind_eq_some_iff, Option.map_eq_some_iff] at hi
    obtain ⟨x, hx, y, hy, rfl⟩ := hi
    exact ⟨(encode_wPair_of_subOf (word 0) (word 1) hform hx hy).symm, aligned⟩
  case h_4 not0 not1 not2 =>
    rw [ite_error_eq_ok] at h
    obtain ⟨hmaj, h⟩ := h
    obtain ⟨hi, rfl⟩ := eq_of_judge h
    obtain ⟨x, hx, rfl⟩ := Option.map_eq_some_iff.mp hi
    have hform : ws.getD 0 0 % 4 = 3 := by
      change _ ≠ _ at not0 not1 not2
      omega
    have width := Prism.inWidth_of_prismOk (wellFormed_iff.mp wf).1
    have eight : ∀ w ∈ (List.range 8).map fun k => ws.getD k 0, w < 2 ^ 64 := List.forall_mem_map.mpr fun k _ => word k
    exact ⟨(encode_prism_of_prismOf eight rfl hform hmaj width hx).symm, aligned⟩

/-- Settles O3: what decodes has passed the checks, and the fields that were read from its words pack to them again. -/
theorem encodeOfDecode : Obligations.EncodeOfDecode := by
  intro lim pc ws i len hws h
  exact ⟨wellFormed_of_decode h, encode_of_decode hws h⟩

end Sys2Proof
end
